-- ==== Sys2Proof/Word.lean ====
section
/-!
DEFINITION. The word types of the KS4 and their plainest arithmetic.
-/
namespace Sys2Proof

/-- One byte of any memory. -/
abbrev Byte := BitVec 8

/-- One 64-bit register, slot of a frame, or operation word (R16, R25, R56). -/
abbrev Word := BitVec 64

/-- One 64-byte vector register, temporary, bank line or vector payload (R56, R116). Byte k is bits 8k+7 to 8k. -/
abbrev Line := BitVec 512

/-- Bits [lo+len-1:lo] of a natural number, as a number. -/
def bitsOf (n lo len : Nat) : Nat := (n / 2 ^ lo) % 2 ^ len

/-- Bit k of a natural number. -/
def bitOf (n k : Nat) : Bool := (n / 2 ^ k) % 2 == 1

/-- The two's-complement reading of the low w bits of n (R137). -/
def signedOf (w n : Nat) : Int :=
  let m := n % 2 ^ w
  if m < 2 ^ (w - 1) then (m : Int) else (m : Int) - (2 ^ w : Nat)

/-- An integer modulo 2^w, as a number in 0 to 2^w - 1. -/
def wrapNat (w : Nat) (i : Int) : Nat := (i % ((2 ^ w : Nat) : Int)).toNat

/-- `Sat` of the manual: v held to lo..hi. -/
def satInt (v lo hi : Int) : Int := if v < lo then lo else if hi < v then hi else v

end Sys2Proof
end

