-- ==== Sys2Proof/Syntax.lean ====
section
/-!
DEFINITION. The instructions of the KS4: the operand specifiers and fields of a compute operation (R25 to R34), and
`Instr`, one constructor for each row of the opcode table: the 224 forms of the compute operations, then the steps of the
part, of the host and of firmware, then the host commands (R400 to R402).
-/
namespace Sys2Proof

/-- What an operand specifier names (R28). -/
inductive Reg where
  | g (i : Fin 32)    -- G0 to G31
  | t (i : Fin 16)    -- t0 to t15
  | v (i : Fin 8)     -- V0 to V7
  | p (i : Fin 8)     -- P0 to P7
  | qi (i : Fin 16)   -- QI0 to QI15
  | qo (i : Fin 16)   -- QO0 to QO15
  | c (i : Fin 32)    -- constants, the null destination and the immediate marker (R31)
deriving DecidableEq, Repr

/-- An operand specifier with its `mode` bit (R28, R29). -/
structure Opnd where
  reg : Reg
  mode : Bool
deriving DecidableEq, Repr

/-- The specifier 0x00: G0, and the mark of an absent operand (R26). -/
def Opnd.zero : Opnd := ⟨.g 0, false⟩
/-- The null destination 0xDF (R31). -/
def Opnd.null : Opnd := ⟨.c 31, false⟩

/-- The sixteen element types, in the order of their codes (R34). -/
inductive Ty where
  | i8 | n8 | i16 | n16 | i32 | n32 | i64 | n64 | e4m3 | e5m2 | f16 | bf16 | f32 | f64 | nq4 | rns
deriving DecidableEq, Repr

/-- Rounding modes, in the order of their codes (R25). -/
inductive Rm where
  | rne | rtz | rup | rdn
deriving DecidableEq, Repr

/-- Overflow policies, in the order of their codes (R25, R152). -/
inductive Ovf where
  | sat | inf | nan | trap
deriving DecidableEq, Repr

/-- The rest of a word after `srca`: the register form, or the I-form with its 28-bit field (R25, R32). `sr` is bit [13],
which some operations define as `imm` (R26, R297). -/
inductive Tail where
  | reg (b c : Opnd) (ty : Ty) (rm : Rm) (sr : Bool) (ovf : Ovf) (mod : BitVec 11)
  | imm (v : BitVec 28)
deriving DecidableEq, Repr

/-- The fields of a compute operation other than its opcode (R25). -/
structure Op where
  pred : Fin 8
  psense : Bool
  dst : Opnd
  a : Opnd
  tail : Tail
deriving DecidableEq, Repr

/-- Source B, absent in the I-form. -/
def Op.b (o : Op) : Opnd := match o.tail with | .reg b .. => b | .imm _ => Opnd.zero
/-- Source C, absent in the I-form. -/
def Op.c (o : Op) : Opnd := match o.tail with | .reg _ c .. => c | .imm _ => Opnd.zero
/-- The element type; the I-form acts on i64 (R32). -/
def Op.ty (o : Op) : Ty := match o.tail with | .reg _ _ ty .. => ty | .imm _ => .i64
/-- The rounding mode. -/
def Op.rm (o : Op) : Rm := match o.tail with | .reg _ _ _ rm .. => rm | .imm _ => .rne
/-- Bit [13]: stochastic rounding, or `imm` where the operation defines it so. -/
def Op.sr (o : Op) : Bool := match o.tail with | .reg _ _ _ _ sr .. => sr | .imm _ => false
/-- The overflow policy. -/
def Op.ovf (o : Op) : Ovf := match o.tail with | .reg _ _ _ _ _ ovf _ => ovf | .imm _ => .sat
/-- The modifier bits. -/
def Op.mod (o : Op) : BitVec 11 := match o.tail with | .reg _ _ _ _ _ _ m => m | .imm _ => 0
/-- The 28-bit field of the I-form, when there is one. -/
def Op.imm28 (o : Op) : Option (BitVec 28) := match o.tail with | .reg .. => none | .imm v => some v
/-- Bits [lo+len-1:lo] of `mod`. -/
def Op.modBits (o : Op) (lo len : Nat) : Nat := bitsOf o.mod.toNat lo len
/-- Bit k of `mod`. -/
def Op.modBit (o : Op) (k : Nat) : Bool := bitOf o.mod.toNat k

/-- The rows of the opcode table that are compute operations, in the table's order. A row is an opcode of R35, or one of
the forms the table gives an opcode: the target of `exit` and `call`, the action of `eret`, the kind of `fence`, the token
form of a matrix operation, the level of `done`, the service of `fwcall`. -/
inductive Row where
  | add | sub | mul | mulh | mulhu | div | divu | rem | remu | and | or | xor | andn | shl | shr | sar | rol
  | min | max | minu | maxu | clz | ctz | popc | sext | zext | bfx | bfi | shadd | mov | movi | movh | ceq
  | cne | clt | cle | cltu | cleu | ctst | pand | por | pxor | pnot | pmov | pany | pall | sel | exit
  | exitRegisterTarget | call | callRegisterTarget | ret | halt | yield | rep | imm | nop | trap | eretResume
  | eretPoison | eretEsc | brk | evLoop | evWait | evPulse | evRd | evArm | ldb | ldh | ldw | ldd | stb | sth
  | stw | std | lda | stl | fence | fenceAcq | fenceRls | ldm | stm | prf | vadd | vsub | vmul | vfma | vfms
  | vmin | vmax | vabs | vneg | vand | vor | vxor | vshl | vshr | vsar | vcmp | vsel | vdot | vsum | vrmin
  | vrmax | vbcast | vperm | vrot | vcompress | vexpand | vmov | vclamp | vmulh | vsadd | vssub | vavg | vcvt
  | vpack | vunpk | vrnd | vexp | vexp2 | vlog2 | vrcp | vrsq | vsqrt | vtanh | vscl | vqnt | vdqnt | vfclass
  | vld | vst | vldb | vstb | vgat | vsca | vconf | visect | viota | vmask | mxMma | mxMmaToken | mxImma
  | mxImmaToken | mxZero | mxZeroToken | mxDrain | mxDrainToken | mxFill | mxFillToken | mxRev | mxRevToken
  | mxChk | mxChkToken | mxDeg | rgPush | rgInfo | rgReset | vrnsFwd | vrnsRev | vrnsChk | mxWait | mxTag
  | qmark | qpoison | qlast | qpeek | qcnt | qdrop | qwaitr | rateSet | rateRd | rateW | qfmt | msg | atom
  | cas | cas2 | red | ceRed | ceProg | barInit | barArrive | barDrop | barWait | cstep | cstepTo | cstate
  | hbState | hbWait | hbSet | hbPub | hbAlloc | hbFree | shRd | shChk | spNew | spFree | lift | lower
  | recall | probe | drop | spPin | spUnpin | kvApp | pgRef | pgUnref | glLaunch | cntAdd | cntRd | cntWait
  | cancel | donePhase | doneJob | sprRd | sprWr | fwcallId | fwcallTick | fwcallBell | fwcallHealth | frz
  | thaw | rnsInj
deriving DecidableEq, Repr

/-- A host command entry, without its code (R400): `flags`, the job that submits it, the reply address and the arguments
a0 to a5. -/
structure Cmd where
  flags : Byte
  job : BitVec 16
  reply : Word
  a0 : Word
  a1 : Word
  a2 : Word
  a3 : Word
  a4 : Word
  a5 : Word
deriving DecidableEq, Repr

/-- What a step of the part, of the host or of firmware acts on, beside its row: the unit it happens at (a bank unit by its
absolute number (die x 64 + y) x 96 + x, a request, a flit, a write or a record by the number State gives it), a second
number (a slot, a route entry, a stream, a length), bytes, flags, and the command entry served. `State.my.arg` holds the one
of the step being executed (assumption 1, DESIGN CHOICE, unsafe). -/
structure Arg where
  n : Nat
  m : Nat
  bytes : List Byte
  flag : Bool
  flag2 : Bool
  cmd : Cmd
deriving DecidableEq, Repr

/-- A command entry of zeros. -/
def Cmd.zero : Cmd := ⟨0, 0, 0, 0, 0, 0, 0, 0, 0⟩

/-- The argument of a step that needs none. -/
def Arg.zero : Arg := ⟨0, 0, [], false, false, Cmd.zero⟩

/-- One row of the opcode table. The compute operations carry their fields. The steps of the part, of the host and of
firmware act on what `State.my.arg` names. -/
inductive Instr where
  | add (o : Op)
  | sub (o : Op)
  | mul (o : Op)
  | mulh (o : Op)
  | mulhu (o : Op)
  | div (o : Op)
  | divu (o : Op)
  | rem (o : Op)
  | remu (o : Op)
  | and (o : Op)
  | or (o : Op)
  | xor (o : Op)
  | andn (o : Op)
  | shl (o : Op)
  | shr (o : Op)
  | sar (o : Op)
  | rol (o : Op)
  | min (o : Op)
  | max (o : Op)
  | minu (o : Op)
  | maxu (o : Op)
  | clz (o : Op)
  | ctz (o : Op)
  | popc (o : Op)
  | sext (o : Op)
  | zext (o : Op)
  | bfx (o : Op)
  | bfi (o : Op)
  | shadd (o : Op)
  | mov (o : Op)
  | movi (o : Op)
  | movh (o : Op)
  | ceq (o : Op)
  | cne (o : Op)
  | clt (o : Op)
  | cle (o : Op)
  | cltu (o : Op)
  | cleu (o : Op)
  | ctst (o : Op)
  | pand (o : Op)
  | por (o : Op)
  | pxor (o : Op)
  | pnot (o : Op)
  | pmov (o : Op)
  | pany (o : Op)
  | pall (o : Op)
  | sel (o : Op)
  | exit (o : Op)
  | exitRegisterTarget (o : Op)
  | call (o : Op)
  | callRegisterTarget (o : Op)
  | ret (o : Op)
  | halt (o : Op)
  | yield (o : Op)
  | rep (o : Op)
  | imm (value : BitVec 32)
  | nop
  | trap (o : Op)
  | eretResume (o : Op)
  | eretPoison (o : Op)
  | eretEsc (o : Op)
  | brk (o : Op)
  | evLoop (o : Op)
  | evWait (o : Op)
  | evPulse (o : Op)
  | evRd (o : Op)
  | evArm (o : Op)
  | ldb (o : Op)
  | ldh (o : Op)
  | ldw (o : Op)
  | ldd (o : Op)
  | stb (o : Op)
  | sth (o : Op)
  | stw (o : Op)
  | std (o : Op)
  | lda (o : Op)
  | stl (o : Op)
  | fence (o : Op)
  | fenceAcq (o : Op)
  | fenceRls (o : Op)
  | ldm (o : Op)
  | stm (o : Op)
  | prf (o : Op)
  | vadd (o : Op)
  | vsub (o : Op)
  | vmul (o : Op)
  | vfma (o : Op)
  | vfms (o : Op)
  | vmin (o : Op)
  | vmax (o : Op)
  | vabs (o : Op)
  | vneg (o : Op)
  | vand (o : Op)
  | vor (o : Op)
  | vxor (o : Op)
  | vshl (o : Op)
  | vshr (o : Op)
  | vsar (o : Op)
  | vcmp (o : Op)
  | vsel (o : Op)
  | vdot (o : Op)
  | vsum (o : Op)
  | vrmin (o : Op)
  | vrmax (o : Op)
  | vbcast (o : Op)
  | vperm (o : Op)
  | vrot (o : Op)
  | vcompress (o : Op)
  | vexpand (o : Op)
  | vmov (o : Op)
  | vclamp (o : Op)
  | vmulh (o : Op)
  | vsadd (o : Op)
  | vssub (o : Op)
  | vavg (o : Op)
  | vcvt (o : Op)
  | vpack (o : Op)
  | vunpk (o : Op)
  | vrnd (o : Op)
  | vexp (o : Op)
  | vexp2 (o : Op)
  | vlog2 (o : Op)
  | vrcp (o : Op)
  | vrsq (o : Op)
  | vsqrt (o : Op)
  | vtanh (o : Op)
  | vscl (o : Op)
  | vqnt (o : Op)
  | vdqnt (o : Op)
  | vfclass (o : Op)
  | vld (o : Op)
  | vst (o : Op)
  | vldb (o : Op)
  | vstb (o : Op)
  | vgat (o : Op)
  | vsca (o : Op)
  | vconf (o : Op)
  | visect (o : Op)
  | viota (o : Op)
  | vmask (o : Op)
  | mxMma (o : Op)
  | mxMmaToken (o : Op)
  | mxImma (o : Op)
  | mxImmaToken (o : Op)
  | mxZero (o : Op)
  | mxZeroToken (o : Op)
  | mxDrain (o : Op)
  | mxDrainToken (o : Op)
  | mxFill (o : Op)
  | mxFillToken (o : Op)
  | mxRev (o : Op)
  | mxRevToken (o : Op)
  | mxChk (o : Op)
  | mxChkToken (o : Op)
  | mxDeg (o : Op)
  | rgPush (o : Op)
  | rgInfo (o : Op)
  | rgReset (o : Op)
  | vrnsFwd (o : Op)
  | vrnsRev (o : Op)
  | vrnsChk (o : Op)
  | mxWait (o : Op)
  | mxTag (o : Op)
  | qmark (o : Op)
  | qpoison (o : Op)
  | qlast (o : Op)
  | qpeek (o : Op)
  | qcnt (o : Op)
  | qdrop (o : Op)
  | qwaitr (o : Op)
  | rateSet (o : Op)
  | rateRd (o : Op)
  | rateW (o : Op)
  | qfmt (o : Op)
  | msg (o : Op)
  | atom (o : Op)
  | cas (o : Op)
  | cas2 (o : Op)
  | red (o : Op)
  | ceRed (o : Op)
  | ceProg (o : Op)
  | barInit (o : Op)
  | barArrive (o : Op)
  | barDrop (o : Op)
  | barWait (o : Op)
  | cstep (o : Op)
  | cstepTo (o : Op)
  | cstate (o : Op)
  | hbState (o : Op)
  | hbWait (o : Op)
  | hbSet (o : Op)
  | hbPub (o : Op)
  | hbAlloc (o : Op)
  | hbFree (o : Op)
  | shRd (o : Op)
  | shChk (o : Op)
  | spNew (o : Op)
  | spFree (o : Op)
  | lift (o : Op)
  | lower (o : Op)
  | recall (o : Op)
  | probe (o : Op)
  | drop (o : Op)
  | spPin (o : Op)
  | spUnpin (o : Op)
  | kvApp (o : Op)
  | pgRef (o : Op)
  | pgUnref (o : Op)
  | glLaunch (o : Op)
  | cntAdd (o : Op)
  | cntRd (o : Op)
  | cntWait (o : Op)
  | cancel (o : Op)
  | donePhase (o : Op)
  | doneJob (o : Op)
  | sprRd (o : Op)
  | sprWr (o : Op)
  | fwcallId (o : Op)
  | fwcallTick (o : Op)
  | fwcallBell (o : Op)
  | fwcallHealth (o : Op)
  | frz (o : Op)
  | thaw (o : Op)
  | rnsInj (o : Op)
  | issueCycle
  | blockCommit
  | blockFetchComplete
  | detachedResult
  | detachedFailure
  | handlerRunStart
  | rateStep
  | rateFlitArrival
  | statusFlitArrival
  | tokenHop
  | creditFlitArrival
  | boundaryGrant
  | passFiring
  | forkFiring
  | steerFiring
  | mergeFiring
  | carryFiring
  | invariantFiring
  | dropFiring
  | markerFiring
  | poisonControlFiring
  | mxTokenStart
  | mxTokenRetire
  | evTick
  | sSourcePulse
  | targetFiring
  | streamRunBegin
  | streamRequest
  | streamRunEnd
  | streamRunFail
  | translationRefill
  | handleRequestService
  | hbWaitAnswer
  | storePerform
  | atomicExecute
  | mailboxAppend
  | ceRedRun
  | ceProgStart
  | ceProgRowStep
  | ceWindowExpiry
  | barrierOp
  | barWaitAnswer
  | counterRequest
  | cntWaitAnswer
  | ladderRequestService
  | parkedRetry
  | transformEnd
  | dyingPageFree
  | launchArrival
  | launchStart
  | launchCompletion
  | regionPlacement
  | quantumExpiry
  | faultRecordDelivery
  | roundCommit
  | thirdPlacementVote
  | rollback
  | hang
  | freezeWave
  | retentionEntry
  | retentionExit
  | bankDropMigration
  | linkRetrainFailure
  | alarm
  | clockSync
  | moduleClockTick
  | thermalClockStep
  | powerOn
  | hostMemoryWrite
  | hostMemoryRead
  | peerRequest
  | bell
  | hbell
  | hostRegisterWrite
  | arm
  | armRelease
  | launch
  | launchDual
  | cancelCommand
  | queryCounter
  | queryGraphQueue
  | queryPhaseQueue
  | queryRgnStat
  | queryHealth
  | map
  | bindClass
  | bindTransform
  | gang
  | attest
  | reset
  | policyModuleId
  | policyPool
  | policySpanDirectory
  | policyCeWin
  | policyTestMode
  | policyClearMode
  | policyBudget
  | policyAlarm
  | policyTimeRoot
  | fwcallService
  | jondovyLinkTraining
  | peerLinkGrant
deriving DecidableEq, Repr

/-- The row of a compute operation; none for a step or a host command. -/
def Instr.row : Instr → Option Row
  | .add _ => some .add
  | .sub _ => some .sub
  | .mul _ => some .mul
  | .mulh _ => some .mulh
  | .mulhu _ => some .mulhu
  | .div _ => some .div
  | .divu _ => some .divu
  | .rem _ => some .rem
  | .remu _ => some .remu
  | .and _ => some .and
  | .or _ => some .or
  | .xor _ => some .xor
  | .andn _ => some .andn
  | .shl _ => some .shl
  | .shr _ => some .shr
  | .sar _ => some .sar
  | .rol _ => some .rol
  | .min _ => some .min
  | .max _ => some .max
  | .minu _ => some .minu
  | .maxu _ => some .maxu
  | .clz _ => some .clz
  | .ctz _ => some .ctz
  | .popc _ => some .popc
  | .sext _ => some .sext
  | .zext _ => some .zext
  | .bfx _ => some .bfx
  | .bfi _ => some .bfi
  | .shadd _ => some .shadd
  | .mov _ => some .mov
  | .movi _ => some .movi
  | .movh _ => some .movh
  | .ceq _ => some .ceq
  | .cne _ => some .cne
  | .clt _ => some .clt
  | .cle _ => some .cle
  | .cltu _ => some .cltu
  | .cleu _ => some .cleu
  | .ctst _ => some .ctst
  | .pand _ => some .pand
  | .por _ => some .por
  | .pxor _ => some .pxor
  | .pnot _ => some .pnot
  | .pmov _ => some .pmov
  | .pany _ => some .pany
  | .pall _ => some .pall
  | .sel _ => some .sel
  | .exit _ => some .exit
  | .exitRegisterTarget _ => some .exitRegisterTarget
  | .call _ => some .call
  | .callRegisterTarget _ => some .callRegisterTarget
  | .ret _ => some .ret
  | .halt _ => some .halt
  | .yield _ => some .yield
  | .rep _ => some .rep
  | .imm _ => some .imm
  | .nop => some .nop
  | .trap _ => some .trap
  | .eretResume _ => some .eretResume
  | .eretPoison _ => some .eretPoison
  | .eretEsc _ => some .eretEsc
  | .brk _ => some .brk
  | .evLoop _ => some .evLoop
  | .evWait _ => some .evWait
  | .evPulse _ => some .evPulse
  | .evRd _ => some .evRd
  | .evArm _ => some .evArm
  | .ldb _ => some .ldb
  | .ldh _ => some .ldh
  | .ldw _ => some .ldw
  | .ldd _ => some .ldd
  | .stb _ => some .stb
  | .sth _ => some .sth
  | .stw _ => some .stw
  | .std _ => some .std
  | .lda _ => some .lda
  | .stl _ => some .stl
  | .fence _ => some .fence
  | .fenceAcq _ => some .fenceAcq
  | .fenceRls _ => some .fenceRls
  | .ldm _ => some .ldm
  | .stm _ => some .stm
  | .prf _ => some .prf
  | .vadd _ => some .vadd
  | .vsub _ => some .vsub
  | .vmul _ => some .vmul
  | .vfma _ => some .vfma
  | .vfms _ => some .vfms
  | .vmin _ => some .vmin
  | .vmax _ => some .vmax
  | .vabs _ => some .vabs
  | .vneg _ => some .vneg
  | .vand _ => some .vand
  | .vor _ => some .vor
  | .vxor _ => some .vxor
  | .vshl _ => some .vshl
  | .vshr _ => some .vshr
  | .vsar _ => some .vsar
  | .vcmp _ => some .vcmp
  | .vsel _ => some .vsel
  | .vdot _ => some .vdot
  | .vsum _ => some .vsum
  | .vrmin _ => some .vrmin
  | .vrmax _ => some .vrmax
  | .vbcast _ => some .vbcast
  | .vperm _ => some .vperm
  | .vrot _ => some .vrot
  | .vcompress _ => some .vcompress
  | .vexpand _ => some .vexpand
  | .vmov _ => some .vmov
  | .vclamp _ => some .vclamp
  | .vmulh _ => some .vmulh
  | .vsadd _ => some .vsadd
  | .vssub _ => some .vssub
  | .vavg _ => some .vavg
  | .vcvt _ => some .vcvt
  | .vpack _ => some .vpack
  | .vunpk _ => some .vunpk
  | .vrnd _ => some .vrnd
  | .vexp _ => some .vexp
  | .vexp2 _ => some .vexp2
  | .vlog2 _ => some .vlog2
  | .vrcp _ => some .vrcp
  | .vrsq _ => some .vrsq
  | .vsqrt _ => some .vsqrt
  | .vtanh _ => some .vtanh
  | .vscl _ => some .vscl
  | .vqnt _ => some .vqnt
  | .vdqnt _ => some .vdqnt
  | .vfclass _ => some .vfclass
  | .vld _ => some .vld
  | .vst _ => some .vst
  | .vldb _ => some .vldb
  | .vstb _ => some .vstb
  | .vgat _ => some .vgat
  | .vsca _ => some .vsca
  | .vconf _ => some .vconf
  | .visect _ => some .visect
  | .viota _ => some .viota
  | .vmask _ => some .vmask
  | .mxMma _ => some .mxMma
  | .mxMmaToken _ => some .mxMmaToken
  | .mxImma _ => some .mxImma
  | .mxImmaToken _ => some .mxImmaToken
  | .mxZero _ => some .mxZero
  | .mxZeroToken _ => some .mxZeroToken
  | .mxDrain _ => some .mxDrain
  | .mxDrainToken _ => some .mxDrainToken
  | .mxFill _ => some .mxFill
  | .mxFillToken _ => some .mxFillToken
  | .mxRev _ => some .mxRev
  | .mxRevToken _ => some .mxRevToken
  | .mxChk _ => some .mxChk
  | .mxChkToken _ => some .mxChkToken
  | .mxDeg _ => some .mxDeg
  | .rgPush _ => some .rgPush
  | .rgInfo _ => some .rgInfo
  | .rgReset _ => some .rgReset
  | .vrnsFwd _ => some .vrnsFwd
  | .vrnsRev _ => some .vrnsRev
  | .vrnsChk _ => some .vrnsChk
  | .mxWait _ => some .mxWait
  | .mxTag _ => some .mxTag
  | .qmark _ => some .qmark
  | .qpoison _ => some .qpoison
  | .qlast _ => some .qlast
  | .qpeek _ => some .qpeek
  | .qcnt _ => some .qcnt
  | .qdrop _ => some .qdrop
  | .qwaitr _ => some .qwaitr
  | .rateSet _ => some .rateSet
  | .rateRd _ => some .rateRd
  | .rateW _ => some .rateW
  | .qfmt _ => some .qfmt
  | .msg _ => some .msg
  | .atom _ => some .atom
  | .cas _ => some .cas
  | .cas2 _ => some .cas2
  | .red _ => some .red
  | .ceRed _ => some .ceRed
  | .ceProg _ => some .ceProg
  | .barInit _ => some .barInit
  | .barArrive _ => some .barArrive
  | .barDrop _ => some .barDrop
  | .barWait _ => some .barWait
  | .cstep _ => some .cstep
  | .cstepTo _ => some .cstepTo
  | .cstate _ => some .cstate
  | .hbState _ => some .hbState
  | .hbWait _ => some .hbWait
  | .hbSet _ => some .hbSet
  | .hbPub _ => some .hbPub
  | .hbAlloc _ => some .hbAlloc
  | .hbFree _ => some .hbFree
  | .shRd _ => some .shRd
  | .shChk _ => some .shChk
  | .spNew _ => some .spNew
  | .spFree _ => some .spFree
  | .lift _ => some .lift
  | .lower _ => some .lower
  | .recall _ => some .recall
  | .probe _ => some .probe
  | .drop _ => some .drop
  | .spPin _ => some .spPin
  | .spUnpin _ => some .spUnpin
  | .kvApp _ => some .kvApp
  | .pgRef _ => some .pgRef
  | .pgUnref _ => some .pgUnref
  | .glLaunch _ => some .glLaunch
  | .cntAdd _ => some .cntAdd
  | .cntRd _ => some .cntRd
  | .cntWait _ => some .cntWait
  | .cancel _ => some .cancel
  | .donePhase _ => some .donePhase
  | .doneJob _ => some .doneJob
  | .sprRd _ => some .sprRd
  | .sprWr _ => some .sprWr
  | .fwcallId _ => some .fwcallId
  | .fwcallTick _ => some .fwcallTick
  | .fwcallBell _ => some .fwcallBell
  | .fwcallHealth _ => some .fwcallHealth
  | .frz _ => some .frz
  | .thaw _ => some .thaw
  | .rnsInj _ => some .rnsInj
  | .issueCycle => none
  | .blockCommit => none
  | .blockFetchComplete => none
  | .detachedResult => none
  | .detachedFailure => none
  | .handlerRunStart => none
  | .rateStep => none
  | .rateFlitArrival => none
  | .statusFlitArrival => none
  | .tokenHop => none
  | .creditFlitArrival => none
  | .boundaryGrant => none
  | .passFiring => none
  | .forkFiring => none
  | .steerFiring => none
  | .mergeFiring => none
  | .carryFiring => none
  | .invariantFiring => none
  | .dropFiring => none
  | .markerFiring => none
  | .poisonControlFiring => none
  | .mxTokenStart => none
  | .mxTokenRetire => none
  | .evTick => none
  | .sSourcePulse => none
  | .targetFiring => none
  | .streamRunBegin => none
  | .streamRequest => none
  | .streamRunEnd => none
  | .streamRunFail => none
  | .translationRefill => none
  | .handleRequestService => none
  | .hbWaitAnswer => none
  | .storePerform => none
  | .atomicExecute => none
  | .mailboxAppend => none
  | .ceRedRun => none
  | .ceProgStart => none
  | .ceProgRowStep => none
  | .ceWindowExpiry => none
  | .barrierOp => none
  | .barWaitAnswer => none
  | .counterRequest => none
  | .cntWaitAnswer => none
  | .ladderRequestService => none
  | .parkedRetry => none
  | .transformEnd => none
  | .dyingPageFree => none
  | .launchArrival => none
  | .launchStart => none
  | .launchCompletion => none
  | .regionPlacement => none
  | .quantumExpiry => none
  | .faultRecordDelivery => none
  | .roundCommit => none
  | .thirdPlacementVote => none
  | .rollback => none
  | .hang => none
  | .freezeWave => none
  | .retentionEntry => none
  | .retentionExit => none
  | .bankDropMigration => none
  | .linkRetrainFailure => none
  | .alarm => none
  | .clockSync => none
  | .moduleClockTick => none
  | .thermalClockStep => none
  | .powerOn => none
  | .hostMemoryWrite => none
  | .hostMemoryRead => none
  | .peerRequest => none
  | .bell => none
  | .hbell => none
  | .hostRegisterWrite => none
  | .arm => none
  | .armRelease => none
  | .launch => none
  | .launchDual => none
  | .cancelCommand => none
  | .queryCounter => none
  | .queryGraphQueue => none
  | .queryPhaseQueue => none
  | .queryRgnStat => none
  | .queryHealth => none
  | .map => none
  | .bindClass => none
  | .bindTransform => none
  | .gang => none
  | .attest => none
  | .reset => none
  | .policyModuleId => none
  | .policyPool => none
  | .policySpanDirectory => none
  | .policyCeWin => none
  | .policyTestMode => none
  | .policyClearMode => none
  | .policyBudget => none
  | .policyAlarm => none
  | .policyTimeRoot => none
  | .fwcallService => none
  | .jondovyLinkTraining => none
  | .peerLinkGrant => none

/-- The compute operation of a row with given fields; none for `imm` and `nop`, which have none (R33). -/
def Row.mk : Row → Op → Option Instr
  | .add, o => some (.add o)
  | .sub, o => some (.sub o)
  | .mul, o => some (.mul o)
  | .mulh, o => some (.mulh o)
  | .mulhu, o => some (.mulhu o)
  | .div, o => some (.div o)
  | .divu, o => some (.divu o)
  | .rem, o => some (.rem o)
  | .remu, o => some (.remu o)
  | .and, o => some (.and o)
  | .or, o => some (.or o)
  | .xor, o => some (.xor o)
  | .andn, o => some (.andn o)
  | .shl, o => some (.shl o)
  | .shr, o => some (.shr o)
  | .sar, o => some (.sar o)
  | .rol, o => some (.rol o)
  | .min, o => some (.min o)
  | .max, o => some (.max o)
  | .minu, o => some (.minu o)
  | .maxu, o => some (.maxu o)
  | .clz, o => some (.clz o)
  | .ctz, o => some (.ctz o)
  | .popc, o => some (.popc o)
  | .sext, o => some (.sext o)
  | .zext, o => some (.zext o)
  | .bfx, o => some (.bfx o)
  | .bfi, o => some (.bfi o)
  | .shadd, o => some (.shadd o)
  | .mov, o => some (.mov o)
  | .movi, o => some (.movi o)
  | .movh, o => some (.movh o)
  | .ceq, o => some (.ceq o)
  | .cne, o => some (.cne o)
  | .clt, o => some (.clt o)
  | .cle, o => some (.cle o)
  | .cltu, o => some (.cltu o)
  | .cleu, o => some (.cleu o)
  | .ctst, o => some (.ctst o)
  | .pand, o => some (.pand o)
  | .por, o => some (.por o)
  | .pxor, o => some (.pxor o)
  | .pnot, o => some (.pnot o)
  | .pmov, o => some (.pmov o)
  | .pany, o => some (.pany o)
  | .pall, o => some (.pall o)
  | .sel, o => some (.sel o)
  | .exit, o => some (.exit o)
  | .exitRegisterTarget, o => some (.exitRegisterTarget o)
  | .call, o => some (.call o)
  | .callRegisterTarget, o => some (.callRegisterTarget o)
  | .ret, o => some (.ret o)
  | .halt, o => some (.halt o)
  | .yield, o => some (.yield o)
  | .rep, o => some (.rep o)
  | .imm, _ => none
  | .nop, _ => none
  | .trap, o => some (.trap o)
  | .eretResume, o => some (.eretResume o)
  | .eretPoison, o => some (.eretPoison o)
  | .eretEsc, o => some (.eretEsc o)
  | .brk, o => some (.brk o)
  | .evLoop, o => some (.evLoop o)
  | .evWait, o => some (.evWait o)
  | .evPulse, o => some (.evPulse o)
  | .evRd, o => some (.evRd o)
  | .evArm, o => some (.evArm o)
  | .ldb, o => some (.ldb o)
  | .ldh, o => some (.ldh o)
  | .ldw, o => some (.ldw o)
  | .ldd, o => some (.ldd o)
  | .stb, o => some (.stb o)
  | .sth, o => some (.sth o)
  | .stw, o => some (.stw o)
  | .std, o => some (.std o)
  | .lda, o => some (.lda o)
  | .stl, o => some (.stl o)
  | .fence, o => some (.fence o)
  | .fenceAcq, o => some (.fenceAcq o)
  | .fenceRls, o => some (.fenceRls o)
  | .ldm, o => some (.ldm o)
  | .stm, o => some (.stm o)
  | .prf, o => some (.prf o)
  | .vadd, o => some (.vadd o)
  | .vsub, o => some (.vsub o)
  | .vmul, o => some (.vmul o)
  | .vfma, o => some (.vfma o)
  | .vfms, o => some (.vfms o)
  | .vmin, o => some (.vmin o)
  | .vmax, o => some (.vmax o)
  | .vabs, o => some (.vabs o)
  | .vneg, o => some (.vneg o)
  | .vand, o => some (.vand o)
  | .vor, o => some (.vor o)
  | .vxor, o => some (.vxor o)
  | .vshl, o => some (.vshl o)
  | .vshr, o => some (.vshr o)
  | .vsar, o => some (.vsar o)
  | .vcmp, o => some (.vcmp o)
  | .vsel, o => some (.vsel o)
  | .vdot, o => some (.vdot o)
  | .vsum, o => some (.vsum o)
  | .vrmin, o => some (.vrmin o)
  | .vrmax, o => some (.vrmax o)
  | .vbcast, o => some (.vbcast o)
  | .vperm, o => some (.vperm o)
  | .vrot, o => some (.vrot o)
  | .vcompress, o => some (.vcompress o)
  | .vexpand, o => some (.vexpand o)
  | .vmov, o => some (.vmov o)
  | .vclamp, o => some (.vclamp o)
  | .vmulh, o => some (.vmulh o)
  | .vsadd, o => some (.vsadd o)
  | .vssub, o => some (.vssub o)
  | .vavg, o => some (.vavg o)
  | .vcvt, o => some (.vcvt o)
  | .vpack, o => some (.vpack o)
  | .vunpk, o => some (.vunpk o)
  | .vrnd, o => some (.vrnd o)
  | .vexp, o => some (.vexp o)
  | .vexp2, o => some (.vexp2 o)
  | .vlog2, o => some (.vlog2 o)
  | .vrcp, o => some (.vrcp o)
  | .vrsq, o => some (.vrsq o)
  | .vsqrt, o => some (.vsqrt o)
  | .vtanh, o => some (.vtanh o)
  | .vscl, o => some (.vscl o)
  | .vqnt, o => some (.vqnt o)
  | .vdqnt, o => some (.vdqnt o)
  | .vfclass, o => some (.vfclass o)
  | .vld, o => some (.vld o)
  | .vst, o => some (.vst o)
  | .vldb, o => some (.vldb o)
  | .vstb, o => some (.vstb o)
  | .vgat, o => some (.vgat o)
  | .vsca, o => some (.vsca o)
  | .vconf, o => some (.vconf o)
  | .visect, o => some (.visect o)
  | .viota, o => some (.viota o)
  | .vmask, o => some (.vmask o)
  | .mxMma, o => some (.mxMma o)
  | .mxMmaToken, o => some (.mxMmaToken o)
  | .mxImma, o => some (.mxImma o)
  | .mxImmaToken, o => some (.mxImmaToken o)
  | .mxZero, o => some (.mxZero o)
  | .mxZeroToken, o => some (.mxZeroToken o)
  | .mxDrain, o => some (.mxDrain o)
  | .mxDrainToken, o => some (.mxDrainToken o)
  | .mxFill, o => some (.mxFill o)
  | .mxFillToken, o => some (.mxFillToken o)
  | .mxRev, o => some (.mxRev o)
  | .mxRevToken, o => some (.mxRevToken o)
  | .mxChk, o => some (.mxChk o)
  | .mxChkToken, o => some (.mxChkToken o)
  | .mxDeg, o => some (.mxDeg o)
  | .rgPush, o => some (.rgPush o)
  | .rgInfo, o => some (.rgInfo o)
  | .rgReset, o => some (.rgReset o)
  | .vrnsFwd, o => some (.vrnsFwd o)
  | .vrnsRev, o => some (.vrnsRev o)
  | .vrnsChk, o => some (.vrnsChk o)
  | .mxWait, o => some (.mxWait o)
  | .mxTag, o => some (.mxTag o)
  | .qmark, o => some (.qmark o)
  | .qpoison, o => some (.qpoison o)
  | .qlast, o => some (.qlast o)
  | .qpeek, o => some (.qpeek o)
  | .qcnt, o => some (.qcnt o)
  | .qdrop, o => some (.qdrop o)
  | .qwaitr, o => some (.qwaitr o)
  | .rateSet, o => some (.rateSet o)
  | .rateRd, o => some (.rateRd o)
  | .rateW, o => some (.rateW o)
  | .qfmt, o => some (.qfmt o)
  | .msg, o => some (.msg o)
  | .atom, o => some (.atom o)
  | .cas, o => some (.cas o)
  | .cas2, o => some (.cas2 o)
  | .red, o => some (.red o)
  | .ceRed, o => some (.ceRed o)
  | .ceProg, o => some (.ceProg o)
  | .barInit, o => some (.barInit o)
  | .barArrive, o => some (.barArrive o)
  | .barDrop, o => some (.barDrop o)
  | .barWait, o => some (.barWait o)
  | .cstep, o => some (.cstep o)
  | .cstepTo, o => some (.cstepTo o)
  | .cstate, o => some (.cstate o)
  | .hbState, o => some (.hbState o)
  | .hbWait, o => some (.hbWait o)
  | .hbSet, o => some (.hbSet o)
  | .hbPub, o => some (.hbPub o)
  | .hbAlloc, o => some (.hbAlloc o)
  | .hbFree, o => some (.hbFree o)
  | .shRd, o => some (.shRd o)
  | .shChk, o => some (.shChk o)
  | .spNew, o => some (.spNew o)
  | .spFree, o => some (.spFree o)
  | .lift, o => some (.lift o)
  | .lower, o => some (.lower o)
  | .recall, o => some (.recall o)
  | .probe, o => some (.probe o)
  | .drop, o => some (.drop o)
  | .spPin, o => some (.spPin o)
  | .spUnpin, o => some (.spUnpin o)
  | .kvApp, o => some (.kvApp o)
  | .pgRef, o => some (.pgRef o)
  | .pgUnref, o => some (.pgUnref o)
  | .glLaunch, o => some (.glLaunch o)
  | .cntAdd, o => some (.cntAdd o)
  | .cntRd, o => some (.cntRd o)
  | .cntWait, o => some (.cntWait o)
  | .cancel, o => some (.cancel o)
  | .donePhase, o => some (.donePhase o)
  | .doneJob, o => some (.doneJob o)
  | .sprRd, o => some (.sprRd o)
  | .sprWr, o => some (.sprWr o)
  | .fwcallId, o => some (.fwcallId o)
  | .fwcallTick, o => some (.fwcallTick o)
  | .fwcallBell, o => some (.fwcallBell o)
  | .fwcallHealth, o => some (.fwcallHealth o)
  | .frz, o => some (.frz o)
  | .thaw, o => some (.thaw o)
  | .rnsInj, o => some (.rnsInj o)

/-- The fields of a compute operation; none for `imm`, `nop`, steps and commands. -/
def Instr.op? : Instr → Option Op
  | .add o => some o
  | .sub o => some o
  | .mul o => some o
  | .mulh o => some o
  | .mulhu o => some o
  | .div o => some o
  | .divu o => some o
  | .rem o => some o
  | .remu o => some o
  | .and o => some o
  | .or o => some o
  | .xor o => some o
  | .andn o => some o
  | .shl o => some o
  | .shr o => some o
  | .sar o => some o
  | .rol o => some o
  | .min o => some o
  | .max o => some o
  | .minu o => some o
  | .maxu o => some o
  | .clz o => some o
  | .ctz o => some o
  | .popc o => some o
  | .sext o => some o
  | .zext o => some o
  | .bfx o => some o
  | .bfi o => some o
  | .shadd o => some o
  | .mov o => some o
  | .movi o => some o
  | .movh o => some o
  | .ceq o => some o
  | .cne o => some o
  | .clt o => some o
  | .cle o => some o
  | .cltu o => some o
  | .cleu o => some o
  | .ctst o => some o
  | .pand o => some o
  | .por o => some o
  | .pxor o => some o
  | .pnot o => some o
  | .pmov o => some o
  | .pany o => some o
  | .pall o => some o
  | .sel o => some o
  | .exit o => some o
  | .exitRegisterTarget o => some o
  | .call o => some o
  | .callRegisterTarget o => some o
  | .ret o => some o
  | .halt o => some o
  | .yield o => some o
  | .rep o => some o
  | .imm _ => none
  | .nop => none
  | .trap o => some o
  | .eretResume o => some o
  | .eretPoison o => some o
  | .eretEsc o => some o
  | .brk o => some o
  | .evLoop o => some o
  | .evWait o => some o
  | .evPulse o => some o
  | .evRd o => some o
  | .evArm o => some o
  | .ldb o => some o
  | .ldh o => some o
  | .ldw o => some o
  | .ldd o => some o
  | .stb o => some o
  | .sth o => some o
  | .stw o => some o
  | .std o => some o
  | .lda o => some o
  | .stl o => some o
  | .fence o => some o
  | .fenceAcq o => some o
  | .fenceRls o => some o
  | .ldm o => some o
  | .stm o => some o
  | .prf o => some o
  | .vadd o => some o
  | .vsub o => some o
  | .vmul o => some o
  | .vfma o => some o
  | .vfms o => some o
  | .vmin o => some o
  | .vmax o => some o
  | .vabs o => some o
  | .vneg o => some o
  | .vand o => some o
  | .vor o => some o
  | .vxor o => some o
  | .vshl o => some o
  | .vshr o => some o
  | .vsar o => some o
  | .vcmp o => some o
  | .vsel o => some o
  | .vdot o => some o
  | .vsum o => some o
  | .vrmin o => some o
  | .vrmax o => some o
  | .vbcast o => some o
  | .vperm o => some o
  | .vrot o => some o
  | .vcompress o => some o
  | .vexpand o => some o
  | .vmov o => some o
  | .vclamp o => some o
  | .vmulh o => some o
  | .vsadd o => some o
  | .vssub o => some o
  | .vavg o => some o
  | .vcvt o => some o
  | .vpack o => some o
  | .vunpk o => some o
  | .vrnd o => some o
  | .vexp o => some o
  | .vexp2 o => some o
  | .vlog2 o => some o
  | .vrcp o => some o
  | .vrsq o => some o
  | .vsqrt o => some o
  | .vtanh o => some o
  | .vscl o => some o
  | .vqnt o => some o
  | .vdqnt o => some o
  | .vfclass o => some o
  | .vld o => some o
  | .vst o => some o
  | .vldb o => some o
  | .vstb o => some o
  | .vgat o => some o
  | .vsca o => some o
  | .vconf o => some o
  | .visect o => some o
  | .viota o => some o
  | .vmask o => some o
  | .mxMma o => some o
  | .mxMmaToken o => some o
  | .mxImma o => some o
  | .mxImmaToken o => some o
  | .mxZero o => some o
  | .mxZeroToken o => some o
  | .mxDrain o => some o
  | .mxDrainToken o => some o
  | .mxFill o => some o
  | .mxFillToken o => some o
  | .mxRev o => some o
  | .mxRevToken o => some o
  | .mxChk o => some o
  | .mxChkToken o => some o
  | .mxDeg o => some o
  | .rgPush o => some o
  | .rgInfo o => some o
  | .rgReset o => some o
  | .vrnsFwd o => some o
  | .vrnsRev o => some o
  | .vrnsChk o => some o
  | .mxWait o => some o
  | .mxTag o => some o
  | .qmark o => some o
  | .qpoison o => some o
  | .qlast o => some o
  | .qpeek o => some o
  | .qcnt o => some o
  | .qdrop o => some o
  | .qwaitr o => some o
  | .rateSet o => some o
  | .rateRd o => some o
  | .rateW o => some o
  | .qfmt o => some o
  | .msg o => some o
  | .atom o => some o
  | .cas o => some o
  | .cas2 o => some o
  | .red o => some o
  | .ceRed o => some o
  | .ceProg o => some o
  | .barInit o => some o
  | .barArrive o => some o
  | .barDrop o => some o
  | .barWait o => some o
  | .cstep o => some o
  | .cstepTo o => some o
  | .cstate o => some o
  | .hbState o => some o
  | .hbWait o => some o
  | .hbSet o => some o
  | .hbPub o => some o
  | .hbAlloc o => some o
  | .hbFree o => some o
  | .shRd o => some o
  | .shChk o => some o
  | .spNew o => some o
  | .spFree o => some o
  | .lift o => some o
  | .lower o => some o
  | .recall o => some o
  | .probe o => some o
  | .drop o => some o
  | .spPin o => some o
  | .spUnpin o => some o
  | .kvApp o => some o
  | .pgRef o => some o
  | .pgUnref o => some o
  | .glLaunch o => some o
  | .cntAdd o => some o
  | .cntRd o => some o
  | .cntWait o => some o
  | .cancel o => some o
  | .donePhase o => some o
  | .doneJob o => some o
  | .sprRd o => some o
  | .sprWr o => some o
  | .fwcallId o => some o
  | .fwcallTick o => some o
  | .fwcallBell o => some o
  | .fwcallHealth o => some o
  | .frz o => some o
  | .thaw o => some o
  | .rnsInj o => some o
  | .issueCycle => none
  | .blockCommit => none
  | .blockFetchComplete => none
  | .detachedResult => none
  | .detachedFailure => none
  | .handlerRunStart => none
  | .rateStep => none
  | .rateFlitArrival => none
  | .statusFlitArrival => none
  | .tokenHop => none
  | .creditFlitArrival => none
  | .boundaryGrant => none
  | .passFiring => none
  | .forkFiring => none
  | .steerFiring => none
  | .mergeFiring => none
  | .carryFiring => none
  | .invariantFiring => none
  | .dropFiring => none
  | .markerFiring => none
  | .poisonControlFiring => none
  | .mxTokenStart => none
  | .mxTokenRetire => none
  | .evTick => none
  | .sSourcePulse => none
  | .targetFiring => none
  | .streamRunBegin => none
  | .streamRequest => none
  | .streamRunEnd => none
  | .streamRunFail => none
  | .translationRefill => none
  | .handleRequestService => none
  | .hbWaitAnswer => none
  | .storePerform => none
  | .atomicExecute => none
  | .mailboxAppend => none
  | .ceRedRun => none
  | .ceProgStart => none
  | .ceProgRowStep => none
  | .ceWindowExpiry => none
  | .barrierOp => none
  | .barWaitAnswer => none
  | .counterRequest => none
  | .cntWaitAnswer => none
  | .ladderRequestService => none
  | .parkedRetry => none
  | .transformEnd => none
  | .dyingPageFree => none
  | .launchArrival => none
  | .launchStart => none
  | .launchCompletion => none
  | .regionPlacement => none
  | .quantumExpiry => none
  | .faultRecordDelivery => none
  | .roundCommit => none
  | .thirdPlacementVote => none
  | .rollback => none
  | .hang => none
  | .freezeWave => none
  | .retentionEntry => none
  | .retentionExit => none
  | .bankDropMigration => none
  | .linkRetrainFailure => none
  | .alarm => none
  | .clockSync => none
  | .moduleClockTick => none
  | .thermalClockStep => none
  | .powerOn => none
  | .hostMemoryWrite => none
  | .hostMemoryRead => none
  | .peerRequest => none
  | .bell => none
  | .hbell => none
  | .hostRegisterWrite => none
  | .arm => none
  | .armRelease => none
  | .launch => none
  | .launchDual => none
  | .cancelCommand => none
  | .queryCounter => none
  | .queryGraphQueue => none
  | .queryPhaseQueue => none
  | .queryRgnStat => none
  | .queryHealth => none
  | .map => none
  | .bindClass => none
  | .bindTransform => none
  | .gang => none
  | .attest => none
  | .reset => none
  | .policyModuleId => none
  | .policyPool => none
  | .policySpanDirectory => none
  | .policyCeWin => none
  | .policyTestMode => none
  | .policyClearMode => none
  | .policyBudget => none
  | .policyAlarm => none
  | .policyTimeRoot => none
  | .fwcallService => none
  | .jondovyLinkTraining => none
  | .peerLinkGrant => none

end Sys2Proof
end

