-- ==== Sys2Proof/Machine/Encoding.lean ====
section
/-!
DEFINITION. The encoding tables of the compute operations: for each row its opcode, form, operand kinds, types, rounding
fields and modifier bits, and the checks an arm makes of one word alone (R26 to R37, R47, R49).
-/
namespace Sys2Proof

/-- The ARM_OP details (R49). -/
inductive ArmOp where
  | opcode | field | operand | type | immPlace | exitsOrNonrep | handlerOnly | noTarget
deriving DecidableEq, Repr

/-- The detail code of R49. -/
def ArmOp.code : ArmOp → Nat
  | .opcode => 1 | .field => 2 | .operand => 3 | .type => 4 | .immPlace => 5 | .exitsOrNonrep => 6 | .handlerOnly => 7
  | .noTarget => 8

/-- The code of a type (R34). -/
def Ty.code : Ty → Nat
  | .i8 => 0 | .n8 => 1 | .i16 => 2 | .n16 => 3 | .i32 => 4 | .n32 => 5 | .i64 => 6 | .n64 => 7
  | .e4m3 => 8 | .e5m2 => 9 | .f16 => 10 | .bf16 => 11 | .f32 => 12 | .f64 => 13 | .nq4 => 14 | .rns => 15

/-- The type of a code (R34). -/
def Ty.ofCode : Nat → Ty
  | 0 => .i8 | 1 => .n8 | 2 => .i16 | 3 => .n16 | 4 => .i32 | 5 => .n32 | 6 => .i64 | 7 => .n64
  | 8 => .e4m3 | 9 => .e5m2 | 10 => .f16 | 11 => .bf16 | 12 => .f32 | 13 => .f64 | 14 => .nq4 | _ => .rns

/-- The element size in bits (R161). -/
def Ty.bits : Ty → Nat
  | .i8 | .n8 | .e4m3 | .e5m2 => 8
  | .i16 | .n16 | .f16 | .bf16 => 16
  | .i32 | .n32 | .f32 => 32
  | .i64 | .n64 | .f64 | .rns => 64
  | .nq4 => 4

/-- The element size in bytes, for the types of one byte or more. -/
def Ty.bytes (t : Ty) : Nat := t.bits / 8

/-- The lanes of a 64-byte operand (R161). -/
def Ty.lanes (t : Ty) : Nat := 512 / t.bits

/-- Types 0 to 7 (R137). -/
def Ty.isInt (t : Ty) : Bool := t.code < 8

/-- The signed integer types (R137). -/
def Ty.isSigned (t : Ty) : Bool := t.isInt && t.code % 2 == 0

/-- Types 8 to 13 (R138). -/
def Ty.isFloat (t : Ty) : Bool := 8 ≤ t.code && t.code ≤ 13

/-- The type set F of R164: types 10 to 13. -/
def Ty.isF (t : Ty) : Bool := 10 ≤ t.code && t.code ≤ 13

/-- The code of a rounding mode (R25). -/
def Rm.code : Rm → Nat
  | .rne => 0 | .rtz => 1 | .rup => 2 | .rdn => 3

/-- The rounding mode of a code. -/
def Rm.ofCode : Nat → Rm
  | 0 => .rne | 1 => .rtz | 2 => .rup | _ => .rdn

/-- The code of an overflow policy (R25). -/
def Ovf.code : Ovf → Nat
  | .sat => 0 | .inf => 1 | .nan => 2 | .trap => 3

/-- The overflow policy of a code. -/
def Ovf.ofCode : Nat → Ovf
  | 0 => .sat | 1 => .inf | 2 => .nan | _ => .trap

/-- An operand specifier as 8 bits (R28). -/
def Opnd.code (o : Opnd) : Nat :=
  (if o.mode then 32 else 0) +
  match o.reg with
  | .g i => i.val
  | .t i => 64 + i.val
  | .v i => 64 + 16 + i.val
  | .p i => 64 + 24 + i.val
  | .qi i => 128 + i.val
  | .qo i => 128 + 16 + i.val
  | .c i => 192 + i.val

/-- The register of a class and index (R28). -/
def Reg.ofCode (cls index : Nat) : Reg :=
  if cls = 0 then .g (Fin.ofNat 32 index)
  else if cls = 1 then
    if index < 16 then .t (Fin.ofNat 16 index)
    else if index < 24 then .v (Fin.ofNat 8 (index - 16)) else .p (Fin.ofNat 8 (index - 24))
  else if cls = 2 then
    if index < 16 then .qi (Fin.ofNat 16 index) else .qo (Fin.ofNat 16 (index - 16))
  else .c (Fin.ofNat 32 index)

/-- The operand of an 8-bit specifier (R28). -/
def Opnd.ofCode (n : Nat) : Opnd := ⟨Reg.ofCode (bitsOf n 6 2) (bitsOf n 0 5), bitOf n 5⟩

/-- The forms a row allows: the register form, the I-form, either, or the two encoding primitives of R33. -/
inductive Form where
  | reg | imm | either | pfx
deriving DecidableEq, Repr

/-- What a destination field takes. -/
inductive DstKind where
  /-- no destination -/
  | none
  /-- G, t, a QO that is not of vector form, or `_` (R60) -/
  | scalar
  /-- as `scalar`, or P1 to P7 (R82) -/
  | cmp
  /-- P1 to P7, G, t or `_` (R83) -/
  | pred
  /-- G, t or `_` -/
  | gt
  /-- V, t, a QO of vector form, or `_` (R162) -/
  | lane
  /-- as `lane`, or P1 to P7 -/
  | laneOrPred
  /-- G, t, V or `_` (R173) -/
  | red
  /-- P1 to P7 or `_` -/
  | predOnly
  /-- by the kind of `visect` (R202) -/
  | isect
  /-- G, t, V or `_` (R129) -/
  | gtv
  /-- a detached G or t, or `_` (R263) -/
  | det
  /-- a detached V, or `_` (R299) -/
  | detV
  /-- a detached V, and nothing else (R180) -/
  | special
  /-- a QO (R129) -/
  | queue
  /-- absent, or a QO of scalar form (R214) -/
  | fwd
deriving DecidableEq, Repr

/-- What a source field takes. -/
inductive SrcKind where
  /-- absent -/
  | none
  /-- G, t, a QI that is not of vector form, or a constant (R60, R192) -/
  | scal
  /-- G, t or a constant -/
  | gtc
  /-- G1 to G31, t or a constant: the operand of an optional field that is present (R26) -/
  | gtcNz
  /-- G or t -/
  | gt
  /-- P, G or t -/
  | pgt
  /-- V, t or a QI of vector form (R162) -/
  | vec
  /-- `vec`, or a broadcast G or constant (R162) -/
  | vb
  /-- P0 to P7 (R162) -/
  | mask
  /-- V or t -/
  | vt
  /-- G, t, V or a constant (R129) -/
  | gtvc
  /-- the condition operand of R73, with `cond` in `mod`[1:0] -/
  | cond
  /-- the condition operand of R73, with `cond` in immediate bits [17:16] -/
  | condI
  /-- the count register of `rep` (R75) -/
  | repCount
  /-- an index of kind `scal`, present when that `mod` bit is set -/
  | scalIx (bit : Nat)
  /-- an index of kind `gtc`, present when that `mod` bit is set -/
  | gtcIx (bit : Nat)
  /-- `vb`, absent when `ic` is set (R169) -/
  | vbIc
  /-- `gtc`, absent when `ic` is set (R174) -/
  | gtcIc
  /-- `vb`, present when `acc` is set (R172) -/
  | vbAcc
  /-- the source of `vbcast`: a vector when `ln` is set, else a scalar (R174) -/
  | bcast
  /-- absent, or G1 to G31, t or a constant (R26) -/
  | optGtc
  /-- the bank offset of R214: absent, or G1 to G31, t or a constant -/
  | bank
  /-- `gtc`, absent for level 4 (R369) -/
  | gtcUnlessJob
deriving DecidableEq, Repr

/-- How an operation uses `rm`, `sr` and `ovf`. -/
inductive RndKind where
  /-- not at all -/
  | none
  /-- it rounds on every type -/
  | all
  /-- it rounds on the types F -/
  | float
  /-- `rm` and `sr` only (R177) -/
  | noOvf
  /-- bit [13] is `imm`; `rm` and `ovf` are zero (R297) -/
  | immBit
  /-- bit [13] is `imm`; `rm` and `ovf` on types 12 and 13 (R298, R300) -/
  | atom
  /-- `ovf` SAT or TRAP only (R247) -/
  | satTrap
deriving DecidableEq, Repr

/-- The encoding rules of one row: types and modifier bits as masks. -/
structure OpSpec where
  opcode : Nat
  form : Form
  dst : DstKind
  a : SrcKind
  b : SrcKind
  c : SrcKind
  types : Nat
  rnd : RndKind
  modMask : Nat
  immMask : Nat
deriving DecidableEq, Repr

/-- The encoding rules of each row, from the encoding tables of R73, R78, R82 to R84, R110, R129, R162 to R182, R192, R194,
R198, R200, R210, R214, R228, R247, R263, R274, R277, R293, R299, R331, R369, R392 and R406. The source of `spr.wr`, which R91 calls source a and
no more, is a G, t or constant, and no queue (assumption 134, DEDUCED, unsafe). -/
def Row.spec : Row → OpSpec
  | .add => ⟨0x00, .either, .scalar, .scal, .scal, .none, 0x00FF, .none, 0x000, 0xFFFFFFF⟩
  | .sub => ⟨0x01, .either, .scalar, .scal, .scal, .none, 0x00FF, .none, 0x000, 0xFFFFFFF⟩
  | .mul => ⟨0x02, .either, .scalar, .scal, .scal, .none, 0x00FF, .none, 0x000, 0xFFFFFFF⟩
  | .mulh => ⟨0x03, .either, .scalar, .scal, .scal, .none, 0x00FF, .none, 0x000, 0xFFFFFFF⟩
  | .mulhu => ⟨0x04, .either, .scalar, .scal, .scal, .none, 0x00FF, .none, 0x000, 0xFFFFFFF⟩
  | .div => ⟨0x05, .either, .scalar, .scal, .scal, .none, 0x00FF, .none, 0x000, 0xFFFFFFF⟩
  | .divu => ⟨0x06, .either, .scalar, .scal, .scal, .none, 0x00FF, .none, 0x000, 0xFFFFFFF⟩
  | .rem => ⟨0x07, .either, .scalar, .scal, .scal, .none, 0x00FF, .none, 0x000, 0xFFFFFFF⟩
  | .remu => ⟨0x08, .either, .scalar, .scal, .scal, .none, 0x00FF, .none, 0x000, 0xFFFFFFF⟩
  | .and => ⟨0x09, .either, .scalar, .scal, .scal, .none, 0x00FF, .none, 0x000, 0xFFFFFFF⟩
  | .or => ⟨0x0A, .either, .scalar, .scal, .scal, .none, 0x00FF, .none, 0x000, 0xFFFFFFF⟩
  | .xor => ⟨0x0B, .either, .scalar, .scal, .scal, .none, 0x00FF, .none, 0x000, 0xFFFFFFF⟩
  | .andn => ⟨0x0C, .either, .scalar, .scal, .scal, .none, 0x00FF, .none, 0x000, 0xFFFFFFF⟩
  | .shl => ⟨0x0D, .either, .scalar, .scal, .scal, .none, 0x00FF, .none, 0x000, 0xFFFFFFF⟩
  | .shr => ⟨0x0E, .either, .scalar, .scal, .scal, .none, 0x00FF, .none, 0x000, 0xFFFFFFF⟩
  | .sar => ⟨0x0F, .either, .scalar, .scal, .scal, .none, 0x00FF, .none, 0x000, 0xFFFFFFF⟩
  | .rol => ⟨0x10, .either, .scalar, .scal, .scal, .none, 0x00FF, .none, 0x000, 0xFFFFFFF⟩
  | .min => ⟨0x11, .either, .scalar, .scal, .scal, .none, 0x00FF, .none, 0x000, 0xFFFFFFF⟩
  | .max => ⟨0x12, .either, .scalar, .scal, .scal, .none, 0x00FF, .none, 0x000, 0xFFFFFFF⟩
  | .minu => ⟨0x13, .either, .scalar, .scal, .scal, .none, 0x00FF, .none, 0x000, 0xFFFFFFF⟩
  | .maxu => ⟨0x14, .either, .scalar, .scal, .scal, .none, 0x00FF, .none, 0x000, 0xFFFFFFF⟩
  | .clz => ⟨0x15, .reg, .scalar, .scal, .none, .none, 0x00FF, .none, 0x000, 0x0000000⟩
  | .ctz => ⟨0x16, .reg, .scalar, .scal, .none, .none, 0x00FF, .none, 0x000, 0x0000000⟩
  | .popc => ⟨0x17, .reg, .scalar, .scal, .none, .none, 0x00FF, .none, 0x000, 0x0000000⟩
  | .sext => ⟨0x18, .either, .scalar, .scal, .scal, .none, 0x0040, .none, 0x000, 0xFFFFFFF⟩
  | .zext => ⟨0x19, .either, .scalar, .scal, .scal, .none, 0x0040, .none, 0x000, 0xFFFFFFF⟩
  | .bfx => ⟨0x1A, .either, .scalar, .scal, .scal, .none, 0x00C0, .none, 0x000, 0xFFFFFFF⟩
  | .bfi => ⟨0x1B, .reg, .scalar, .scal, .scal, .scal, 0x0040, .none, 0x000, 0x0000000⟩
  | .shadd => ⟨0x1C, .reg, .scalar, .scal, .scal, .none, 0x00FF, .none, 0x007, 0x0000000⟩
  | .mov => ⟨0x1D, .reg, .scalar, .scal, .none, .none, 0x00FF, .none, 0x000, 0x0000000⟩
  | .movi => ⟨0x1E, .imm, .scalar, .none, .none, .none, 0x0001, .none, 0x000, 0xFFFFFFF⟩
  | .movh => ⟨0x1F, .imm, .scalar, .scal, .none, .none, 0x0001, .none, 0x000, 0xFFFFFFF⟩
  | .ceq => ⟨0x20, .either, .cmp, .scal, .scal, .none, 0x00FF, .none, 0x000, 0xFFFFFFF⟩
  | .cne => ⟨0x21, .either, .cmp, .scal, .scal, .none, 0x00FF, .none, 0x000, 0xFFFFFFF⟩
  | .clt => ⟨0x22, .either, .cmp, .scal, .scal, .none, 0x00FF, .none, 0x000, 0xFFFFFFF⟩
  | .cle => ⟨0x23, .either, .cmp, .scal, .scal, .none, 0x00FF, .none, 0x000, 0xFFFFFFF⟩
  | .cltu => ⟨0x24, .either, .cmp, .scal, .scal, .none, 0x00FF, .none, 0x000, 0xFFFFFFF⟩
  | .cleu => ⟨0x25, .either, .cmp, .scal, .scal, .none, 0x00FF, .none, 0x000, 0xFFFFFFF⟩
  | .ctst => ⟨0x26, .either, .cmp, .scal, .scal, .none, 0x00FF, .none, 0x000, 0xFFFFFFF⟩
  | .pand => ⟨0x27, .reg, .pred, .pgt, .pgt, .none, 0x0001, .none, 0x000, 0x0000000⟩
  | .por => ⟨0x28, .reg, .pred, .pgt, .pgt, .none, 0x0001, .none, 0x000, 0x0000000⟩
  | .pxor => ⟨0x29, .reg, .pred, .pgt, .pgt, .none, 0x0001, .none, 0x000, 0x0000000⟩
  | .pnot => ⟨0x2A, .reg, .pred, .pgt, .none, .none, 0x0001, .none, 0x000, 0x0000000⟩
  | .pmov => ⟨0x2B, .reg, .pred, .pgt, .none, .none, 0x0001, .none, 0x000, 0x0000000⟩
  | .pany => ⟨0x2C, .reg, .pred, .pgt, .pgt, .none, 0x0001, .none, 0x000, 0x0000000⟩
  | .pall => ⟨0x2D, .reg, .pred, .pgt, .pgt, .none, 0x0001, .none, 0x000, 0x0000000⟩
  | .sel => ⟨0x2E, .reg, .scalar, .scal, .scal, .pgt, 0x00FF, .none, 0x000, 0x0000000⟩
  | .exit => ⟨0x30, .imm, .none, .condI, .none, .none, 0x0001, .none, 0x000, 0x003FFFF⟩
  | .exitRegisterTarget => ⟨0x30, .reg, .none, .cond, .gt, .none, 0x0001, .none, 0x003, 0x0000000⟩
  | .call => ⟨0x31, .imm, .none, .condI, .none, .none, 0x0001, .none, 0x000, 0x003FFFF⟩
  | .callRegisterTarget => ⟨0x31, .reg, .none, .cond, .gt, .none, 0x0001, .none, 0x003, 0x0000000⟩
  | .ret => ⟨0x32, .reg, .none, .cond, .none, .none, 0x0001, .none, 0x003, 0x0000000⟩
  | .halt => ⟨0x33, .reg, .none, .cond, .none, .none, 0x0001, .none, 0x003, 0x0000000⟩
  | .yield => ⟨0x34, .reg, .none, .cond, .none, .none, 0x0001, .none, 0x003, 0x0000000⟩
  | .rep => ⟨0x35, .reg, .none, .repCount, .none, .none, 0x0001, .none, 0x7FF, 0x0000000⟩
  | .imm => ⟨0x36, .pfx, .none, .none, .none, .none, 0x0001, .none, 0x000, 0x0000000⟩
  | .nop => ⟨0x37, .pfx, .none, .none, .none, .none, 0x0001, .none, 0x000, 0x0000000⟩
  | .trap => ⟨0x38, .imm, .none, .condI, .none, .none, 0x0001, .none, 0x000, 0x003FFFF⟩
  | .eretResume => ⟨0x39, .reg, .none, .none, .none, .none, 0x0001, .none, 0x003, 0x0000000⟩
  | .eretPoison => ⟨0x39, .reg, .none, .none, .none, .none, 0x0001, .none, 0x003, 0x0000000⟩
  | .eretEsc => ⟨0x39, .reg, .none, .none, .none, .none, 0x0001, .none, 0x003, 0x0000000⟩
  | .brk => ⟨0x3A, .imm, .none, .condI, .none, .none, 0x0001, .none, 0x000, 0x003FFFF⟩
  | .evLoop => ⟨0x3B, .reg, .none, .gtc, .gtc, .gtc, 0x0010, .none, 0x1FF, 0x0000000⟩
  | .evWait => ⟨0x3C, .reg, .none, .none, .none, .none, 0x0001, .none, 0x00F, 0x0000000⟩
  | .evPulse => ⟨0x3D, .reg, .none, .none, .none, .none, 0x0001, .none, 0x007, 0x0000000⟩
  | .evRd => ⟨0x3E, .reg, .gt, .none, .none, .none, 0x0001, .none, 0x01F, 0x0000000⟩
  | .evArm => ⟨0x3F, .reg, .none, .gtc, .none, .none, 0x0001, .none, 0x03F, 0x0000000⟩
  | .ldb => ⟨0x40, .reg, .gt, .scal, .scalIx 10, .none, 0x0003, .none, 0x7FF, 0x0000000⟩
  | .ldh => ⟨0x41, .reg, .gt, .scal, .scalIx 10, .none, 0x000C, .none, 0x7FF, 0x0000000⟩
  | .ldw => ⟨0x42, .reg, .gt, .scal, .scalIx 10, .none, 0x0030, .none, 0x7FF, 0x0000000⟩
  | .ldd => ⟨0x43, .reg, .gt, .scal, .scalIx 10, .none, 0x00C0, .none, 0x7FF, 0x0000000⟩
  | .stb => ⟨0x44, .reg, .none, .scal, .scalIx 10, .gtc, 0x0003, .none, 0x7FF, 0x0000000⟩
  | .sth => ⟨0x45, .reg, .none, .scal, .scalIx 10, .gtc, 0x000C, .none, 0x7FF, 0x0000000⟩
  | .stw => ⟨0x46, .reg, .none, .scal, .scalIx 10, .gtc, 0x0030, .none, 0x7FF, 0x0000000⟩
  | .std => ⟨0x47, .reg, .none, .scal, .scalIx 10, .gtc, 0x00C0, .none, 0x7FF, 0x0000000⟩
  | .lda => ⟨0x48, .reg, .gt, .scal, .scalIx 10, .none, 0x00F0, .none, 0x407, 0x0000000⟩
  | .stl => ⟨0x49, .reg, .none, .scal, .scalIx 10, .gtc, 0x00F0, .none, 0x407, 0x0000000⟩
  | .fence => ⟨0x4A, .reg, .none, .none, .none, .none, 0x0001, .none, 0x01F, 0x0000000⟩
  | .fenceAcq => ⟨0x4A, .reg, .none, .none, .none, .none, 0x0001, .none, 0x01F, 0x0000000⟩
  | .fenceRls => ⟨0x4A, .reg, .none, .none, .none, .none, 0x0001, .none, 0x01F, 0x0000000⟩
  | .ldm => ⟨0x4B, .reg, .det, .gtc, .gtcIx 10, .none, 0x00FF, .none, 0x7FF, 0x0000000⟩
  | .stm => ⟨0x4C, .reg, .none, .gtc, .gtcIx 10, .gtc, 0x00FF, .none, 0x7FF, 0x0000000⟩
  | .prf => ⟨0x4D, .reg, .none, .gtc, .gtcIx 10, .none, 0x0001, .none, 0x7FF, 0x0000000⟩
  | .vadd => ⟨0x50, .reg, .lane, .vec, .vb, .none, 0xBCFF, .float, 0x400, 0x0000000⟩
  | .vsub => ⟨0x51, .reg, .lane, .vec, .vb, .none, 0xBCFF, .float, 0x400, 0x0000000⟩
  | .vmul => ⟨0x52, .reg, .lane, .vec, .vb, .none, 0xBCFF, .float, 0x400, 0x0000000⟩
  | .vfma => ⟨0x53, .reg, .lane, .vec, .vb, .vb, 0x3CFF, .float, 0x400, 0x0000000⟩
  | .vfms => ⟨0x54, .reg, .lane, .vec, .vb, .vb, 0x3CFF, .float, 0x400, 0x0000000⟩
  | .vmin => ⟨0x55, .reg, .lane, .vec, .vb, .none, 0x3CFF, .none, 0x400, 0x0000000⟩
  | .vmax => ⟨0x56, .reg, .lane, .vec, .vb, .none, 0x3CFF, .none, 0x400, 0x0000000⟩
  | .vabs => ⟨0x57, .reg, .lane, .vec, .none, .none, 0x3CFF, .none, 0x400, 0x0000000⟩
  | .vneg => ⟨0x58, .reg, .lane, .vec, .none, .none, 0x3CFF, .none, 0x400, 0x0000000⟩
  | .vand => ⟨0x59, .reg, .lane, .vec, .vb, .none, 0xFFFF, .none, 0x400, 0x0000000⟩
  | .vor => ⟨0x5A, .reg, .lane, .vec, .vb, .none, 0xFFFF, .none, 0x400, 0x0000000⟩
  | .vxor => ⟨0x5B, .reg, .lane, .vec, .vb, .none, 0xFFFF, .none, 0x400, 0x0000000⟩
  | .vshl => ⟨0x5C, .reg, .lane, .vec, .vbIc, .none, 0x00FF, .none, 0x63F, 0x0000000⟩
  | .vshr => ⟨0x5D, .reg, .lane, .vec, .vbIc, .none, 0x00FF, .none, 0x63F, 0x0000000⟩
  | .vsar => ⟨0x5E, .reg, .lane, .vec, .vbIc, .none, 0x00FF, .none, 0x63F, 0x0000000⟩
  | .vcmp => ⟨0x5F, .reg, .laneOrPred, .vec, .vb, .none, 0x3CFF, .none, 0x407, 0x0000000⟩
  | .vsel => ⟨0x60, .reg, .lane, .vec, .vb, .mask, 0xFFFF, .none, 0x400, 0x0000000⟩
  | .vdot => ⟨0x61, .reg, .lane, .vec, .vec, .vbAcc, 0x0C0F, .float, 0x401, 0x0000000⟩
  | .vsum => ⟨0x62, .reg, .red, .vec, .none, .none, 0x3CFF, .float, 0x001, 0x0000000⟩
  | .vrmin => ⟨0x63, .reg, .red, .vec, .none, .none, 0x3CFF, .none, 0x000, 0x0000000⟩
  | .vrmax => ⟨0x64, .reg, .red, .vec, .none, .none, 0x3CFF, .none, 0x000, 0x0000000⟩
  | .vbcast => ⟨0x65, .reg, .lane, .bcast, .none, .none, 0xFFFF, .none, 0x67F, 0x0000000⟩
  | .vperm => ⟨0x66, .reg, .lane, .vec, .vec, .none, 0xBFFF, .none, 0x400, 0x0000000⟩
  | .vrot => ⟨0x67, .reg, .lane, .vec, .gtcIc, .none, 0xFFFF, .none, 0x67F, 0x0000000⟩
  | .vcompress => ⟨0x68, .reg, .lane, .vec, .mask, .none, 0xBFFF, .none, 0x000, 0x0000000⟩
  | .vexpand => ⟨0x69, .reg, .lane, .vec, .mask, .none, 0xBFFF, .none, 0x000, 0x0000000⟩
  | .vmov => ⟨0x6A, .reg, .lane, .vec, .none, .none, 0xFFFF, .none, 0x400, 0x0000000⟩
  | .vclamp => ⟨0x6B, .reg, .lane, .vec, .vb, .vb, 0x3CFF, .none, 0x400, 0x0000000⟩
  | .vmulh => ⟨0x6C, .reg, .lane, .vec, .vb, .none, 0x00FF, .none, 0x400, 0x0000000⟩
  | .vsadd => ⟨0x6D, .reg, .lane, .vec, .vb, .none, 0x00FF, .none, 0x400, 0x0000000⟩
  | .vssub => ⟨0x6E, .reg, .lane, .vec, .vb, .none, 0x00FF, .none, 0x400, 0x0000000⟩
  | .vavg => ⟨0x6F, .reg, .lane, .vec, .vb, .none, 0x3CFF, .float, 0x400, 0x0000000⟩
  | .vcvt => ⟨0x70, .reg, .lane, .vec, .none, .none, 0x3FFF, .all, 0x43F, 0x0000000⟩
  | .vpack => ⟨0x71, .reg, .lane, .vec, .vec, .none, 0x3FFF, .all, 0x40F, 0x0000000⟩
  | .vunpk => ⟨0x72, .reg, .lane, .vec, .none, .none, 0x3FFF, .none, 0x41F, 0x0000000⟩
  | .vrnd => ⟨0x73, .reg, .lane, .vec, .none, .none, 0x3C00, .noOvf, 0x400, 0x0000000⟩
  | .vexp => ⟨0x74, .reg, .special, .vec, .none, .none, 0x1C00, .all, 0x400, 0x0000000⟩
  | .vexp2 => ⟨0x75, .reg, .special, .vec, .none, .none, 0x1C00, .all, 0x400, 0x0000000⟩
  | .vlog2 => ⟨0x76, .reg, .special, .vec, .none, .none, 0x1C00, .all, 0x400, 0x0000000⟩
  | .vrcp => ⟨0x77, .reg, .special, .vec, .none, .none, 0x3C00, .all, 0x400, 0x0000000⟩
  | .vrsq => ⟨0x78, .reg, .special, .vec, .none, .none, 0x1C00, .all, 0x400, 0x0000000⟩
  | .vsqrt => ⟨0x79, .reg, .special, .vec, .none, .none, 0x3C00, .all, 0x400, 0x0000000⟩
  | .vtanh => ⟨0x7A, .reg, .special, .vec, .none, .none, 0x1C00, .all, 0x400, 0x0000000⟩
  | .vscl => ⟨0x7B, .reg, .lane, .vec, .vb, .none, 0x3C00, .all, 0x400, 0x0000000⟩
  | .vqnt => ⟨0x7C, .reg, .lane, .vec, .gtc, .none, 0x4000, .all, 0x4FF, 0x0000000⟩
  | .vdqnt => ⟨0x7D, .reg, .lane, .vec, .gtc, .none, 0x1C00, .all, 0x4F0, 0x0000000⟩
  | .vfclass => ⟨0x7E, .reg, .lane, .vec, .none, .none, 0x3F00, .none, 0x400, 0x0000000⟩
  | .vld => ⟨0x80, .reg, .lane, .scal, .scalIx 9, .none, 0xFFFF, .none, 0x7FF, 0x0000000⟩
  | .vst => ⟨0x81, .reg, .none, .scal, .scalIx 9, .vec, 0xFFFF, .none, 0x3FF, 0x0000000⟩
  | .vldb => ⟨0x82, .reg, .lane, .scal, .scalIx 9, .none, 0x3FFF, .all, 0x61F, 0x0000000⟩
  | .vstb => ⟨0x83, .reg, .none, .scal, .vec, .gtc, 0x1FFF, .all, 0x7FF, 0x0000000⟩
  | .vgat => ⟨0x84, .reg, .lane, .gtc, .vec, .none, 0xBFFF, .none, 0x603, 0x0000000⟩
  | .vsca => ⟨0x85, .reg, .none, .gtc, .vec, .vec, 0xBFFF, .none, 0x203, 0x0000000⟩
  | .vconf => ⟨0x86, .reg, .laneOrPred, .vec, .none, .none, 0x00F0, .none, 0x400, 0x0000000⟩
  | .visect => ⟨0x87, .reg, .isect, .vec, .vec, .none, 0x00A0, .none, 0x003, 0x0000000⟩
  | .viota => ⟨0x88, .reg, .lane, .mask, .gtc, .none, 0x00FF, .none, 0x400, 0x0000000⟩
  | .vmask => ⟨0x89, .reg, .predOnly, .gtc, .gtc, .none, 0xFFFF, .none, 0x000, 0x0000000⟩
  | .mxMma => ⟨0x90, .imm, .fwd, .none, .none, .none, 0x0001, .none, 0x000, 0x3FFFFFF⟩
  | .mxMmaToken => ⟨0x90, .reg, .fwd, .scal, .none, .none, 0x0001, .none, 0x000, 0x0000000⟩
  | .mxImma => ⟨0x91, .imm, .fwd, .none, .none, .none, 0x0001, .none, 0x000, 0x3FFFFFF⟩
  | .mxImmaToken => ⟨0x91, .reg, .fwd, .scal, .none, .none, 0x0001, .none, 0x000, 0x0000000⟩
  | .mxZero => ⟨0x92, .imm, .fwd, .none, .none, .none, 0x0001, .none, 0x000, 0x3FFFFFF⟩
  | .mxZeroToken => ⟨0x92, .reg, .fwd, .scal, .none, .none, 0x0001, .none, 0x000, 0x0000000⟩
  | .mxDrain => ⟨0x93, .imm, .fwd, .bank, .none, .none, 0x0001, .none, 0x000, 0x3FFFFFF⟩
  | .mxDrainToken => ⟨0x93, .reg, .fwd, .scal, .none, .none, 0x0001, .none, 0x000, 0x0000000⟩
  | .mxFill => ⟨0x94, .imm, .fwd, .bank, .none, .none, 0x0001, .none, 0x000, 0x3FFFFFF⟩
  | .mxFillToken => ⟨0x94, .reg, .fwd, .scal, .none, .none, 0x0001, .none, 0x000, 0x0000000⟩
  | .mxRev => ⟨0x95, .imm, .fwd, .bank, .none, .none, 0x0001, .none, 0x000, 0x3FFFFFF⟩
  | .mxRevToken => ⟨0x95, .reg, .fwd, .scal, .none, .none, 0x0001, .none, 0x000, 0x0000000⟩
  | .mxChk => ⟨0x96, .imm, .fwd, .none, .none, .none, 0x0001, .none, 0x000, 0x3FFFFFF⟩
  | .mxChkToken => ⟨0x96, .reg, .fwd, .scal, .none, .none, 0x0001, .none, 0x000, 0x0000000⟩
  | .mxDeg => ⟨0x97, .reg, .none, .none, .none, .none, 0x0001, .none, 0x007, 0x0000000⟩
  | .rgPush => ⟨0x98, .reg, .none, .vec, .optGtc, .none, 0x0001, .none, 0x01B, 0x0000000⟩
  | .rgInfo => ⟨0x99, .reg, .gt, .none, .none, .none, 0x0001, .none, 0x01B, 0x0000000⟩
  | .rgReset => ⟨0x9A, .reg, .none, .none, .none, .none, 0x0001, .none, 0x01B, 0x0000000⟩
  | .vrnsFwd => ⟨0x9B, .reg, .lane, .vec, .none, .none, 0x8000, .satTrap, 0x47F, 0x0000000⟩
  | .vrnsRev => ⟨0x9C, .reg, .lane, .vec, .none, .none, 0x0050, .none, 0x510, 0x0000000⟩
  | .vrnsChk => ⟨0x9D, .reg, .gt, .vec, .none, .none, 0x8000, .none, 0x000, 0x0000000⟩
  | .mxWait => ⟨0x9E, .reg, .none, .none, .none, .none, 0x0001, .none, 0x0FF, 0x0000000⟩
  | .mxTag => ⟨0x9F, .reg, .gt, .none, .none, .none, 0x0001, .none, 0x007, 0x0000000⟩
  | .qmark => ⟨0xA0, .reg, .none, .none, .none, .none, 0x0001, .none, 0x000, 0x0000000⟩
  | .qpoison => ⟨0xA1, .reg, .queue, .none, .none, .none, 0x0001, .none, 0x000, 0x0000000⟩
  | .qlast => ⟨0xA2, .reg, .queue, .gtvc, .none, .none, 0x0001, .none, 0x000, 0x0000000⟩
  | .qpeek => ⟨0xA3, .imm, .gtv, .none, .none, .none, 0x0001, .none, 0x000, 0x000030F⟩
  | .qcnt => ⟨0xA4, .imm, .gt, .none, .none, .none, 0x0001, .none, 0x000, 0x000001F⟩
  | .qdrop => ⟨0xA5, .imm, .gt, .none, .none, .none, 0x0001, .none, 0x000, 0x01FF10F⟩
  | .qwaitr => ⟨0xA6, .imm, .gt, .none, .none, .none, 0x0001, .none, 0x000, 0x000010F⟩
  | .rateSet => ⟨0xA7, .imm, .none, .gtc, .none, .none, 0x0001, .none, 0x000, 0x0000F0F⟩
  | .rateRd => ⟨0xA8, .imm, .det, .none, .none, .none, 0x0001, .none, 0x000, 0x0000F1F⟩
  | .rateW => ⟨0xA9, .reg, .none, .gtc, .none, .none, 0x0001, .none, 0x003, 0x0000000⟩
  | .qfmt => ⟨0xAA, .imm, .gt, .none, .none, .none, 0x0001, .none, 0x000, 0x000001F⟩
  | .msg => ⟨0xB0, .reg, .det, .gtc, .vec, .none, 0x0001, .immBit, 0x007, 0x0000000⟩
  | .atom => ⟨0xB1, .reg, .det, .gtc, .gtcIx 10, .gtc, 0x30F0, .atom, 0x7FF, 0x0000000⟩
  | .cas => ⟨0xB2, .reg, .det, .gtc, .gtc, .gtc, 0x00F0, .immBit, 0x387, 0x0000000⟩
  | .cas2 => ⟨0xB3, .reg, .detV, .gtc, .vt, .vt, 0x0001, .immBit, 0x387, 0x0000000⟩
  | .red => ⟨0xB4, .reg, .none, .gtc, .gtcIx 10, .gtc, 0x30F0, .atom, 0x7FF, 0x0000000⟩
  | .ceRed => ⟨0xB5, .reg, .det, .vt, .none, .none, 0x0001, .immBit, 0x007, 0x0000000⟩
  | .ceProg => ⟨0xB6, .reg, .det, .gtc, .vt, .none, 0x0001, .immBit, 0x007, 0x0000000⟩
  | .barInit => ⟨0xB7, .reg, .none, .gtc, .gtcIx 10, .gtc, 0x0001, .immBit, 0x787, 0x0000000⟩
  | .barArrive => ⟨0xB8, .reg, .det, .gtc, .gtcIx 10, .none, 0x0001, .immBit, 0x787, 0x0000000⟩
  | .barDrop => ⟨0xB9, .reg, .det, .gtc, .gtcIx 10, .none, 0x0001, .immBit, 0x787, 0x0000000⟩
  | .barWait => ⟨0xBA, .reg, .det, .gtc, .gtcIx 10, .gtc, 0x0001, .immBit, 0x787, 0x0000000⟩
  | .cstep => ⟨0xBB, .reg, .none, .none, .none, .none, 0x0001, .none, 0x001, 0x0000000⟩
  | .cstepTo => ⟨0xBB, .reg, .none, .gtc, .none, .none, 0x0001, .none, 0x001, 0x0000000⟩
  | .cstate => ⟨0xBC, .reg, .det, .none, .none, .none, 0x0001, .none, 0x000, 0x0000000⟩
  | .hbState => ⟨0xC0, .reg, .det, .gtc, .none, .none, 0x0001, .none, 0x000, 0x0000000⟩
  | .hbWait => ⟨0xC1, .reg, .det, .gtc, .none, .none, 0x0001, .none, 0x073, 0x0000000⟩
  | .hbSet => ⟨0xC2, .reg, .none, .gtc, .none, .none, 0x0001, .none, 0x0F3, 0x0000000⟩
  | .hbPub => ⟨0xC3, .reg, .det, .gtc, .none, .none, 0x0001, .none, 0x070, 0x0000000⟩
  | .hbAlloc => ⟨0xC4, .reg, .det, .gtc, .gtc, .optGtc, 0x0001, .none, 0x007, 0x0000000⟩
  | .hbFree => ⟨0xC5, .reg, .none, .gtc, .none, .none, 0x0001, .none, 0x000, 0x0000000⟩
  | .shRd => ⟨0xC6, .reg, .det, .gtc, .none, .none, 0x0001, .none, 0x000, 0x0000000⟩
  | .shChk => ⟨0xC7, .reg, .det, .gtc, .none, .none, 0x0001, .none, 0x000, 0x0000000⟩
  | .spNew => ⟨0xD0, .reg, .det, .gtc, .gtc, .gtc, 0x0001, .immBit, 0x23F, 0x0000000⟩
  | .spFree => ⟨0xD1, .reg, .det, .gtc, .none, .none, 0x0001, .immBit, 0x007, 0x0000000⟩
  | .lift => ⟨0xD2, .reg, .det, .gtc, .none, .none, 0x0001, .immBit, 0x03F, 0x0000000⟩
  | .lower => ⟨0xD3, .reg, .det, .gtc, .none, .none, 0x0001, .immBit, 0x03F, 0x0000000⟩
  | .recall => ⟨0xD4, .reg, .det, .gtc, .none, .none, 0x0001, .immBit, 0x1FF, 0x0000000⟩
  | .probe => ⟨0xD5, .reg, .det, .gtc, .none, .none, 0x0001, .immBit, 0x007, 0x0000000⟩
  | .drop => ⟨0xD6, .reg, .det, .gtc, .none, .none, 0x0001, .immBit, 0x23F, 0x0000000⟩
  | .spPin => ⟨0xD7, .reg, .det, .gtc, .none, .none, 0x0001, .immBit, 0x007, 0x0000000⟩
  | .spUnpin => ⟨0xD8, .reg, .det, .gtc, .none, .none, 0x0001, .immBit, 0x007, 0x0000000⟩
  | .kvApp => ⟨0xD9, .reg, .det, .gtc, .gtc, .gtc, 0x0001, .immBit, 0x007, 0x0000000⟩
  | .pgRef => ⟨0xDA, .reg, .det, .gtc, .gtc, .none, 0x0001, .immBit, 0x007, 0x0000000⟩
  | .pgUnref => ⟨0xDB, .reg, .det, .gtc, .gtc, .none, 0x0001, .immBit, 0x007, 0x0000000⟩
  | .glLaunch => ⟨0xE0, .reg, .det, .gtc, .none, .none, 0x0001, .immBit, 0x007, 0x0000000⟩
  | .cntAdd => ⟨0xE1, .reg, .none, .gtc, .gtc, .none, 0x0001, .immBit, 0x007, 0x0000000⟩
  | .cntRd => ⟨0xE2, .reg, .det, .gtc, .none, .none, 0x0001, .none, 0x000, 0x0000000⟩
  | .cntWait => ⟨0xE3, .reg, .det, .gtc, .gtc, .none, 0x0001, .none, 0x007, 0x0000000⟩
  | .cancel => ⟨0xE4, .reg, .det, .gtcUnlessJob, .none, .none, 0x0001, .immBit, 0x707, 0x0000000⟩
  | .donePhase => ⟨0xE5, .reg, .none, .none, .none, .none, 0x0001, .immBit, 0x700, 0x0000000⟩
  | .doneJob => ⟨0xE5, .reg, .none, .none, .none, .none, 0x0001, .immBit, 0x700, 0x0000000⟩
  | .sprRd => ⟨0xF0, .imm, .gt, .none, .none, .none, 0x0001, .none, 0x000, 0x000EFFF⟩
  | .sprWr => ⟨0xF1, .imm, .none, .gtc, .none, .none, 0x0001, .none, 0x000, 0x000EFFF⟩
  | .fwcallId => ⟨0xF2, .reg, .det, .none, .none, .none, 0x0001, .immBit, 0x00F, 0x0000000⟩
  | .fwcallTick => ⟨0xF2, .reg, .det, .none, .none, .none, 0x0001, .immBit, 0x00F, 0x0000000⟩
  | .fwcallBell => ⟨0xF2, .reg, .det, .gtc, .none, .none, 0x0001, .immBit, 0x00F, 0x0000000⟩
  | .fwcallHealth => ⟨0xF2, .reg, .det, .none, .none, .none, 0x0001, .immBit, 0x00F, 0x0000000⟩
  | .frz => ⟨0xF3, .reg, .none, .none, .none, .none, 0x0001, .none, 0x007, 0x0000000⟩
  | .thaw => ⟨0xF4, .reg, .none, .none, .none, .none, 0x0001, .none, 0x007, 0x0000000⟩
  | .rnsInj => ⟨0xF5, .imm, .none, .none, .none, .none, 0x0001, .none, 0x000, 0x00FFFFF⟩

/-- Rows 0 to 31 of the table. -/
def Row.part0 : List Row :=
  [.add, .sub, .mul, .mulh, .mulhu, .div, .divu, .rem,
   .remu, .and, .or, .xor, .andn, .shl, .shr, .sar,
   .rol, .min, .max, .minu, .maxu, .clz, .ctz, .popc,
   .sext, .zext, .bfx, .bfi, .shadd, .mov, .movi, .movh]

/-- Rows 32 to 63 of the table. -/
def Row.part1 : List Row :=
  [.ceq, .cne, .clt, .cle, .cltu, .cleu, .ctst, .pand,
   .por, .pxor, .pnot, .pmov, .pany, .pall, .sel, .exit,
   .exitRegisterTarget, .call, .callRegisterTarget, .ret, .halt, .yield, .rep, .imm,
   .nop, .trap, .eretResume, .eretPoison, .eretEsc, .brk, .evLoop, .evWait]

/-- Rows 64 to 95 of the table. -/
def Row.part2 : List Row :=
  [.evPulse, .evRd, .evArm, .ldb, .ldh, .ldw, .ldd, .stb,
   .sth, .stw, .std, .lda, .stl, .fence, .fenceAcq, .fenceRls,
   .ldm, .stm, .prf, .vadd, .vsub, .vmul, .vfma, .vfms,
   .vmin, .vmax, .vabs, .vneg, .vand, .vor, .vxor, .vshl]

/-- Rows 96 to 127 of the table. -/
def Row.part3 : List Row :=
  [.vshr, .vsar, .vcmp, .vsel, .vdot, .vsum, .vrmin, .vrmax,
   .vbcast, .vperm, .vrot, .vcompress, .vexpand, .vmov, .vclamp, .vmulh,
   .vsadd, .vssub, .vavg, .vcvt, .vpack, .vunpk, .vrnd, .vexp,
   .vexp2, .vlog2, .vrcp, .vrsq, .vsqrt, .vtanh, .vscl, .vqnt]

/-- Rows 128 to 159 of the table. -/
def Row.part4 : List Row :=
  [.vdqnt, .vfclass, .vld, .vst, .vldb, .vstb, .vgat, .vsca,
   .vconf, .visect, .viota, .vmask, .mxMma, .mxMmaToken, .mxImma, .mxImmaToken,
   .mxZero, .mxZeroToken, .mxDrain, .mxDrainToken, .mxFill, .mxFillToken, .mxRev, .mxRevToken,
   .mxChk, .mxChkToken, .mxDeg, .rgPush, .rgInfo, .rgReset, .vrnsFwd, .vrnsRev]

/-- Rows 160 to 191 of the table. -/
def Row.part5 : List Row :=
  [.vrnsChk, .mxWait, .mxTag, .qmark, .qpoison, .qlast, .qpeek, .qcnt,
   .qdrop, .qwaitr, .rateSet, .rateRd, .rateW, .qfmt, .msg, .atom,
   .cas, .cas2, .red, .ceRed, .ceProg, .barInit, .barArrive, .barDrop,
   .barWait, .cstep, .cstepTo, .cstate, .hbState, .hbWait, .hbSet, .hbPub]

/-- Rows 192 to 223 of the table. -/
def Row.part6 : List Row :=
  [.hbAlloc, .hbFree, .shRd, .shChk, .spNew, .spFree, .lift, .lower,
   .recall, .probe, .drop, .spPin, .spUnpin, .kvApp, .pgRef, .pgUnref,
   .glLaunch, .cntAdd, .cntRd, .cntWait, .cancel, .donePhase, .doneJob, .sprRd,
   .sprWr, .fwcallId, .fwcallTick, .fwcallBell, .fwcallHealth, .frz, .thaw, .rnsInj]

/-- Every row, in the table's order. -/
def Row.all : List Row :=
  Row.part0 ++ Row.part1 ++ Row.part2 ++ Row.part3 ++ Row.part4 ++ Row.part5 ++ Row.part6

/-- Which words of an opcode a row takes, where the table splits an opcode: by the form, or by modifier bits. -/
def Row.selects (r : Row) (immForm : Bool) (mod : Nat) : Bool :=
  match r with
  | .exit | .call | .mxMma | .mxImma | .mxZero | .mxDrain | .mxFill | .mxRev | .mxChk => immForm
  | .exitRegisterTarget | .callRegisterTarget | .mxMmaToken | .mxImmaToken | .mxZeroToken | .mxDrainToken | .mxFillToken
  | .mxRevToken | .mxChkToken => !immForm
  | .eretResume => bitsOf mod 0 2 == 0
  | .eretPoison => bitsOf mod 0 2 == 1
  | .eretEsc => bitsOf mod 0 2 == 2
  | .fence => bitsOf mod 3 2 == 0
  | .fenceAcq => bitsOf mod 3 2 == 1
  | .fenceRls => bitsOf mod 3 2 == 2
  | .cstep => bitsOf mod 0 1 == 0
  | .cstepTo => bitsOf mod 0 1 == 1
  | .donePhase => bitsOf mod 8 3 == 0
  | .doneJob => bitsOf mod 8 3 == 1
  | .fwcallId => bitsOf mod 0 4 == 0
  | .fwcallTick => bitsOf mod 0 4 == 1
  | .fwcallBell => bitsOf mod 0 4 == 2
  | .fwcallHealth => bitsOf mod 0 4 == 3
  | _ => true

/-- The vector class of R61. -/
def Row.isVector (r : Row) : Bool :=
  let c := r.spec.opcode
  (0x50 ≤ c && c ≤ 0x8F) || (0x9B ≤ c && c ≤ 0x9D)

/-- The operations a `rep` can stand before (R75). -/
def Row.repeatable (r : Row) : Bool :=
  let c := r.spec.opcode
  c ≤ 0x2E || (0x40 ≤ c && c ≤ 0x47) || (0x50 ≤ c && c ≤ 0x7E) || (0x9B ≤ c && c ≤ 0x9D)

/-- The operations that stand only in handler blocks (R37). -/
def Row.handlerOnly (r : Row) : Bool :=
  match r with
  | .eretResume | .eretPoison | .eretEsc | .rnsInj => true
  | _ => false

/-- The operations that have an `.imm` form (R297, R331, R369, R406). -/
def Row.hasImmBit (r : Row) : Bool := r.spec.rnd == .immBit || r.spec.rnd == .atom

/-- The operations whose requests leave through the outbound message queue (R297, R370). -/
def Row.isOutbound (r : Row) : Bool :=
  let c := r.spec.opcode
  (0xB0 ≤ c && c ≤ 0xBA) || (0xD0 ≤ c && c ≤ 0xDB) || c == 0xE0 || c == 0xE1 || c == 0xE4 || c == 0xE5

/-- Whether a row is detached (R29): its destination kind says so. -/
def Row.detached (r : Row) : Bool := r.spec.dst == .det || r.spec.dst == .detV || r.spec.dst == .special

/-- `some` reason when a condition fails. -/
def need (ok : Bool) (e : ArmOp) : Option ArmOp := if ok then none else some e

/-- The first reason of a list of checks. -/
def firstSome : List (Option ArmOp) → Option ArmOp
  | [] => none
  | some e :: _ => some e
  | none :: rest => firstSome rest

/-- The reason with the lowest detail code (assumption 9, DESIGN CHOICE, unsafe). -/
def lowestSome (l : List (Option ArmOp)) : Option ArmOp :=
  l.foldl (fun b e => match b, e with
    | some x, some y => some (if y.code < x.code then y else x)
    | none, y => y
    | x, none => x) none

/-- What every source that is present obeys (R30): no QO, no C31, no constant with `mode` 1. -/
def Opnd.sourceOk (o : Opnd) : Bool :=
  match o.reg with
  | .qo _ => false
  | .c i => i.val ≠ 31 && !o.mode
  | _ => true

/-- Whether a register is of a plain source kind. -/
def Reg.inKind (k : SrcKind) (r : Reg) : Bool :=
  match k, r with
  | .scal, .g _ | .scal, .t _ | .scal, .qi _ | .scal, .c _ => true
  | .gtc, .g _ | .gtc, .t _ | .gtc, .c _ => true
  | .gtcNz, .g i => i.val ≠ 0
  | .gtcNz, .t _ | .gtcNz, .c _ => true
  | .gt, .g _ | .gt, .t _ => true
  | .pgt, .g _ | .pgt, .t _ | .pgt, .p _ => true
  | .vec, .v _ | .vec, .t _ | .vec, .qi _ => true
  | .vb, .v _ | .vb, .t _ | .vb, .qi _ | .vb, .g _ | .vb, .c _ => true
  | .mask, .p _ => true
  | .vt, .v _ | .vt, .t _ => true
  | .gtvc, .g _ | .gtvc, .t _ | .gtvc, .v _ | .gtvc, .c _ => true
  | _, _ => false

/-- A source of a plain kind: R30 and the kind, both detail 3. -/
def Opnd.check (k : SrcKind) (o : Opnd) : Option ArmOp := need (o.sourceOk && o.reg.inKind k) .operand

/-- An absent source is 0x00 (R26). -/
def Opnd.checkAbsent (o : Opnd) : Option ArmOp := need (o == Opnd.zero) .field

/-- The condition operand of R73 for a `cond` field. -/
def Opnd.checkCond (o : Opnd) (cond : Nat) : Option ArmOp :=
  if cond = 3 then some .field else if cond = 0 then o.checkAbsent else o.check .pgt

/-- The kind a source field takes in a given word, with `none` for an absent one; the condition and the optional operands
are settled here too. -/
def SrcKind.resolve (k : SrcKind) (o : Op) (src : Opnd) : SrcKind :=
  match k with
  | .scalIx bit => if o.modBit bit then .scal else .none
  | .gtcIx bit => if o.modBit bit then .gtc else .none
  | .vbIc => if o.modBit 9 then .none else .vb
  | .gtcIc => if o.modBit 9 then .none else .gtc
  | .vbAcc => if o.modBit 0 then .vb else .none
  | .bcast => if o.modBit 9 then .vec else .gtc
  | .optGtc | .bank => if src = Opnd.zero then .none else .gtcNz
  | .gtcUnlessJob => if o.modBits 8 3 = 4 then .none else .gtc
  | .repCount => if o.modBit 4 then .gt else .none
  | .cond => if o.modBits 0 2 = 0 then .none else .pgt
  | .condI => if bitsOf ((o.imm28.getD 0).toNat) 16 2 = 0 then .none else .pgt
  | k => k

/-- The check of one source field (R26, R30, R60, R162). -/
def checkSrc (k : SrcKind) (o : Op) (src : Opnd) : Option ArmOp :=
  match k with
  | .cond => src.checkCond (o.modBits 0 2)
  | .condI => src.checkCond (bitsOf ((o.imm28.getD 0).toNat) 16 2)
  | _ =>
    match k.resolve o src with
    | .none => src.checkAbsent
    | k' => src.check k'

/-- The check of the destination field (R29 to R31, R60, R162, R180). -/
def checkDst (r : Row) (o : Op) : Option ArmOp :=
  let d := o.dst
  let isNull := d == Opnd.null
  let plain (ok : Bool) : Option ArmOp :=
    if isNull then none else firstSome [need ok .operand, need (!d.mode) .field]
  let det (ok : Bool) : Option ArmOp :=
    if isNull then none else firstSome [need ok .operand, need d.mode .field]
  match r.spec.dst, d.reg with
  | .none, _ => d.checkAbsent
  | .scalar, .g _ | .scalar, .t _ | .scalar, .qo _ => plain true
  | .scalar, _ => plain false
  | .cmp, .g _ | .cmp, .t _ | .cmp, .qo _ => plain true
  | .cmp, .p i => plain (i.val ≠ 0)
  | .cmp, _ => plain false
  | .pred, .g _ | .pred, .t _ => plain true
  | .pred, .p i => plain (i.val ≠ 0)
  | .pred, _ => plain false
  | .gt, .g _ | .gt, .t _ => plain true
  | .gt, _ => plain false
  | .lane, .v _ | .lane, .t _ | .lane, .qo _ => plain true
  | .lane, _ => plain false
  | .laneOrPred, .v _ | .laneOrPred, .t _ | .laneOrPred, .qo _ => plain true
  | .laneOrPred, .p i => plain (i.val ≠ 0)
  | .laneOrPred, _ => plain false
  | .red, .g _ | .red, .t _ | .red, .v _ => plain true
  | .red, _ => plain false
  | .predOnly, .p i => plain (i.val ≠ 0)
  | .predOnly, _ => plain false
  | .isect, .p i => plain (o.modBits 0 2 = 0 && i.val ≠ 0)
  | .isect, .v _ | .isect, .qo _ => plain (o.modBits 0 2 = 1)
  | .isect, .t _ => plain (o.modBits 0 2 = 1 || o.modBits 0 2 = 2)
  | .isect, .g _ => plain (o.modBits 0 2 = 2)
  | .isect, _ => plain false
  | .gtv, .g _ | .gtv, .t _ | .gtv, .v _ => plain true
  | .gtv, _ => plain false
  | .det, .g _ | .det, .t _ => det true
  | .det, _ => det false
  | .detV, .v _ => det true
  | .detV, _ => det false
  | .special, .v _ => need d.mode .field
  | .special, _ => some .operand
  | .queue, .qo _ => firstSome [need (!d.mode) .field]
  | .queue, _ => some .operand
  | .fwd, .qo _ => firstSome [need (!d.mode) .field]
  | .fwd, _ => if d == Opnd.zero then none else some .operand

/-- The check of `rm`, `sr` and `ovf` (R26, R164, R247, R297, R300). -/
def checkRnd (r : Row) (o : Op) : Option ArmOp :=
  let rmZ := o.rm == .rne
  let srZ := !o.sr
  let ovfZ := o.ovf == .sat
  match r.spec.rnd with
  | .none => need (rmZ && srZ && ovfZ) .field
  | .all => none
  | .float => if o.ty.isF then none else need (rmZ && srZ && ovfZ) .field
  | .noOvf => need ovfZ .field
  | .immBit => need (rmZ && ovfZ) .field
  | .atom =>
    if o.ty == .f32 || o.ty == .f64 then need (o.ovf != .trap) .field else need (rmZ && ovfZ) .field
  | .satTrap => need (rmZ && srZ && (o.ovf == .sat || o.ovf == .trap)) .field

/-- The scope codes of R192. -/
def scopeOk (n : Nat) : Bool := n ≤ 4

/-- The `sync` codes of R298. -/
def syncOk (o : Op) : Option ArmOp := need (o.modBits 0 3 ≤ 5) .field

/-- The atomic operations of R303: `aop` and the types it takes. -/
def aopCheck (o : Op) (isRed : Bool) : Option ArmOp :=
  let aop := o.modBits 3 4
  firstSome [need (aop ≤ 6 && !(isRed && aop = 0)) .field,
    need (!((aop = 2 || aop = 3 || aop = 4) && !o.ty.isInt)) .type]

/-- The format codes `vstb` writes (R197). -/
def vstbFmtOk (f : Nat) : Bool :=
  f = 0x11 || f = 0x12 || f = 0x21 || f = 0x22 || f = 0x31 || f = 0x32 || f = 0x41

/-- The pairs of `vunpk`: source, destination (R176). -/
def vunpkOk (src dst : Ty) : Bool :=
  match src, dst with
  | .i8, .i16 | .n8, .n16 | .n8, .i16 | .i16, .i32 | .n16, .n32 | .n16, .i32 | .i32, .i64 | .n32, .n64 | .n32, .i64
  | .e4m3, .f16 | .e4m3, .bf16 | .e5m2, .f16 | .e5m2, .bf16 | .f16, .f32 | .bf16, .f32 | .f32, .f64 => true
  | _, _ => false

/-- The ranges of special register numbers that are assigned (R92, R99, R189, R242, R278, R348, R378). -/
def sprAssigned (n : Nat) : Bool :=
  n ≤ 0x00B || (0x010 ≤ n && n ≤ 0x017) || (0x020 ≤ n && n ≤ 0x087) || (0x0C0 ≤ n && n ≤ 0x0C5) ||
  (0x100 ≤ n && n ≤ 0x104) || n = 0x110 || n = 0x111 || (0x120 ≤ n && n ≤ 0x126) || (0x130 ≤ n && n ≤ 0x13F) ||
  (0x150 ≤ n && n ≤ 0x153) || (0x160 ≤ n && n ≤ 0x166)

/-- Whether a selector needs a handler block (R91, R92): `other`, or an H-only number. -/
def sprHandlerOnly (sel : Nat) : Bool :=
  bitOf sel 15 || (0x100 ≤ bitsOf sel 0 12 && bitsOf sel 0 12 ≤ 0x104)

/-- The value rules of a field-form matrix token's low 26 bits: token bits [57:32] (R212, R213, R244). The row gives the
operation. -/
def mxFieldOk (r : Row) (f : Nat) (bank : Bool) : Option ArmOp :=
  let ka := bitsOf f 21 2; let kb := bitsOf f 19 2; let acc := bitsOf f 18 1
  let ta := bitsOf f 14 4; let tb := bitsOf f 10 4
  let full := bitsOf f 7 3 = 7 && bitsOf f 4 3 = 7
  let keepa := bitsOf f 3 1; let keepb := bitsOf f 2 1; let ovf := bitsOf f 0 2
  match r with
  | .mxMma | .mxMmaToken =>
    firstSome [need (ka ≠ kb) .field,
      need ((ta = 8 || ta = 9) && (tb = 8 || tb = 9 || tb = 14) || (ta = 10 || ta = 11) && (tb = 10 || tb = 11)) .type]
  | .mxImma | .mxImmaToken => firstSome [need (ka ≠ kb && (ovf = 0 || ovf = 3)) .field, need (ta ≤ 1 && tb ≤ 1) .type]
  | .mxZero | .mxZeroToken =>
    need (ka = 0 && kb = 0 && acc = 0 && ta = 0 && tb = 0 && keepa = 0 && keepb = 0 && ovf = 0) .field
  | .mxDrain | .mxDrainToken =>
    need (kb = 0 && ta = 0 && tb = 0 && full && keepa = 0 && ovf = 0 && (!bank || ka = 0)) .field
  | .mxFill | .mxFillToken =>
    need (kb = 0 && acc = 0 && ta = 0 && tb = 0 && full && ovf = 0 && (!bank || ka = 0)) .field
  | .mxRev | .mxRevToken =>
    need (kb = 0 && ta = 0 && tb = 0 && full && keepa = 0 && keepb = 0 && ovf = 0 && (!bank || ka = 0)) .field
  | .mxChk | .mxChkToken =>
    need (ka = 0 && kb = 0 && acc = 0 && ta = 0 && tb = 0 && full && keepa = 0 && keepb = 0 && ovf = 0) .field
  | _ => none

/-- The rules of a row's own fields, beside its kinds and masks. (assumption 10, DEDUCED, safe) -/
def checkExtra (r : Row) (o : Op) : Option ArmOp :=
  let m (lo len : Nat) := o.modBits lo len
  let imm := (o.imm28.getD 0).toNat
  let n := o.ty.lanes
  match r with
  | .rep => need (m 5 6 ≤ 32 && (m 4 1 = 0 || m 5 6 = 0)) .field
  | .evRd => need (m 4 1 = 0 || m 0 4 ≤ 7) .field
  | .lda | .stl => need (scopeOk (m 0 3)) .field
  | .fence | .fenceAcq | .fenceRls => need (scopeOk (m 0 3)) .field
  | .vshl | .vshr | .vsar => need (m 9 1 = 1 || m 0 6 = 0) .field
  | .vcmp => firstSome [need (m 0 3 ≠ 7) .field, need (!(m 0 3 = 6 && o.ty.isInt)) .type]
  | .vsum => need (m 0 1 = 0 || (o.ty.code ≤ 5)) .field
  | .vbcast => need (if m 9 1 = 1 then m 0 7 < n else m 0 7 = 0) .field
  | .vrot => need (if m 9 1 = 1 then m 0 7 < n else m 0 7 = 0) .field
  | .vcompress | .vexpand => need (o.pred.val = 0) .field
  | .vcvt =>
    let s := Ty.ofCode (m 0 4)
    firstSome [need (m 0 4 ≤ 13) .type,
      need (m 4 2 < max s.bits o.ty.bits / min s.bits o.ty.bits) .field]
  | .vpack => need (m 0 4 ≤ 13 && (Ty.ofCode (m 0 4)).bits = 2 * o.ty.bits) .type
  | .vunpk => need (vunpkOk (Ty.ofCode (m 0 4)) o.ty) .type
  | .vqnt =>
    firstSome [need (m 0 4 = 10 || m 0 4 = 11 || m 0 4 = 12) .type,
      need (m 4 4 < 128 / (Ty.ofCode (m 0 4)).lanes) .field]
  | .vdqnt => need (m 4 4 < 128 / n) .field
  | .vldb => need (m 0 5 * n < 256) .field
  | .vstb => need (vstbFmtOk (m 0 8) && m 8 2 * n < 64) .field
  | .vgat | .vsca => need (m 0 2 * min 16 n < n) .field
  | .vconf =>
    match o.dst.reg with
    | .p _ => need (m 10 1 = 0) .field
    | _ => none
  | .visect => need (m 0 2 ≠ 3) .field
  | .mxMma | .mxImma | .mxZero | .mxDrain | .mxFill | .mxRev | .mxChk =>
    match o.dst.reg with
    | .qo _ => none
    | _ => mxFieldOk r (imm % 2 ^ 26) (o.a != Opnd.zero)
  | .mxDeg => need (m 0 3 ≤ 5) .field
  | .fwcallId | .fwcallTick | .fwcallHealth => need (!o.sr) .field
  | .mxWait => need (m 0 8 ≠ 0) .field
  | .vrnsFwd =>
    firstSome [need (m 0 4 ≤ 7) .type, need (m 4 3 * 8 < (Ty.ofCode (m 0 4)).lanes) .field]
  | .vrnsRev => need (o.ty == .i32 || m 4 1 = 0) .field
  | .qdrop => need (bitsOf imm 12 9 ≤ 256) .field
  | .rateSet => let s := bitsOf imm 8 4; need (s = 1 || (3 ≤ s && s ≤ 7)) .field
  | .rateRd => need (bitsOf imm 8 4 ≤ 11) .field
  | .rateW => need (m 0 2 ≠ 3) .field
  | .msg | .cas | .cas2 | .ceRed | .ceProg | .barInit | .barArrive | .barDrop | .barWait => syncOk o
  | .atom => firstSome [syncOk o, aopCheck o false]
  | .red => firstSome [syncOk o, aopCheck o true]
  | .hbWait | .hbSet | .hbPub => need (scopeOk (m 4 3)) .field
  | .hbAlloc => need ((m 0 3 = 1 || m 0 3 = 2 || m 0 3 = 4) && (o.c == Opnd.zero || m 0 3 = 1)) .field
  | .spNew | .drop => firstSome [syncOk o, need (m 3 3 ≤ 4) .field]
  | .lift => firstSome [syncOk o, need (1 ≤ m 3 3 && m 3 3 ≤ 4) .field]
  | .lower => firstSome [syncOk o, need (m 3 3 ≤ 3) .field]
  | .recall =>
    firstSome [syncOk o, need (m 6 2 ≠ 3 && (if m 6 2 = 2 then m 3 3 ≤ 4 else m 3 3 = 0)) .field]
  | .spFree | .probe | .spPin | .spUnpin | .kvApp | .pgRef | .pgUnref => syncOk o
  | .glLaunch | .cntAdd | .cntWait => syncOk o
  | .cancel => firstSome [syncOk o, need (m 8 3 ≤ 4) .field]
  | .sprRd | .sprWr => need (sprAssigned (bitsOf imm 0 12)) .field
  | .fwcallBell => need o.sr .field
  | .frz | .thaw => need (m 0 3 = 1 || m 0 3 = 2) .field
  | .rnsInj =>
    need (bitsOf imm 0 3 ≤ 5 && (bitsOf imm 3 9 ≠ 0 || bitsOf imm 12 8 = 0)) .field
  | _ => none

/-- The breach that a wrong `type` is: detail 4 (R26), but detail 2 where the row's own rule has `type` 0 and calls any other non-zero bit
or field a breach of detail 2 (R210, R228, R251, R263, R293, R331, R369, R392, R406): both rules are broken then, and the lower detail is
reported (assumption 9, DESIGN CHOICE, unsafe). -/
def Row.typeBreach (r : Row) : ArmOp :=
  let c := r.spec.opcode
  if (0x3C ≤ c && c ≤ 0x3F) || c = 0x4A || (0x97 ≤ c && c ≤ 0x9A) || (0xC0 ≤ c && c ≤ 0xC7) || (0xD0 ≤ c && c ≤ 0xDB) ||
      (0xE0 ≤ c && c ≤ 0xE5) || (0xF2 ≤ c && c ≤ 0xF4) then .field else .type

/-- What an arm checks of one word alone: the form, the predicate, the rounding and modifier bits, the operands, the type, and
the row's own rules. R47 fixes no order within a word: of several breaches the lowest detail code is reported
(assumption 9, DESIGN CHOICE, unsafe). -/
def checkOp (r : Row) (o : Op) : Option ArmOp :=
  let s := r.spec
  let pred := need (!(o.pred.val = 0 && o.psense)) .field
  match o.tail with
  | .reg .. =>
    lowestSome [need (s.form == .reg || s.form == .either) .field, pred, checkRnd r o,
      need ((o.mod &&& ~~~ (BitVec.ofNat 11 s.modMask)) == 0) .field,
      checkDst r o, checkSrc s.a o o.a, checkSrc s.b o o.b, checkSrc s.c o o.c,
      need (bitOf s.types o.ty.code) r.typeBreach, checkExtra r o]
  | .imm v =>
    lowestSome [need (s.form == .imm || s.form == .either) .field, pred,
      need ((v &&& ~~~ (BitVec.ofNat 28 s.immMask)) == 0) .field,
      checkDst r o, checkSrc s.a o o.a, checkExtra r o]

end Sys2Proof
end

