-- ==== Sys2Proof/WellFormed.lean ====
section
/-!
DEFINITION. Which instructions are well formed: a compute operation that an arm would accept by its word alone (R26 to R37;
Machine/Encoding.lean holds the rules). What an arm checks of a word in its block, its context and its bank unit stands in
Machine/Arm.lean.
-/
namespace Sys2Proof

/-- A compute operation that passes the checks of one word, and that its row selects among the rows of its opcode. -/
def Row.wfOp (r : Row) (o : Op) : Bool :=
  checkOp r o == none && r.selects o.imm28.isSome o.mod.toNat

/-- Well-formed instructions. The two primitives of R33, the steps and the commands have no field that could be ill
formed. -/
def Instr.wf (i : Instr) : Bool :=
  match i.row, i.op? with
  | some r, some o => r.wfOp o
  | _, _ => true

end Sys2Proof
end

