-- ==== Sys2Proof/Decode.lean ====
section
/-!
DEFINITION. The decoder of operation words (R25 to R35), total on every 64-bit word and rejecting by the ARM_OP detail of R49,
the decoder of host command entries (R400 to R402), and after them the encoders.
-/
namespace Sys2Proof

/-- Bytes read as one number, the first byte lowest (R16, R137). -/
def natOfBytes : List Byte → Nat
  | [] => 0
  | b :: rest => b.toNat + 256 * natOfBytes rest

/-- The low n bytes of a number, lowest first. -/
def bytesOfNat : Nat → Nat → List Byte
  | 0, _ => []
  | n + 1, v => BitVec.ofNat 8 v :: bytesOfNat n (v / 256)

/-- The fields of a word in the register form (R25). -/
def decodeRegTail (w : Nat) : Tail :=
  .reg (Opnd.ofCode (bitsOf w 28 8)) (Opnd.ofCode (bitsOf w 20 8)) (Ty.ofCode (bitsOf w 16 4)) (Rm.ofCode (bitsOf w 14 2))
    (bitOf w 13) (Ovf.ofCode (bitsOf w 11 2)) (BitVec.ofNat 11 (bitsOf w 0 11))

/-- The fields of a word: the I-form when `srcb` is 0xFF (R32). -/
def decodeFields (w : Nat) : Op :=
  { pred := Fin.ofNat 8 (bitsOf w 52 3), psense := bitOf w 55, dst := Opnd.ofCode (bitsOf w 44 8),
    a := Opnd.ofCode (bitsOf w 36 8),
    tail := if bitsOf w 28 8 = 255 then .imm (BitVec.ofNat 28 (bitsOf w 0 28)) else decodeRegTail w }

/-- The row of a word: the first row of the table whose opcode it has and which selects it. An unassigned opcode is detail 1
(R36); a word of an assigned opcode that no row selects holds a reserved field value, detail 2. -/
def decodeRow (opcode : Nat) (immForm : Bool) (mod : Nat) : Except ArmOp Row :=
  match Row.all.find? (fun r => r.spec.opcode == opcode && r.selects immForm mod) with
  | some r => .ok r
  | none => .error (if Row.all.any (fun r => r.spec.opcode == opcode) then .field else .opcode)

/-- What a word of a row stands for. The two primitives of R33 have no fields but the value of `imm`. -/
def decodeAs (r : Row) (w : Nat) (o : Op) : Except ArmOp Instr :=
  if r = .imm then (if bitsOf w 32 24 = 0 then .ok (.imm (BitVec.ofNat 32 (bitsOf w 0 32))) else .error .field)
  else if r = .nop then (if bitsOf w 0 56 = 0 then .ok .nop else .error .field)
  else
    match checkOp r o, r.mk o with
    | none, some i => .ok i
    | some e, _ => .error e
    | none, none => .error .opcode

/-- The compute operation of a word, or the ARM_OP detail with which an arm rejects it (R26, R30 to R36, R49). -/
def decodeWord (word : Word) : Except ArmOp Instr :=
  let w := word.toNat
  let o := decodeFields w
  match decodeRow (bitsOf w 56 8) o.imm28.isSome o.mod.toNat with
  | .error e => .error e
  | .ok r => decodeAs r w o

/-- Why firmware refuses a command entry (R400): BADCMD or BADARG. -/
inductive CmdError where
  | badCmd | badArg
deriving DecidableEq, Repr

/-- The command of an entry's code, flags and arguments (R401, R402). -/
def decodeCmd (code : Nat) (c : Cmd) : Except CmdError Instr :=
  let f := bitOf c.flags.toNat 0
  match code with
  | 1 => .ok (if f then .armRelease else .arm)
  | 2 => .ok (if f then .launchDual else .launch)
  | 3 => .ok (.cancelCommand)
  | 4 =>
    match c.a0.toNat with
    | 0 => .ok (.queryCounter)
    | 1 => .ok (.queryGraphQueue)
    | 2 => .ok (.queryPhaseQueue)
    | 3 => .ok (.queryRgnStat)
    | 4 => .ok (.queryHealth)
    | _ => .error .badArg
  | 5 => .ok (.map)
  | 6 => .ok (if f then .bindTransform else .bindClass)
  | 7 => .ok (.gang)
  | 8 => .ok (.attest)
  | 9 => .ok (.reset)
  | 10 =>
    match c.a0.toNat with
    | 1 => .ok (.policyModuleId)
    | 2 => .ok (.policyPool)
    | 3 => .ok (.policySpanDirectory)
    | 4 => .ok (.policyCeWin)
    | 5 => .ok (.policyTestMode)
    | 6 => .ok (.policyClearMode)
    | 7 => .ok (.policyBudget)
    | 8 => .ok (.policyAlarm)
    | 9 => .ok (.policyTimeRoot)
    | _ => .error .badArg
  | _ => .error .badCmd

/-- A command entry, as a number of 512 bits (R400). -/
def cmdOfNat (n : Nat) : Cmd :=
  let w (k : Nat) : Word := BitVec.ofNat 64 (bitsOf n (64 * k) 64)
  { flags := BitVec.ofNat 8 (bitsOf n 8 8), job := BitVec.ofNat 16 (bitsOf n 16 16), reply := w 1, a0 := w 2, a1 := w 3,
    a2 := w 4, a3 := w 5, a4 := w 6, a5 := w 7 }

/-- The command of a 64-byte entry; bytes 4 to 7 must be zero (R400). (assumption 32, DEDUCED, unsafe) -/
def decodeEntry (n : Nat) : Except CmdError Instr :=
  if bitsOf n 32 32 ≠ 0 then .error .badCmd else decodeCmd (bitsOf n 0 8) (cmdOfNat n)

/-- The instruction the decoders read from an instruction whose bits are w: an operation word of 64 bits, or a command
entry of 512, in bytes as memory holds them. -/
def decodeTableWord (nbits w : Nat) : Option Instr :=
  if nbits = 64 then (decodeWord (BitVec.ofNat 64 (natOfBytes (bytesOfNat 8 w)))).toOption
  else if nbits = 512 then (decodeEntry (natOfBytes (bytesOfNat 64 w))).toOption
  else none

/-! ### Encoders -/

/-- Bits [35:0] of a word: `srcb` to `mod`, or the marker and the immediate (R25, R32). -/
def Tail.code : Tail → Nat
  | .reg b c ty rm sr ovf mod =>
    b.code * 2 ^ 28 + c.code * 2 ^ 20 + ty.code * 2 ^ 16 + rm.code * 2 ^ 14 + (if sr then 2 ^ 13 else 0) + ovf.code * 2 ^ 11 +
      mod.toNat
  | .imm v => 255 * 2 ^ 28 + v.toNat

/-- The word of a compute operation (R25), as a number. -/
def encodeOp (r : Row) (o : Op) : Nat :=
  r.spec.opcode * 2 ^ 56 + (if o.psense then 2 ^ 55 else 0) + o.pred.val * 2 ^ 52 + o.dst.code * 2 ^ 44 + o.a.code * 2 ^ 36 +
    o.tail.code

/-- The word of a compute operation or encoding primitive; none for a step or a command. -/
def encode (i : Instr) : Option Word :=
  match i with
  | .imm v => some (BitVec.ofNat 64 (0x36 * 2 ^ 56 + v.toNat))
  | .nop => some (BitVec.ofNat 64 (0x37 * 2 ^ 56))
  | _ =>
    match i.row, i.op? with
    | some r, some o => some (BitVec.ofNat 64 (encodeOp r o))
    | _, _ => none

/-- A command entry as a number of 512 bits (R400). -/
def encodeEntry (code : Nat) (c : Cmd) : Nat :=
  code + c.flags.toNat * 2 ^ 8 + c.job.toNat * 2 ^ 16 + c.reply.toNat * 2 ^ 64 + c.a0.toNat * 2 ^ 128 +
    c.a1.toNat * 2 ^ 192 + c.a2.toNat * 2 ^ 256 + c.a3.toNat * 2 ^ 320 + c.a4.toNat * 2 ^ 384 + c.a5.toNat * 2 ^ 448

end Sys2Proof
end

