-- ==== Sys2Proof/Config.lean ====
section
/-!
DEFINITION. What the KS4's make-up fixes (R7, R9, R10), and the values the manual leaves open: opaque constants, so that
no proof can rest on a value of theirs (assumption 61, DESIGN CHOICE, safe).
-/
namespace Sys2Proof.Config

/-- Fabric dies (R7). -/
def dies : Nat := 4
/-- BU columns of a die (R7). -/
def cols : Nat := 96
/-- BU rows of a die (R7). -/
def rows : Nat := 64
/-- Bank units of the module (R10): 4 x 6,144. -/
def bankUnits : Nat := 24576
/-- Granules across and down one die (R9). -/
def granulesAcross : Nat := 24
/-- Granules down one die (R9). -/
def granulesDown : Nat := 16
/-- Granules of the module (R9). -/
def granules : Nat := 1536
/-- Device memory in bytes (R10): 256 GiB. -/
def deviceBytes : Nat := 274877906944
/-- Extents of the second-level configuration store (R38). -/
def extents : Nat := 4096
/-- Channel engines (R10). -/
def engines : Nat := 32
/-- Entries of the completion counter table (R354). -/
def counters : Nat := 65536
/-- Entries of the ladder's transform table (R324). -/
def transforms : Nat := 4096

/-- Which write a read returns when several are candidates (R286), drawn by the model's counter. Free value. -/
opaque choice : Nat → Nat
/-- The channel that holds each 1 KiB unit of physical device memory, by striping epoch and unit (R279). Free value; used
modulo 32. -/
opaque stripe : Nat → Nat → Nat
/-- The layout and contents of the health record that QUERY 4 writes (R401 leaves the layout open): byte k, by the model's
counter. Free value. -/
opaque healthByte : Nat → Nat → Byte
/-- The identity key of the module (R407): the bytes of its public key, x then y. Free value. -/
opaque publicKeyByte : Nat → Byte
/-- The ECDSA P-256 signature over a report (R407): byte k of r and s, by the model's counter and the signed bytes, read as one
number. Free value. -/
opaque signatureByte : Nat → Nat → Nat → Byte
/-- A value the manual leaves open and gives no operand for: the value the model's counter draws. Free value. -/
opaque freeWord : Nat → Word

end Sys2Proof.Config
end

