-- ==== Sys2Proof/Machine/State.lean ====
section
/-!
DEFINITION. The state of a KS4 module as plain data: every register, queue, memory and record the manual gives it, the work in
progress at its units, and the model's own bookkeeping (the agenda, the cursor and the counter of free values).
-/
namespace Sys2Proof.Machine

/-- Data by number: pairs in rising order of the number, no number twice. -/
abbrev NMap (α : Type) := List (Nat × α)

/-- One memory: cells in strictly rising order of address, none equal to what an unlisted address reads as, which is 0
(assumption 3, DESIGN CHOICE, unsafe). -/
abbrev Memory := List Host.Cell

/-! ### Parties and places -/

/-- The parties of R282. A context is named by its bank unit and slot, slot H being 4; the streams of an address generator
belong to their context. -/
inductive Party where
  | ctx (bu slot : Nat)
  | node (bu : Nat)
  | engine (n : Nat)
  | ladder
  | handleUnit
  | host
  | peer (module : Nat)
deriving DecidableEq, Repr

/-- Where a request comes from: the operation that issued it, for its reply, its order and its fault record (R373). -/
structure Origin where
  bu : Nat
  slot : Nat
  block : Nat
  op : Nat
  elem : Nat
  round : Nat
  region : Nat
  launch : Nat
  job : Nat
deriving DecidableEq, Repr

/-! ### Registers and the running block -/

/-- The states of R57. A pending register names the request it waits for. -/
inductive RegState where
  | full
  | pending (req : Nat)
  | failed
deriving DecidableEq, Repr

/-- A G or P register. -/
structure Reg64 where
  val : Word
  st : RegState
deriving DecidableEq, Repr

/-- A V register. -/
structure Reg512 where
  val : Line
  st : RegState
deriving DecidableEq, Repr

/-- A temporary in the running block (R57, R58): its writer has not executed, has been resolved without writing, or has
written. -/
inductive TempState where
  | unwritten
  | resolved
  | full (v : Line)
deriving DecidableEq, Repr

/-- A destination that a detached result is written to (R29, R67). -/
inductive Dest where
  | none
  | g (i : Fin 32)
  | v (i : Fin 8)
deriving DecidableEq, Repr

/-- A fault record (R373), before its level is set. -/
structure FaultRec where
  code : Nat
  level : Nat
  async : Bool
  die : Nat
  x : Nat
  y : Nat
  slot : Nat
  block : Nat
  op : Nat
  norep : Bool
  address : Nat
  round : Nat
  tick : Nat
  extra : Nat
  launch : Nat
deriving DecidableEq, Repr

/-- How far a request has got. -/
inductive ReqStage where
  /-- Held in the block's write log until its round commits (R383). -/
  | held
  /-- Committed, waiting to leave the bank unit (R292, R294). -/
  | queued
  /-- On its way to, or at, the unit that serves it. -/
  | sent
  /-- Waiting aside at its unit (`hb.wait`, `bar.wait`, `cnt.wait`, parked ladder requests, waiting handle requests). -/
  | waiting
  /-- Served; its result is on its way back. -/
  | replied (val : Line)
  /-- Failed with a code, an address and detail; its report is to be posted (R68). -/
  | failed (code address extra : Nat)
  /-- A held request of the other placement of a dual run: the request of a number was published in its stead, and it takes the same
  answer (R388). -/
  | mirror (of : Nat)
deriving DecidableEq, Repr

/-- A request or a detached operation under way: its row and fields with its operands already read. -/
structure Req where
  id : Nat
  org : Origin
  row : Row
  /-- The hub port by which it reaches the hub, named by the bank unit beside it (R8). -/
  port : Nat
  a : Nat
  b : Nat
  c : Nat
  mod : Nat
  ty : Ty
  rm : Rm
  ovf : Ovf
  imm : Bool
  /-- The destination, and whether the issuing block has committed; an aborted block's results are discarded (R66). -/
  dst : Dest
  committed : Bool
  dead : Bool
  stage : ReqStage
  /-- The release: scope code plus one, 0 for none (R298), and the issuer's past when it was issued (R285). -/
  sync : Nat
  past : List Nat
  /-- Writes and requests that must have performed before it leaves (R294, R305). -/
  after : List Nat
  /-- Requests whose answer it waits for before it leaves (R292). -/
  hold : List Nat
  /-- The flags a detached vector operation raises when it arrives (R180). -/
  flags : Nat
  /-- It has taken its writer, reader or other effect at a handle already and waits for its end. -/
  begun : Bool
  /-- What release fences before it released: scope and past (R290). -/
  rel : List (Nat × List Nat)
  /-- The releases that its answer observes (R290). -/
  obs : List (Party × Nat × List Nat)
deriving DecidableEq, Repr

/-- A special register's write held until commit (R91): the slot it reaches, the number and the value. -/
structure SprWrite where
  slot : Nat
  num : Nat
  val : Word
deriving DecidableEq, Repr

/-- A matrix control token with its gate, its bank offset and whether it comes from slot H (R212, R214, R216, R224). -/
structure MxTok where
  word : Word
  gate : Option Nat
  bankOff : Option Nat
  fromH : Bool
  org : Origin
  /-- Its number, and the acquires whose answers its bank access waits for (R290, R292). -/
  id : Nat
  hold : List Nat
deriving DecidableEq, Repr

/-- One effect that a block holds until its commit, in slot order (R62 to R64). -/
inductive Eff where
  | regG (i : Fin 32) (v : Word)
  | regV (i : Fin 8) (v : Line)
  | regP (i : Fin 8) (v : Word)
  /-- Tokens tentatively popped from a QI (R63). -/
  | pop (qi : Nat) (n : Nat)
  /-- A token for a QO: its payload, and `last` (R131). -/
  | push (qo : Nat) (payload : Line) (last : Bool)
  | poison (qo : Nat)
  | qmark
  /-- Bytes for the bank, at an absolute byte of the bank unit's bank (R190). -/
  | store (addr : Nat) (bytes : List Byte)
  /-- The release of an `stl` at a location and scope (R284). -/
  | stl (addr size scope : Nat)
  | req (r : Req)
  | flags (f : Nat)
  | spr (w : SprWrite)
  | rateSet (qi sel : Nat) (v : Word)
  | rateW (which : Nat) (v : Word)
  | mxTok (t : MxTok)
  | ringPush (ring : Nat) (row : Line) (sb : Word)
  | ringReset (ring : Nat)
  | evLoop (ctr src : Nat) (start : BitVec 32) (rem : Nat) (step : BitVec 32)
  | evPulse (s : Nat)
  | evArm (tgt term : Nat) (mask : BitVec 16) (clr : Bool)
  | mxDeg (chan : Nat)
  | cstep (atLeast : Option Nat)
  | freeze (rgn : Bool)
  | thaw (rgn : Bool)
  | inject (v : Nat)
  /-- Corrected residue lanes of `vrns.rev`: the mask of channels, the count, and the counts by channel (R249). -/
  | rnsCorr (mask count : Nat) (byChan : List Nat)
  | fence (acq rel : Bool) (scope : Nat)
  /-- The destination of a detached operation that was sent when it issued turns pending (R67). -/
  | pend (req : Nat)
deriving DecidableEq, Repr

/-- The riders of R70. -/
inductive Rider where
  | call (target : Nat)
  | ret
  | halt
  | eret (action : Nat)
deriving DecidableEq, Repr

/-- The block a context is running: what has executed and what it holds (R61 to R70). -/
structure Blk where
  running : Bool
  /-- Operations executed or predicated off: (slot order, elements done). -/
  done : NMap Nat
  /-- Element counts of executed `rep` prefixes, by the slot order of the repeated operation. -/
  reps : NMap Nat
  temps : Vector TempState 16
  /-- Effects by slot order and element. -/
  effs : List (Nat × Nat × Eff)
  fired : Option (Nat × Nat)
  rider : Option Rider
  yielded : Bool
  rng : Word
  /-- `ctx.pass`, `ctx.w` and `ctx.lastadj` as the block's own `spr.rd` reads them: their values before the block (R91,
  R99). -/
  passAt : Nat
  wAt : Nat
  adjAt : Int
  /-- Detached results that arrived before the commit, or failed then, by request. -/
  early : List Nat
deriving DecidableEq, Repr

/-- The block of a context that runs none. -/
def Blk.idle : Blk :=
  { running := false, done := [], reps := [], temps := Vector.replicate 16 .unwritten, effs := [], fired := none,
    rider := none, yielded := false, rng := 0, passAt := 0, wAt := 0, adjAt := 0, early := [] }

/-- The states of R55. -/
inductive CtxState where
  | idle | active | fetch | faulted | ending | stopped
deriving DecidableEq, Repr

/-- The register state of a slot that a checkpoint keeps: that of R53 without weights and passes (R384). -/
structure Regs where
  g : Vector Reg64 32
  v : Vector Reg512 8
  p : Vector Reg64 8
  bc : BitVec 16
  stack : Vector (BitVec 16) 8
  depth : Nat
  round : Nat
  flags : BitVec 8
  fmask : BitVec 8
  ovr : BitVec 4
  seed : Word
  rng : Word
  expsplit : Nat
deriving DecidableEq, Repr

/-- The registers of a slot with every register zero and full (R54); P0 reads all ones. (assumption 4, DESIGN CHOICE, unsafe) -/
def Regs.start : Regs :=
  { g := Vector.replicate 32 ⟨0, .full⟩, v := Vector.replicate 8 ⟨0, .full⟩,
    p := (Vector.replicate 8 ⟨0, .full⟩).set 0 ⟨BitVec.allOnes 64, .full⟩, bc := 0, stack := Vector.replicate 8 0, depth := 0,
    round := 0, flags := 0, fmask := 0, ovr := 0, seed := 0, rng := 1, expsplit := 0 }

/-- A checkpoint (R384): the round it closes, the registers, and whether an instance was held. -/
structure Ckpt where
  round : Nat
  regs : Regs
  active : Bool
deriving DecidableEq, Repr

/-- One context slot, or slot H (R53, R94). -/
structure Ctx where
  regs : Regs
  st : CtxState
  w : Nat
  wmin : Nat
  wmax : Nat
  pass : Nat
  lastadj : Int
  blk : Blk
  /-- The launch whose instance it runs. -/
  launch : Option Nat
  ckpts : List Ckpt
  /-- Logged replies still to be replayed, oldest first (R386). -/
  replay : List Line
  /-- Outstanding acquires, whose answer later accesses wait for (R292). -/
  acquires : List Nat
  /-- Writes and requests that a release side in force waits for (R294). -/
  barrier : List Nat
  /-- Writes and requests that have left or are queued and have not performed (R294). -/
  issued : List Nat
  /-- The pasts released with stores, pushes and messages after its release fences: scope and past, the latest of each scope
  (R290). -/
  relFence : List (Nat × List Nat)
  /-- The releases that its loads and pops have returned, for an acquiring fence (R290): party, scope and past. -/
  seen : List (Party × Nat × List Nat)
  /-- What the block that faulted had done (R89, R381). -/
  fblk : List (Nat × Nat × Eff)
deriving DecidableEq, Repr

/-- A slot at placement or reset: no instance, the scheduling state of R99. -/
def Ctx.reset : Ctx :=
  { regs := Regs.start, st := .idle, w := 16, wmin := 1, wmax := 255, pass := 0, lastadj := 0, blk := Blk.idle, launch := none,
    ckpts := [], replay := [], acquires := [], barrier := [], issued := [], relFence := [], seen := [], fblk := [] }

/-! ### Tokens, queues and controllers -/

/-- Token kinds, in the order of their codes (R122). -/
inductive TKind where
  | data | marker | control | poison
deriving DecidableEq, Repr

/-- A token: its sideband (R122) and payload; `rel` is what release fences before the push released (R290). -/
structure Token where
  kind : TKind
  round : Nat
  res : Nat
  route : Nat
  last : Bool
  bit31 : Bool
  payload : Line
  rel : List (Party × Nat × List Nat)
deriving DecidableEq, Repr

/-- A controller entry (R100), with its period counter (R103). -/
structure Ctl where
  acc : Int
  adj : Int
  set : Nat
  kp : Nat
  ki : Nat
  period : Nat
  imax : Nat
  cap : Nat
  pstat : Nat
  kpArm : Nat
  periodMin : Nat
  count : Nat
  /-- The period in force until the current one ends (R112). -/
  running : Nat
  /-- What a step that is due found at the start of its cycle (R103): `occ`, the clamp state of the consumer's weights, and `pstat`. -/
  sample : Option (Nat × Nat × Nat)
deriving DecidableEq, Repr

/-- An adjustment on its way into a context's weight (R104): the slot, the amount, and the controller that sent it. -/
structure Adj where
  slot : Nat
  amount : Int
  fromBu : Nat
  fromEntry : Nat
deriving DecidableEq, Repr

/-- A record in the handler queue, or waiting for room there (R85, R379): the slot of its context, and the cycle of the bank unit in
which it came. -/
structure QRec where
  record : FaultRec
  slot : Nat
  cycle : Nat
deriving DecidableEq, Repr

/-- The states of `carry` and `invariant` (R133). -/
inductive OpState where
  | init | loop | empty | hold
deriving DecidableEq, Repr

/-- A route operator: its state, its held value and the tokens at its inputs a, b and c. -/
structure Oper where
  st : OpState
  held : Option Token
  a : List Token
  b : List Token
  c : List Token
deriving DecidableEq, Repr

/-! ### Matrix node, events and streams -/

/-- An accumulator tile (R220, R237, R238): 64 elements, f32 in the low 4 bytes or rns lanes. -/
structure Tile where
  z : List Word
  side : List Word
  guard : Nat
  failed : Bool
  tag : Nat
  seq : Nat
deriving DecidableEq, Repr

/-- A tile at placement. -/
def Tile.zero : Tile := { z := List.replicate 64 0, side := List.replicate 64 0, guard := 0, failed := false, tag := 0, seq := 0 }

/-- A token in the inbox (R216): its gate is open once released (R227). -/
structure InTok where
  tok : MxTok
  gated : Option Nat
deriving DecidableEq, Repr

/-- A started matrix operation with the operands it read (R217). -/
structure Started where
  tok : MxTok
  rowsA : List (Line × Word)
  rowsB : List (Line × Word)
  guardOn : Bool
  rnsMode : Nat
  bad : Option (Nat × Nat)
deriving DecidableEq, Repr

/-- The pointers of an operand ring (R208). -/
structure Ring where
  head : Nat
  tail : Nat
  count : Nat
deriving DecidableEq, Repr

/-- The matrix node. -/
structure Node where
  tiles : Vector Tile 8
  inbox : List InTok
  started : List Started
  rings : Vector Ring 16
deriving DecidableEq, Repr

/-- The node at placement (R224). -/
def Node.reset : Node :=
  { tiles := Vector.replicate 8 Tile.zero, inbox := [], started := [], rings := Vector.replicate 16 ⟨0, 0, 0⟩ }

/-- An event counter (R226), with the releases that its ticks carry to an `ev.wait` (R290). -/
structure EvCtr where
  val : BitVec 32
  rem : Nat
  step : BitVec 32
  src : Nat
  rels : List (Party × List Nat)
deriving DecidableEq, Repr

/-- A start target (R227). -/
structure Target where
  masks : Vector (BitVec 16) 4
  latches : Vector (BitVec 16) 4
  pend : Nat
  lost : Bool
deriving DecidableEq, Repr

/-- The event crossbar: the counters, the targets, the sources that pulse now with the party that pulses them and its past, and
the S pulses to come (R225 to R230, R290). -/
structure Events where
  ctrs : Vector EvCtr 16
  tgts : Vector Target 8
  pulses : List (Nat × Party × List Nat)
  sQueue : List Nat
deriving DecidableEq, Repr

/-- Counters done at 0 and targets with zero masks (R224, R226). -/
def Events.reset : Events :=
  { ctrs := Vector.replicate 16 ⟨0, 0, 0, 0, []⟩,
    tgts := Vector.replicate 8 ⟨Vector.replicate 4 0, Vector.replicate 4 0, 0, false⟩, pulses := [], sQueue := [] }

/-- A translation entry: the job, the page's VA, whether it is 512 MiB, and what the leaf says (R255, R257). -/
structure Trans where
  job : Nat
  vpage : Nat
  big : Bool
  pa : Nat
  kind : Nat
  module : Nat
  writable : Bool
  handle : Nat
deriving DecidableEq, Repr

/-- A stream run in progress (R270, R271). `pos` counts the units of its mode that are done; `todo` holds the tokens or lines
produced and not yet delivered, `got` the bytes taken from tokens and not yet written. -/
structure Run where
  round : Nat
  pos : Nat
  pos2 : Nat
  sub : Nat
  got : List Byte
  pairs : List Nat
  todo : List Line
  sbs : List Word
  flags : Nat
  /-- The handles whose counts the run holds, and its role at each: 0 writer, 1 writer through the shadow, 2 draining reader. -/
  held : List (Nat × Nat)
  /-- The handle requests still to be served (R261): number, handle and role. -/
  waitH : List (Nat × Nat × Nat)
  lineRound : Nat
  ended : Bool
  marker : Bool
  err : Option (Nat × Nat × Nat)
  /-- The VA and handle whose translation it waits for, and its number among the refills (R257). -/
  refill : Option (Nat × Nat × Nat)
  /-- The bytes of its present access that have been read or written: an access that crosses a line is made of several requests. -/
  part : List Byte
  /-- The ring entries of its present BSR block that it has written (R204). -/
  tile : Nat
  launch : Nat
  /-- The writes that it has issued. -/
  writes : List Nat
deriving DecidableEq, Repr

/-- One stream of an address generator (R267, R270, R278). -/
structure Strm where
  handle : Nat
  pend : Nat
  /-- When each pending start was made, by the bank unit's count of starts. -/
  order : List Nat
  run : Option Run
  failed : Bool
  lost : Bool
  runs : Nat
  trans : Option Trans
  /-- Logged tokens that a rollback redelivers, each with its QO, before the stream goes on (R386). -/
  redo : List (Nat × Token)
  /-- `dir` 1 runs that have ended in rounds that have not committed: a rollback makes them again (R386). -/
  old : List Run
deriving DecidableEq, Repr

/-- A stream with no start and no run. -/
def Strm.reset : Strm :=
  { handle := 0, pend := 0, order := [], run := none, failed := false, lost := false, runs := 0, trans := none, redo := [], old := [] }

/-! ### Logs -/

/-- An entry of a write log (R383), tagged with its round. (assumption 46, DEDUCED, unsafe) -/
inductive LogItem where
  | req (id : Nat)
  | line (write : Nat)
  | undo (addr : Nat) (old : List Byte)
  | poison (slot block route : Nat)
deriving DecidableEq, Repr

/-- An entry of replay storage (R383). -/
inductive ReplayItem where
  | token (n : Nat) (t : Token)
  | reply (slot req : Nat) (val : Line)
deriving DecidableEq, Repr

/-- A log entry with its round and the lines it takes (R383). -/
structure LogEnt where
  round : Nat
  lines : Nat
  item : LogItem
deriving DecidableEq, Repr

/-- A replay entry with its round and the lines it takes (R383). -/
structure ReplayEnt where
  round : Nat
  lines : Nat
  item : ReplayItem
deriving DecidableEq, Repr

/-! ### A bank unit -/

/-- A block in a configuration cache (R42): its tag, frames, when a context last entered it, and whether it is pinned. -/
structure CacheBlk where
  image : Nat
  slot : Nat
  block : Nat
  frames : Nat
  stamp : Nat
  pinned : Bool
deriving DecidableEq, Repr

/-- Who froze a bank unit (R392). -/
inductive Freeze where
  | frz | monitor | preempt | rollback | vote | firmware
deriving DecidableEq, Repr

/-- A release that reached a bank location: made by an `stl` (R284), or carried by a store after a release fence, for which
`fence` is set (R290). -/
structure BankRel where
  fence : Bool
  addr : Nat
  size : Nat
  scope : Nat
  party : Party
  past : List Nat
deriving DecidableEq, Repr

/-- A handler run: the record handled, the slot of its context, and whether it is asynchronous (R85, R379). -/
structure HRun where
  record : FaultRec
  slot : Nat
  async : Bool
deriving DecidableEq, Repr

/-- The residue registers of a bank unit (R242, R243). -/
structure Rns where
  mode : Nat
  auto : Nat
  gdis : BitVec 8
  cnt : List Nat
  injs : Nat
deriving DecidableEq, Repr

/-- The snake chain registers (R348). -/
structure Kv where
  cfg : Nat
  lim : Nat
  base : Nat
  tol : Bool
deriving DecidableEq, Repr

/-- One bank unit. -/
structure Bu where
  region : Option Nat
  /-- Its offset in the region: die, x and y. -/
  offDie : Nat
  offX : Nat
  offY : Nat
  bank : Memory
  ctxs : Vector Ctx 5
  cache : List CacheBlk
  /-- Outstanding fetches: the slot and block each slot waits for (R44). -/
  fetches : List (Nat × Nat)
  stamp : Nat
  /-- Queues by receive entry, credits by send entry, operators by operator entry (route entry number). -/
  queues : NMap (List Token)
  credits : NMap Nat
  opers : NMap Oper
  ctls : NMap Ctl
  node : Node
  ev : Events
  strms : Vector Strm 16
  strmStamp : Nat
  cycle : Nat
  /-- The vector unit is busy with an f64 operation (R183; assumption 48, DEDUCED, safe). -/
  vbusy : Bool
  sec : Nat
  eccLine : Option Nat
  badWords : List Nat
  badBlocks : List (Nat × Nat)
  retention : Bool
  rns : Rns
  kv : Kv
  reply : Vector Word 4
  hq : List QRec
  faultWait : List QRec
  hrun : Option HRun
  wlog : List LogEnt
  replay : List ReplayEnt
  frozen : List Freeze
  /-- Freeze waves on their way to it. -/
  waves : List Freeze
  /-- A context of it has committed a `frz`: no context issues, and it freezes once the commits of the cycle have been made (R65,
  R392). -/
  stopping : Bool
  rels : List BankRel
  /-- Adjustments that take effect in this cycle and in the next (R104). -/
  adjNow : List Adj
  adjNext : List Adj
  /-- The cycle in which it last sent tokens, and the age of those flits (R124). -/
  sendAge : Nat × Nat
  /-- The cycle in which the port of its address generator took its last request (R273). -/
  port : Option Nat
deriving DecidableEq, Repr

/-- A bank unit after module reset: nothing placed (R243 R348 R378 for its registers). -/
def Bu.reset : Bu :=
  { region := none, offDie := 0, offX := 0, offY := 0, bank := [], ctxs := Vector.replicate 5 Ctx.reset, cache := [],
    fetches := [], stamp := 0, queues := [], credits := [], opers := [], ctls := [], node := Node.reset, ev := Events.reset,
    strms := Vector.replicate 16 Strm.reset, strmStamp := 0, cycle := 0, vbusy := false, sec := 0, eccLine := none,
    badWords := [], badBlocks := [], retention := false,
    rns := { mode := 0, auto := 4, gdis := 0, cnt := List.replicate 6 0, injs := 0 },
    kv := { cfg := 0, lim := 0x100000000, base := 0, tol := false }, reply := Vector.replicate 4 1, hq := [], faultWait := [],
    hrun := none, wlog := [], replay := [], frozen := [], waves := [], stopping := false, rels := [], adjNow := [], adjNext := [],
    sendAge := (0, 0), port := none }

/-! ### The network -/

/-- A token flit: the bank unit it is at, the one it goes to, and whom it is for (R124). -/
structure Flit where
  id : Nat
  tok : Token
  at_ : Nat
  dest : Nat
  /-- Receive or operator entry at the destination; for an operator, which input (0 a, 1 b, 2 c). -/
  entry : Nat
  input : Option Nat
  /-- What must have performed, and what must have been answered, before it leaves its bank unit (R292, R294). -/
  after : List Nat
  hold : List Nat
  /-- Its age: the number of the first flit that its bank unit sent in the same cycle (R124). -/
  age : Nat
  /-- It stands in the buffer of the boundary router over whose edge it has come (R135). -/
  crossed : Bool
deriving DecidableEq, Repr

/-- Flits of the rate class: an adjustment, a status answer or a credit (R104, R105, R125). -/
inductive CtlMsg where
  /-- An adjustment for a slot from the controller of a (bank unit, entry). -/
  | rate (slot : Nat) (adj : Int) (fromBu fromEntry : Nat)
  | status (entry bits : Nat)
  | credit (entry n : Nat)
deriving DecidableEq, Repr

/-- A rate-class flit from one bank unit to another. -/
structure CtlFlit where
  id : Nat
  src : Nat
  dest : Nat
  msg : CtlMsg
deriving DecidableEq, Repr

/-- The network between the bank units. Grants are keyed by edge, row, direction and class (R135), and those not listed
stand at their placement value. -/
structure Net where
  flits : List Flit
  ctl : List CtlFlit
  grants : NMap Nat
deriving DecidableEq, Repr

/-! ### Configuration store -/

/-- A C block of an armed image (R23). -/
structure Block where
  die : Nat
  x : Nat
  y : Nat
  slot : Nat
  handler : Bool
  id : Nat
  nonrep : Bool
  words : List Word
deriving DecidableEq, Repr

/-- Numbered frames of an armed image (R24): M (2), W (3) or A (4), for a bank unit and, for A, a slot. -/
structure Frames where
  layout : Nat
  die : Nat
  x : Nat
  y : Nat
  slot : Nat
  first : Nat
  words : List Word
deriving DecidableEq, Repr

/-- An armed image in the second-level store (R38 to R40). -/
structure Image where
  job : Nat
  dies : Nat
  width : Nat
  height : Nat
  words : List Word
  blocks : List Block
  frames : List Frames
deriving DecidableEq, Repr

/-! ### Memory order -/

/-- A write at its home: its bytes from a physical key, its writer, the writer's past when it was issued (R285), and what a
release fence before it released (R290). -/
structure Write where
  id : Nat
  key : Nat
  bytes : List Byte
  party : Party
  past : List Nat
  rel : List (Nat × List Nat)
deriving DecidableEq, Repr

/-- A write that has not performed: what it waits for, and what its performance ends. -/
structure PWrite where
  w : Write
  org : Option Origin
  after : List Nat
  /-- The writer that it ends (R261): job, handle, role, and whether with `fin`. -/
  ends : Option (Nat × Nat × Nat × Bool)
  /-- Held in a write log until its round commits (R383). -/
  logged : Bool
  /-- The job and slot of the handle whose shadow it is written to (R264). -/
  shadow : Option (Nat × Nat)
deriving DecidableEq, Repr

/-- An entry of a page table that a walk cache holds (R257): its tags, which are the job and the table entry's address, the lowest VA bit
of its level and the VA above that bit, and the entry's word. -/
structure WalkEnt where
  job : Nat
  addr : Nat
  lo : Nat
  vpage : Nat
  word : Nat
deriving DecidableEq, Repr

/-- A release that an arrival or a drop made at a barrier (R305): the barrier's key, the phase it was counted in, and the
release: party, scope and past. Barriers in a bank have keys from 2^62. -/
structure BarRel where
  key : Nat
  phase : Nat
  rel : Party × Nat × List Nat
deriving DecidableEq, Repr

/-- The memories outside the banks, and their order of writes. Keys: device memory from 0, host memory from 2^60, the memory
of peer module m from 2^61 + m x 2^52. `base` is what stood there before every listed write. `badWords` are uncorrectable words, and
`softWords` words whose only error lies in the low mantissa bits of an attention page's line (R343), by their first byte. -/
structure MemSys where
  mem : Memory
  base : Memory
  pending : List PWrite
  done : List Write
  pasts : List (Party × List Nat)
  badWords : List Nat
  softWords : List Nat
  bars : List BarRel
deriving DecidableEq, Repr

/-! ### The hub -/

/-- A running job (R353): its record and what it has spent. (assumption 81, DEDUCED, unsafe) -/
structure Job where
  id : Nat
  pool : Nat
  oasis : Nat
  ncnt : Nat
  cntBase : Nat
  root : Nat
  htab : Nat
  hslots : Nat
  heap : Nat
  heapsz : Nat
  budget : Int
  fq : Nat
  save : Nat
  savesz : Nat
  phase : Nat
  closedPhases : List Nat
  closed : Bool
  /-- The counter of each phase and the writes of its launches that have completed (R352, R356). -/
  phaseCnts : NMap (Nat × List Nat)
  heapUsed : List Nat
  /-- `pub` and shadow bookkeeping of its handles: slot to (written since publish, shadow writers) (R264). -/
  shadows : NMap (Bool × Nat)
  /-- The modules that its gang launches have named: its caravan (R319, R372). -/
  caravan : List Nat
deriving DecidableEq, Repr

/-- A binding of a launch record (R361). -/
structure Bind where
  die : Nat
  x : Nat
  y : Nat
  slot : Nat
  what : Nat
  index : Nat
  val : Word
deriving DecidableEq, Repr

/-- An entry of a copy schedule (R276): the stream, its stage, and whether it is released and has ended a run. -/
structure CopyEnt where
  die : Nat
  x : Nat
  y : Nat
  slot : Nat
  stream : Nat
  stage : Nat
  released : Bool
  ended : Bool
deriving DecidableEq, Repr

/-- How far a launch has got. -/
inductive LaunchState where
  | queued | running | finishing
deriving DecidableEq, Repr

/-- A launch (R360, R362). -/
structure Launch where
  id : Nat
  job : Nat
  region : Nat
  prio : Nat
  rollbackMode : Bool
  eos : Bool
  close : Bool
  phase : Nat
  quantum : Nat
  cnts : List Nat
  reply : Nat
  lbudget : Nat
  seed : Word
  copies : List CopyEnt
  binds : List Bind
  tick : Nat
  skewed : Bool
  st : LaunchState
  stage : Nat
  spent : Nat
  /-- The build it runs, when the ladder engine launched it (R325). -/
  build : Option Nat
  cancelled : Bool
  dual : Bool
  /-- The instances whose completion has been counted, by offset and slot. -/
  counted : List Nat
deriving DecidableEq, Repr

/-- Where a region is placed: the first die, and the granule of its origin on each die (R358). -/
structure Place where
  die : Nat
  gx : Nat
  gy : Nat
deriving DecidableEq, Repr

/-- The saved image of a pre-empted region (R393): the bank units in extent order, and its tokens in flight. (assumption 87, DEDUCED, unsafe) -/
structure Saved where
  bus : List Bu
deriving DecidableEq, Repr

/-- A region: an armed image and what the scheduler and the recovery machinery hold for it (R364, R378, R382). -/
structure Region where
  id : Nat
  image : Nat
  job : Nat
  pool : Nat
  place : Option Place
  placedAt : Nat
  waitSince : Option Nat
  queue : List Nat
  running : Option Nat
  started : Bool
  /-- Its graph has completed (R352). -/
  graphDone : Bool
  /-- Module-clock ticks of its quantum that have passed (R364), and whether an expiry has been suppressed, which the scheduler tries
  again at each commit of a round (R365). -/
  quantumUsed : Nat
  expired : Bool
  /-- Rounds committed since its launch started (R382); the rounds that its launch has opened; and the non-replayable ones, by
  their count from the launch's start (R385). -/
  commits : Nat
  opened : Nat
  /-- The last committed round, as `rgn.stat` shows it (R378). -/
  shown : Nat
  norepRounds : List Nat
  dual : Bool
  /-- The other placements of a dual run, the primary first (R388). -/
  twins : List Nat
  primary : Bool
  voting : Bool
  /-- The comparison value of a round that it has committed and not published (R388). -/
  vote : Option Nat
  rb : Nat
  rbtotal : Nat
  hang : Nat
  map : Nat
  idle : Nat
  saved : Option Saved
  rolledBack : Bool
  wantRollback : Bool
  gq : List FaultRec
  /-- The cycle of its first bank unit from which its launch is charged (R338). -/
  placedClock : Nat
deriving DecidableEq, Repr

/-- A rung of a span, in the ladder engine's rung table (R322): its generation, whether in use, and the handle's entry. -/
structure Rung where
  gen : Nat
  used : Bool
  owner : Nat
  state : Nat
  base : Nat
  size : Nat
  writers : Nat
  readers : Nat
  span : Nat
  rung : Nat
deriving DecidableEq, Repr

/-- A page the ladder engine has allotted (R344). -/
structure Page where
  count : Nat
  dying : Bool
  owner : Nat
  va : Nat
deriving DecidableEq, Repr

/-- A build in progress (R335): the request it serves, the span slot, the rung, its source and its payer. -/
structure Build where
  id : Nat
  req : Nat
  slot : Nat
  gen : Nat
  rung : Nat
  src : Nat
  lift : Bool
  payer : Nat
  launch : Option Nat
  /-- BU-cycles charged so far (R338). -/
  cost : Nat
  failed : Option Nat
deriving DecidableEq, Repr

/-- One engine's part of a microprogram run (R310 to R313). -/
structure ProgPart where
  engine : Nat
  todo : List Nat
  xs : List (List Word)
  steps : Nat
  flags : Nat
  /-- The tick at which it began to serve ordinary requests alone (R313). -/
  window : Option Nat
deriving DecidableEq, Repr

/-- A microprogram run: its request, its micro-ops, the handles it holds as a writer, and its engines' parts. -/
structure Prog where
  req : Nat
  code : List Nat
  held : List Nat
  parts : List ProgPart
deriving DecidableEq, Repr

/-- What the handle unit keeps of a handle, by job (0 for a rung) and slot: the requests that hold a place in its order (R261), and
the release that its state carries: party, scope and past (R290). -/
structure HandleQ where
  job : Nat
  slot : Nat
  queue : List Nat
  rel : Option (Party × Nat × List Nat)
deriving DecidableEq, Repr

/-- A fault record under delivery (R377): its stage, the context it belongs to, and what its posting ends. -/
structure PRec where
  id : Nat
  record : FaultRec
  stage : Nat
  org : Origin
  /-- The `reply` of its launch record, and its phase (R377). -/
  reply : Nat
  phase : Nat
deriving DecidableEq, Repr

/-- The hub die. (assumption 127, DEDUCED, unsafe) -/
structure Hub where
  reqs : List Req
  nextId : Nat
  images : NMap Image
  badSlots : List (Nat × Nat)
  jobs : NMap Job
  launches : NMap Launch
  regions : NMap Region
  nextRegion : Nat
  pools : NMap Nat
  suspect : List Nat
  counters : NMap (BitVec 32 × Nat)
  /-- What the counts on each counter released (R356). -/
  cntRels : NMap (List (Party × Nat × List Nat))
  phaseQueues : List (Nat × Nat × List FaultRec)
  handleQs : List HandleQ
  progs : List Prog
  ceWin : Nat
  rungs : NMap Rung
  classes : NMap (List Byte)
  transforms : NMap (List Byte)
  pages : NMap Page
  builds : List Build
  /-- The armed copy of a transform's image for a payer's oasis (R325), by transform x 2^16 + job. -/
  xforms : NMap Nat
  parked : List Nat
  spanBase : Nat
  spanSize : Nat
  recs : List PRec
  epoch : Nat
  watermark : Option Nat
  /-- The banks whose capacity has been taken from free memory, and whether firmware has reported to the host that too little is free for
  one more (R279). -/
  dropped : Nat
  shortage : Bool
  /-- The walk cache that the walkers of each die share (R257). -/
  walkCaches : NMap (List WalkEnt)
deriving DecidableEq, Repr

/-! ### Host side -/

/-- The alarm actions of R408. -/
inductive AlarmAction where
  | log | erase
deriving DecidableEq, Repr

/-- The health record (R403): its facts, and the words the model holds of it. (assumption 6, DESIGN CHOICE, unsafe) -/
structure Health where
  modes : NMap Nat
  suspects : List Nat
  audits : List Nat
  alarms : Nat
deriving DecidableEq, Repr

/-- The host link, firmware, the clocks and the security root. -/
structure Outside where
  ready : Bool
  locked : Bool
  lanes : Nat
  /-- The clock is the root's, or timestamps from the root correct it (R405). -/
  synced : Bool
  qbase : Nat
  hbell : BitVec 16
  /-- The tail of the command queue as firmware last read it (R399). -/
  fwTail : Nat
  /-- The bells: from which count to which each announced commands, and the host's writes to device memory that were under way then
  (R399). -/
  bells : List (Nat × Nat × List Nat)
  /-- The command at the head is being carried out, and an alarm has met it: it writes no completion (R408). -/
  cmdBegun : Bool
  cmdMute : Bool
  linkFailed : Bool
  moduleId : Option Nat
  testMode : Bool
  alarmAct : Vector AlarmAction 4
  alarmCount : Nat
  timeRoot : Bool
  tick : Nat
  /-- The main clock in MHz (R10, R409). -/
  clockMHz : Nat
  health : Health
  keyErased : Bool
  /-- What firmware finds of the modules around (R404): in each four bytes a module and the link towards it. -/
  around : List Byte
  /-- The link towards each module that firmware found (R404). -/
  routeTable : NMap Nat
  /-- The flits that the receiver of a link still lets its sender send, when other than 32 (R404): link k for flits that come in, 16 + k
  for those that go out. -/
  peerWindows : NMap Nat
  /-- The host's last read of device memory (R397). -/
  lastRead : List Byte
deriving DecidableEq, Repr

/-! ### The model's own -/

/-- What happens next by the agenda: a step of the part or of the outside, or firmware serving the command at the head of
the host's queue (assumption 1, DESIGN CHOICE, unsafe). -/
inductive Turn where
  | event (i : Instr) (arg : Arg)
  | command
deriving DecidableEq, Repr

/-- The operation being executed: its bank unit, slot, slot order and element, the immediate of an `imm` before it, and the
operands that a `rep` before it steps (R32, R76). -/
structure Cursor where
  bu : Nat
  slot : Nat
  op : Nat
  elem : Nat
  immHi : Option (BitVec 32)
deriving DecidableEq, Repr

/-- The model's own fields. -/
structure Model where
  agenda : List Turn
  arg : Arg
  issueQ : List Cursor
  cur : Cursor
  freeCtr : Nat
  nextBu : Nat
deriving DecidableEq, Repr

end Sys2Proof.Machine

namespace Sys2Proof.Machine

/-- The KS4 module. -/
structure State where
  bus : NMap Bu
  net : Net
  ms : MemSys
  hub : Hub
  out : Outside
  my : Model
deriving DecidableEq, Repr

/-- Why a step could stop the machine. The manual describes every failure as a record, a report or a status, all of which are
next states of this model, so no meaning raises one. -/
inductive Fault where
  /-- No bank unit has the number a cursor names: raised by a step whose cursor names a bank unit that does not exist. Safe:
  no placed program has such a cursor. -/
  | noSuchUnit
deriving DecidableEq, Repr

/-- Why a step could be refused. -/
inductive Refusal where
  /-- The meaning of a row has not been written: raised by the dispatch arm of that row alone. Safe: nothing is claimed of
  the row. -/
  | notModelled (mnemonic : String)
  /-- Firmware or the bank unit read a word that is no instruction: raised by the step when it fetches a word that does not
  decode. Safe: arming rejects every such word (R36), so no armed program holds one. -/
  | notAnInstruction (word : Nat)
deriving DecidableEq, Repr

/-- The module right after reset (R243, R398, R401, R403): nothing armed, placed or running. (assumption 5, DESIGN CHOICE, unsafe) -/
def State.reset : State :=
  { bus := [], net := { flits := [], ctl := [], grants := [] },
    ms := { mem := [], base := [], pending := [], done := [], pasts := [], badWords := [], softWords := [], bars := [] },
    hub := { reqs := [], nextId := 1, images := [], badSlots := [], jobs := [], launches := [], regions := [], nextRegion := 0,
             pools := [], suspect := [], counters := [], cntRels := [], phaseQueues := [], handleQs := [], progs := [], ceWin := 64,
             rungs := [], classes := [], transforms := [], pages := [], builds := [], xforms := [], parked := [], spanBase := 0,
             spanSize := 0, recs := [], epoch := 0, watermark := none, dropped := 0, shortage := false, walkCaches := [] },
    out := { ready := false, locked := false, lanes := 0, synced := false, qbase := 0, hbell := 0, fwTail := 0,
             bells := [], cmdBegun := false, cmdMute := false,
             linkFailed := false, moduleId := none, testMode := false, alarmAct := Vector.replicate 4 .log, alarmCount := 0,
             timeRoot := false, tick := 0, clockMHz := 2250,
             health := { modes := [], suspects := [], audits := [], alarms := 0 }, keyErased := false,
             around := [], routeTable := [], peerWindows := [], lastRead := [] },
    my := { agenda := [], arg := Arg.zero, issueQ := [], cur := { bu := 0, slot := 0, op := 0, elem := 0, immHi := none }, freeCtr := 0,
            nextBu := 0 } }

end Sys2Proof.Machine
end

