-- ==== Sys2Proof/Machine/Maps.lean ====
section
/-!
DEFINITION. Operations over data by number and over memories. A memory keeps one canonical form: rising addresses, and no
cell equal to what an unlisted address reads as.
-/
namespace Sys2Proof.Machine

/-- The entry of a number. -/
def mapGet {α : Type} (k : Nat) : NMap α → Option α
  | [] => none
  | (j, v) :: rest => if k = j then some v else mapGet k rest

/-- The entry of a number, or a default. -/
def mapGetD {α : Type} (k : Nat) (m : NMap α) (d : α) : α := (mapGet k m).getD d

/-- The map with the entry of a number set, kept in rising order. -/
def mapSet {α : Type} (k : Nat) (v : α) : NMap α → NMap α
  | [] => [(k, v)]
  | (j, w) :: rest => if k < j then (k, v) :: (j, w) :: rest else if k = j then (k, v) :: rest else (j, w) :: mapSet k v rest

/-- The map without the entry of a number. -/
def mapDel {α : Type} (k : Nat) : NMap α → NMap α
  | [] => []
  | (j, w) :: rest => if k = j then rest else (j, w) :: mapDel k rest

/-- The map with the entry of a number changed, when there is one. -/
def mapMod {α : Type} (k : Nat) (f : α → α) : NMap α → NMap α
  | [] => []
  | (j, w) :: rest => if k = j then (j, f w) :: rest else (j, w) :: mapMod k f rest

/-- The lowest number at or above `k` that has no entry, by at most `fuel` tries. -/
def mapFree {α : Type} (fuel k : Nat) (m : NMap α) : Nat :=
  match fuel with
  | 0 => k
  | n + 1 => if (mapGet k m).isSome then mapFree n (k + 1) m else k

/-- What an unlisted address reads as (assumption 3, DESIGN CHOICE, unsafe). -/
def Memory.unlisted : Byte := 0

/-- One byte. -/
def Memory.read (a : Nat) : Memory → Byte
  | [] => Memory.unlisted
  | (j, b) :: rest => if a = j then b else if a < j then Memory.unlisted else Memory.read a rest

/-- The memory with one byte written, in canonical form. -/
def Memory.write (a : Nat) (b : Byte) : Memory → Memory
  | [] => if b = Memory.unlisted then [] else [(a, b)]
  | (j, c) :: rest =>
    if a < j then (if b = Memory.unlisted then (j, c) :: rest else (a, b) :: (j, c) :: rest)
    else if a = j then (if b = Memory.unlisted then rest else (a, b) :: rest)
    else (j, c) :: Memory.write a b rest

/-- Every address of a memory lies above a bound, in strictly rising order, and no cell is equal to an unlisted one. -/
def Memory.wfFrom (lo : Nat) : Memory → Bool
  | [] => true
  | (j, b) :: rest => lo ≤ j && b != Memory.unlisted && Memory.wfFrom (j + 1) rest

/-- The canonical form. -/
def Memory.wf (m : Memory) : Bool := Memory.wfFrom 0 m

/-- n bytes from an address. -/
def Memory.readBytes (m : Memory) (a : Nat) : Nat → List Byte
  | 0 => []
  | n + 1 => Memory.read a m :: Memory.readBytes m (a + 1) n

/-- Bytes written from an address. -/
def Memory.writeBytes (a : Nat) : List Byte → Memory → Memory
  | [], m => m
  | b :: rest, m => Memory.writeBytes (a + 1) rest (Memory.write a b m)

/-- n bytes from an address as a little-endian number (R137). -/
def Memory.readNat (m : Memory) (a n : Nat) : Nat := natOfBytes (m.readBytes a n)

/-- The memory without the cells of addresses lo to lo + n - 1. -/
def Memory.clear (lo n : Nat) (m : Memory) : Memory := m.filter (fun c => c.1 < lo || lo + n ≤ c.1)

/-- Byte k of a 64-byte line. -/
def lineByte (l : Line) (k : Nat) : Byte := BitVec.ofNat 8 (bitsOf l.toNat (8 * k) 8)

/-- A line's 64 bytes. -/
def lineBytes (l : Line) : List Byte := bytesOfNat 64 l.toNat

/-- A line of at most 64 bytes, zero above. -/
def lineOfBytes (bs : List Byte) : Line := BitVec.ofNat 512 (natOfBytes (bs.take 64))

/-- The items of a list with their positions from k. -/
def withIndex {α : Type} (k : Nat) : List α → List (Nat × α)
  | [] => []
  | a :: rest => (k, a) :: withIndex (k + 1) rest

/-- The list with item k changed. -/
def listMod {α : Type} (k : Nat) (f : α → α) : List α → List α
  | [] => []
  | a :: rest => match k with
    | 0 => f a :: rest
    | n + 1 => a :: listMod n f rest

/-- The list without item k. -/
def listDrop {α : Type} (k : Nat) : List α → List α
  | [] => []
  | a :: rest => match k with
    | 0 => rest
    | n + 1 => a :: listDrop n rest

/-- The numbers of a list joined with those of another, each once. -/
def joinNats (xs ys : List Nat) : List Nat := xs ++ ys.filter (fun y => !xs.contains y)

end Sys2Proof.Machine
end

