-- ==== Sys2Proof/Machine/Numeric.lean ====
section
/-!
DEFINITION. Number formats and the rules of arithmetic: exact values, decoding of every element type, `Round` with its flags
and overflow policies, nq4 and UE4M3, the stochastic generator, described blocks (R137 to R159).
-/
namespace Sys2Proof.Machine

/-! ### Exact rationals -/

/-- An exact rational: numerator and positive denominator. -/
structure Q where
  num : Int
  den : Nat
deriving DecidableEq, Repr

/-- A rational in lowest terms. -/
def Q.norm (n : Int) (d : Nat) : Q :=
  let g := Nat.gcd n.natAbs d
  if g ≤ 1 then ⟨n, d⟩ else ⟨n / (g : Int), d / g⟩

/-- An integer. -/
def Q.ofInt (i : Int) : Q := ⟨i, 1⟩
/-- Sum. -/
def Q.add (a b : Q) : Q :=
  if a.den = b.den then Q.norm (a.num + b.num) a.den else Q.norm (a.num * b.den + b.num * a.den) (a.den * b.den)
/-- Negation. -/
def Q.neg (a : Q) : Q := ⟨-a.num, a.den⟩
/-- Product. -/
def Q.mul (a b : Q) : Q := Q.norm (a.num * b.num) (a.den * b.den)
/-- Quotient; the divisor is not zero where it is used. -/
def Q.div (a b : Q) : Q :=
  if b.num < 0 then Q.norm (-(a.num * b.den)) (a.den * b.num.natAbs) else Q.norm (a.num * b.den) (a.den * b.num.natAbs)
/-- Absolute value. -/
def Q.abs (a : Q) : Q := ⟨(a.num.natAbs : Int), a.den⟩
/-- a < b. -/
def Q.lt (a b : Q) : Bool := a.num * b.den < b.num * a.den
/-- a ≤ b. -/
def Q.le (a b : Q) : Bool := a.num * b.den ≤ b.num * a.den
/-- Zero. -/
def Q.isZero (a : Q) : Bool := a.num == 0
/-- The greatest integer not above. -/
def Q.floor (a : Q) : Int := a.num / (a.den : Int)
/-- 2^e, for any integer e. -/
def Q.pow2 (e : Int) : Q := if 0 ≤ e then ⟨(2 ^ e.toNat : Nat), 1⟩ else ⟨1, 2 ^ (-e).toNat⟩
/-- a x 2^e. -/
def Q.scale (a : Q) (e : Int) : Q :=
  if 0 ≤ e then Q.norm (a.num * (2 ^ e.toNat : Nat)) a.den else Q.norm a.num (a.den * 2 ^ (-e).toNat)

/-- floor(log2 |a|) of a non-zero rational. -/
def Q.log2 (a : Q) : Int :=
  let n := a.num.natAbs
  let k : Int := (Nat.log2 n : Int) - (Nat.log2 a.den : Int)
  -- 2^k is within a factor of 2 of |a|: settle which side
  if Q.le (Q.pow2 k) a.abs then k else k - 1

/-! ### Values -/

/-- A real with the signed zeros, the infinities and NaN (R139). `neg` is the sign. -/
inductive Val where
  | nan
  | inf (neg : Bool)
  | zero (neg : Bool)
  | fin (q : Q)
deriving DecidableEq, Repr

/-- The value of a rational, with +0 for zero. -/
def Val.ofQ (q : Q) : Val := if q.isZero then .zero false else .fin q

/-- The value of an integer. -/
def Val.ofInt (i : Int) : Val := Val.ofQ (Q.ofInt i)

/-- The exact rational of a finite value. -/
def Val.q : Val → Q
  | .fin q => q
  | _ => ⟨0, 1⟩

/-- The sign of a value that has one. -/
def Val.isNeg : Val → Bool
  | .nan => false
  | .inf n => n
  | .zero n => n
  | .fin q => q.num < 0

/-- Negation; the sign of a NaN is not carried (R140). -/
def Val.neg : Val → Val
  | .nan => .nan
  | .inf n => .inf (!n)
  | .zero n => .zero (!n)
  | .fin q => .fin q.neg

end Sys2Proof.Machine

namespace Sys2Proof

/-- The parameters of a float type (R138): exponent width, fraction width, bias. -/
def Ty.fmt : Ty → Nat × Nat × Nat
  | .e4m3 => (4, 3, 7)
  | .e5m2 => (5, 2, 15)
  | .f16 => (5, 10, 15)
  | .bf16 => (8, 7, 127)
  | .f32 => (8, 23, 127)
  | .f64 => (11, 52, 1023)
  | _ => (0, 0, 0)

/-- The precision p of R138. -/
def Ty.prec (t : Ty) : Nat := t.fmt.2.1 + 1

/-- The exponent of the smallest normal value (R138): 1 - bias. -/
def Ty.emin (t : Ty) : Int := 1 - (t.fmt.2.2 : Int)

/-- The largest finite value of a float type (R138). -/
def Ty.maxVal (t : Ty) : Machine.Q :=
  match t with
  | .e4m3 => ⟨448, 1⟩
  | _ =>
    let (e, f, b) := t.fmt
    -- (2 - 2^-f) x 2^(emax)
    (Machine.Q.norm ((2 ^ (f + 1) - 1 : Nat)) (2 ^ f)).scale ((2 ^ e - 2 : Nat) - (b : Int))

/-- The canonical NaN (R138). -/
def Ty.nan (t : Ty) : Nat :=
  match t with
  | .f16 => 0x7E00 | .bf16 => 0x7FC0 | .f32 => 0x7FC00000 | .f64 => 0x7FF8000000000000 | .e4m3 => 0x7F | .e5m2 => 0x7E
  | _ => 0

/-- The range of an integer type (R137). -/
def Ty.range (t : Ty) : Int × Int :=
  if t.isSigned then (-((2 ^ (t.bits - 1) : Nat) : Int), ((2 ^ (t.bits - 1) : Nat) : Int) - 1)
  else (0, ((2 ^ t.bits : Nat) : Int) - 1)

end Sys2Proof

namespace Sys2Proof.Machine

/-- The value of a bit pattern of an integer or float type (R137, R139). -/
def valueOf (t : Ty) (bits : Nat) : Val :=
  if t.isInt then
    Val.ofInt (if t.isSigned then signedOf t.bits bits else ((bits % 2 ^ t.bits : Nat) : Int))
  else
    let (ew, fw, bias) := t.fmt
    let s := bitOf bits (ew + fw)
    let e := bitsOf bits fw ew
    let f := bitsOf bits 0 fw
    let sgn (q : Q) : Q := if s then q.neg else q
    if e = 0 then
      if f = 0 then .zero s else .fin (sgn ((Q.norm f (2 ^ fw)).scale t.emin))
    else if t = .e4m3 then
      if e = 15 && f = 7 then .nan else .fin (sgn ((Q.norm (8 + f : Nat) 8).scale ((e : Int) - bias)))
    else if e = 2 ^ ew - 1 then
      if f = 0 then .inf s else .nan
    else .fin (sgn ((Q.norm ((2 ^ fw + f : Nat)) (2 ^ fw)).scale ((e : Int) - bias)))

/-- The pattern of a value that a float type holds exactly, or of a zero, an infinity or NaN (R138, R139). -/
def patternOf (t : Ty) (v : Val) : Nat :=
  let (ew, fw, bias) := t.fmt
  let sgn (neg : Bool) : Nat := if neg then 2 ^ (ew + fw) else 0
  match v with
  | .nan => t.nan
  | .zero n => sgn n
  | .inf n => sgn n + (2 ^ ew - 1) * 2 ^ fw
  | .fin q =>
    if q.isZero then 0 else
    let e := max q.log2 t.emin
    -- |q| / 2^e in units of 2^-fw
    let m := ((q.abs.scale (-e)).scale fw).floor.toNat
    if m < 2 ^ fw then sgn (q.num < 0) + m
    else sgn (q.num < 0) + (e + bias).toNat * 2 ^ fw + (m - 2 ^ fw)

/-! ### Flags -/

/-- Bit numbers of the sticky flags (R93), as masks. -/
def fInv : Nat := 1
def fDz : Nat := 2
def fOf : Nat := 4
def fUf : Nat := 8
def fNx : Nat := 16
def fSro : Nat := 32
def fOob : Nat := 64
def fEmpty : Nat := 128

/-- The inclusive OR of flag sets. -/
def fOr (a b : Nat) : Nat := a ||| b

/-! ### Round (R151) -/

/-- What a rounding gives: the bit pattern, the flags it raises, and whether the TRAP policy applies. -/
structure Rounded where
  bits : Nat
  flags : Nat
  trap : Bool
deriving DecidableEq, Repr

/-- `Ovf(v, type)` under a policy (R152), with flags already raised. -/
def ovfResult (t : Ty) (neg : Bool) (pol : Ovf) (flags : Nat) : Rounded :=
  let sb := 2 ^ (t.bits - 1)
  if t.isInt then
    let (lo, hi) := t.range
    { bits := wrapNat t.bits (if neg then lo else hi), flags := flags, trap := pol == .trap }
  else
    let sgn := if neg then sb else 0
    let b :=
      match pol with
      | .sat | .trap => patternOf t (.fin (if neg then t.maxVal.neg else t.maxVal))
      | .inf => if t = .e4m3 then sgn + 0x7F else patternOf t (.inf neg)
      | .nan => t.nan
    { bits := b, flags := flags, trap := pol == .trap }

/-- The integer n that m rounds to: `rnd` is the draw when rounding is stochastic. -/
def roundInt (m : Q) (rm : Rm) (neg : Bool) (rnd : Option Nat) : Int :=
  let lo := m.floor
  match rnd with
  | some r => (Q.add m ⟨(r : Int), 65536⟩).floor
  | none =>
    let frac := Q.add m (Q.ofInt lo).neg
    let up := lo + 1
    match rm with
    | .rne =>
      if frac.isZero then lo
      else if Q.lt frac ⟨1, 2⟩ then lo
      else if Q.lt ⟨1, 2⟩ frac then up
      else if lo % 2 = 0 then lo else up
    | .rtz => lo
    | .rup => if frac.isZero || neg then lo else up
    | .rdn => if frac.isZero || !neg then lo else up

/-- `Round(v, type, rm, sr)` (R151) under an overflow policy; `rnd` is the draw of a stochastic rounding. (assumption 24, DEDUCED, unsafe) -/
def round (v : Val) (t : Ty) (rm : Rm) (rnd : Option Nat) (pol : Ovf) : Rounded :=
  match v with
  | .nan => if t.isInt then { bits := 0, flags := fInv, trap := false } else { bits := t.nan, flags := 0, trap := false }
  | .inf n =>
    if !t.isInt && t != .e4m3 then { bits := patternOf t (.inf n), flags := 0, trap := false }
    else ovfResult t n pol (fOf + fNx)
  | .zero n => { bits := if t.isInt then 0 else patternOf t (.zero n), flags := 0, trap := false }
  | .fin q =>
    if q.isZero then { bits := 0, flags := 0, trap := false } else
    let neg := decide (q.num < 0)
    let e : Int := if t.isInt then 0 else max q.log2 t.emin - (t.prec : Int) + 1
    let n := roundInt (q.abs.scale (-e)) rm neg rnd
    let absRes := (Q.ofInt n).scale e
    let res := if neg then absRes.neg else absRes
    let inRange (x : Q) : Bool :=
      if t.isInt then Q.le (Q.ofInt t.range.1) x && Q.le x (Q.ofInt t.range.2) else Q.le x.abs t.maxVal
    if !inRange res then
      ovfResult t neg pol (fOf + fNx + (if rnd.isSome && inRange q then fSro else 0))
    else
      let exact := decide (res = q)
      let tiny := !t.isInt && Q.lt q.abs (Q.pow2 t.emin)
      let flags := if exact then 0 else fNx + (if tiny then fUf else 0)
      { bits := if t.isInt then wrapNat t.bits res.floor
                else if res.isZero then patternOf t (.zero neg) else patternOf t (.fin res),
        flags := flags, trap := false }

/-! ### Arithmetic on values (R149, R150, R156) -/

/-- A result before rounding, with the flags its exact definition raises. -/
structure Exact where
  val : Val
  flags : Nat
deriving DecidableEq, Repr

/-- a x b: 0 x infinity is undefined (R150); a product of zeros has the exclusive OR of the signs (R156). -/
def mulVal (a b : Val) : Exact :=
  let s := xor a.isNeg b.isNeg
  match a, b with
  | .nan, _ => ⟨.nan, 0⟩
  | _, .nan => ⟨.nan, 0⟩
  | .inf _, .zero _ => ⟨.nan, fInv⟩
  | .zero _, .inf _ => ⟨.nan, fInv⟩
  | .inf _, _ => ⟨.inf s, 0⟩
  | _, .inf _ => ⟨.inf s, 0⟩
  | .zero _, _ => ⟨.zero s, 0⟩
  | _, .zero _ => ⟨.zero s, 0⟩
  | .fin p, .fin q => ⟨.fin (Q.mul p q), 0⟩

/-- The exact sum of addends (R150, R156, R157): NaN first, then the infinities, then the finite sum; an exact zero is +0,
or -0 when every addend is -0 or the mode is RDN. -/
def sumVals (xs : List Val) (rdn : Bool) : Exact :=
  if xs.any (· == .nan) then ⟨.nan, 0⟩
  else
    let pos := xs.any (· == .inf false)
    let neg := xs.any (· == .inf true)
    if pos && neg then ⟨.nan, fInv⟩
    else if pos then ⟨.inf false, 0⟩
    else if neg then ⟨.inf true, 0⟩
    else
      let s := xs.foldl (fun acc v => Q.add acc v.q) ⟨0, 1⟩
      if s.isZero then ⟨.zero (rdn || xs.all (· == .zero true)), 0⟩ else ⟨.fin s, 0⟩

/-- a + b. -/
def addVal (a b : Val) (rdn : Bool) : Exact := sumVals [a, b] rdn

/-- a / b for the scale divisions of R153 and R197: x/0 is an infinity with `dz`, 0/0 is NaN with `inv`. -/
def divVal (a b : Val) : Exact :=
  let s := xor a.isNeg b.isNeg
  match a, b with
  | .nan, _ => ⟨.nan, 0⟩
  | _, .nan => ⟨.nan, 0⟩
  | .inf _, .inf _ => ⟨.nan, fInv⟩
  | .zero _, .zero _ => ⟨.nan, fInv⟩
  | .inf _, _ => ⟨.inf s, 0⟩
  | _, .inf _ => ⟨.zero s, 0⟩
  | .fin _, .zero _ => ⟨.inf s, fDz⟩
  | .zero _, _ => ⟨.zero s, 0⟩
  | .fin p, .fin q => ⟨.fin (Q.div p q), 0⟩

/-- a ≤ b for values that are not NaN, with -0 below +0 when `signedZeros` is set (R167, R170). -/
def leVal (signedZeros : Bool) (a b : Val) : Bool :=
  match a, b with
  | .nan, _ => false
  | _, .nan => false
  | .inf true, _ => true
  | _, .inf false => true
  | .inf false, _ => false
  | _, .inf true => false
  | .zero x, .zero y => if signedZeros then x || !y else true
  | a, b => Q.le a.q b.q

/-! ### UE4M3 and nq4 (R142 to R144, R153) -/

/-- A UE4M3 byte's scale; none where R142 rejects it. -/
def ue4m3 (b : Nat) : Option Q :=
  if 0x80 ≤ b || b = 0x7F then none
  else
    let e := bitsOf b 3 4
    let m := bitsOf b 0 3
    if e = 0 then some ((Q.norm m 8).scale (-6)) else some ((Q.norm (8 + m : Nat) 8).scale ((e : Int) - 7))

/-- The magnitude of an nq4 level in units of 1/256, by how far the code lies from the middle (R143). -/
def nq4Mag : Nat → Nat
  | 0 => 11 | 1 => 33 | 2 => 55 | 3 => 80 | 4 => 107 | 5 => 139 | 6 => 181 | _ => 256

/-- The level of an nq4 code (R143). -/
def nq4Level (c : Nat) : Q :=
  if 8 ≤ c then Q.norm (nq4Mag (c - 8) : Nat) 256 else (Q.norm (nq4Mag (7 - c) : Nat) 256).neg

/-- The code of the k-th magnitude with a sign. -/
def nq4Code (k : Nat) (neg : Bool) : Nat := if neg then 7 - k else 8 + k

/-- The largest k in 0..7 whose magnitude does not exceed |u|; none below the smallest level. -/
def nq4Below (u : Q) : Option Nat :=
  [7, 6, 5, 4, 3, 2, 1, 0].find? (fun k => Q.le (Q.norm (nq4Mag k : Nat) 256) u)

/-- An nq4 rounding (R153): the code, the flags, a TRAP overflow, and whether the rounding calls for NaN (R144). -/
structure NqRounded where
  code : Nat
  flags : Nat
  trap : Bool
  nan : Bool
deriving DecidableEq, Repr

/-- Rounding to nq4 of the exact u of R153. -/
def roundNq4 (u : Val) (rm : Rm) (rnd : Option Nat) (pol : Ovf) : NqRounded :=
  let beyond (neg : Bool) : NqRounded :=
    match pol with
    | .sat => ⟨if neg then 0 else 15, fOf + fNx, false, false⟩
    | .inf | .nan => ⟨8, fOf + fNx, false, true⟩
    | .trap => ⟨8, fOf, true, false⟩
  match u with
  | .nan => ⟨8, 0, false, true⟩
  | .zero neg => ⟨if neg then 7 else 8, 0, false, false⟩
  | .inf neg => beyond neg
  | .fin q =>
    let neg := decide (q.num < 0)
    let a := q.abs
    if Q.lt ⟨1, 1⟩ a then beyond neg
    else
      let below := nq4Below a
      let mag (k : Nat) : Q := Q.norm (nq4Mag k : Nat) 256
      let code : Nat :=
        match rnd with
        | some d =>
          match below with
          | none => if neg then 7 else 8
          | some 7 => nq4Code 7 neg
          | some k =>
            let t := Q.div (Q.add a (mag k).neg) (Q.add (mag (k + 1)) (mag k).neg)
            if Q.le ⟨1, 1⟩ (Q.add t ⟨(d : Int), 65536⟩) then nq4Code (k + 1) neg else nq4Code k neg
        | none =>
          match rm with
          | .rne =>
            -- the nearest of the sixteen levels; a tie goes to the even code
            match below with
            | none => nq4Code 0 neg
            | some 7 => nq4Code 7 neg
            | some k =>
              let dl := Q.add a (mag k).neg
              let du := Q.add (mag (k + 1)) a.neg
              let cl := nq4Code k neg
              let cu := nq4Code (k + 1) neg
              if Q.lt dl du then cl else if Q.lt du dl then cu else if cl % 2 = 0 then cl else cu
          | .rtz => nq4Code (below.getD 0) neg
          | .rup =>
            -- the smallest level not below u
            match below, neg with
            | none, false => 8
            | none, true => 8
            | some k, true => nq4Code k true
            | some k, false => if decide (mag k = a) then nq4Code k false else nq4Code (k + 1) false
          | .rdn =>
            match below, neg with
            | none, false => 7
            | none, true => 7
            | some k, false => nq4Code k false
            | some k, true => if decide (mag k = a) then nq4Code k true else nq4Code (k + 1) true
      let exact := decide (nq4Level code = q)
      ⟨code, (if exact then 0 else fNx) + (if below.isNone then fUf else 0), false, false⟩

/-- An nq4 weight: level x s64 x S256 (R144), with the flag of an infinite S256 at a zero scale. -/
def nq4Weight (c : Nat) (s64 : Q) (s256 : Val) : Exact :=
  match s256 with
  | .nan => ⟨.nan, 0⟩
  | .inf n => if s64.isZero then ⟨.nan, fInv⟩ else ⟨.inf (xor n (c < 8)), 0⟩
  | _ => mulVal (.fin (nq4Level c)) (mulVal (Val.ofQ s64) s256).val

/-! ### The stochastic generator (R154) -/

/-- One advance of the xorshift state. -/
def rngNext (x : Word) : Word :=
  let x := x ^^^ (x <<< 13)
  let x := x ^^^ (x >>> 7)
  x ^^^ (x <<< 17)

/-- The draw of a state (R154): its bits [63:48]. -/
def rngDraw (x : Word) : Nat := bitsOf x.toNat 48 16

/-! ### Described blocks (R145 to R148) -/

/-- The element type and the block length of a format code, superblocks apart (R145). -/
def fmtOf (code : Nat) : Option (Ty × Nat) :=
  match code with
  | 0x11 => some (.i8, 66)
  | 0x12 => some (.i16, 130)
  | 0x21 => some (.e4m3, 66)
  | 0x22 => some (.e5m2, 66)
  | 0x31 => some (.bf16, 130)
  | 0x32 => some (.f16, 130)
  | 0x41 => some (.f32, 258)
  | 0x51 => some (.nq4, 34)
  | _ => none

/-- Whether a format code's scale byte must be 0x38 (R145). -/
def fmtUnscaled (code : Nat) : Bool := code = 0x12 || code = 0x31 || code = 0x32 || code = 0x41

/-- A FORMAT fault (R148): the offending byte, the reason, and the offset of the block from the first byte read. -/
structure FormatErr where
  byte : Nat
  reason : Nat
  at_ : Nat
deriving DecidableEq, Repr

/-- The check of one block's two header bytes, outside a superblock (R148). -/
def checkBlockHeader (b0 b1 at_ : Nat) : Option FormatErr :=
  match fmtOf b0 with
  | none => some ⟨b0, 1, at_⟩
  | some _ =>
    if b0 = 0x51 then some ⟨b0, 3, at_⟩
    else if fmtUnscaled b0 then (if b1 = 0x38 then none else some ⟨b1, 2, at_⟩)
    else if (ue4m3 b1).isSome then none else some ⟨b1, 2, at_⟩

/-- The check of an inner position of a superblock: it must be a 0x51 block with a good scale (R146, R148). -/
def checkInner (b0 b1 at_ : Nat) : Option FormatErr :=
  if b0 = 0x51 then (if (ue4m3 b1).isSome then none else some ⟨b1, 2, at_⟩)
  else if (fmtOf b0).isSome || b0 = 0x5F then some ⟨b0, 3, at_⟩ else some ⟨b0, 1, at_⟩

/-- The check of the described block that starts at an address, by its bytes (R148). -/
def checkBlock (bs : List Byte) (addr : Nat) : Option FormatErr :=
  let b (k : Nat) : Nat := (bs.getD k 0).toNat
  if addr % 2 ≠ 0 then some ⟨b 0, 5, 0⟩
  else if b 0 = 0x5F then
    if addr % 8 ≠ 0 then some ⟨b 0, 5, 0⟩
    else if b 1 ≠ 0 then some ⟨b 1, 4, 0⟩
    else if b 2 ≠ 0 then some ⟨b 2, 4, 0⟩
    else if b 3 ≠ 0 then some ⟨b 3, 4, 0⟩
    else
      match checkInner (b 8) (b 9) 8, checkInner (b 42) (b 43) 42, checkInner (b 76) (b 77) 76, checkInner (b 110) (b 111) 110
      with
      | some e, _, _, _ => some e
      | none, some e, _, _ => some e
      | none, none, some e, _ => some e
      | none, none, none, e => e
  else checkBlockHeader (b 0) (b 1) 0

/-- The bytes that a block's first byte makes the reader read: 144 for a superblock, else the block's length; a byte that is no
format is read alone (R145, R196). (assumption 26, DEDUCED, unsafe) -/
def blockLen (b0 : Nat) : Nat := if b0 = 0x5F then 144 else match fmtOf b0 with | some (_, n) => n | none => 1

/-- The elements of the block that a first byte starts (R196). -/
def blockCount (b0 : Nat) : Nat := if b0 = 0x5F then 256 else 64

/-- Element e of a described block or superblock that passed its check (R144, R147). -/
def blockElem (bs : List Byte) (e : Nat) : Exact :=
  let b (k : Nat) : Nat := (bs.getD k 0).toNat
  if b 0 = 0x5F then
    let s256 := valueOf .f32 (natOfBytes ((bs.drop 4).take 4))
    let p := 8 + 34 * (e / 64)
    let s64 := (ue4m3 (b (p + 1))).getD ⟨0, 1⟩
    let byte := b (p + 2 + (e % 64) / 2)
    nq4Weight (if e % 2 = 0 then byte % 16 else byte / 16) s64 s256
  else
    match fmtOf (b 0) with
    | none => ⟨.zero false, 0⟩
    | some (t, _) =>
      let v := valueOf t (natOfBytes ((bs.drop (2 + e * t.bytes)).take t.bytes))
      if fmtUnscaled (b 0) then ⟨v, 0⟩
      else mulVal v (Val.ofQ ((ue4m3 (b 1)).getD ⟨0, 1⟩))

end Sys2Proof.Machine
end

