-- ==== Sys2Proof/Machine/Ops.lean ====
section
/-!
DEFINITION. The named operations over the state: bank units and contexts, the frames of an armed image, route entries, bank
areas and rings, parties and their order of writes, fault records and the taking of a fault (R24, R66, R85, R118 to R120, R184,
R207, R283 to R289, R373, R377).
-/
namespace Sys2Proof.Machine

/-! ### Fault codes (R374) -/

/-- The fault codes that the meanings raise, by name. -/
inductive Code where
  | empty | exit | stack | noblock | repeat_ | trap | brk | flag | hfault | overflow | poison | rate | format | loop | mxToken
  | testMode | nonrep | bankRange | bankAlign | bankEcc | cfgEcc | devRange | devAlign | xlateMiss | xlateBad | xlatePerm
  | handle | handleKind | handleArg | handleFull | handleShape | handleRange | atomKind | ceArg | ceProg | barState | cntRange
  | rnsCorr | rnsUnc | rnsRange | rnsGuard | rnsRetired | tokenChk | arithChk | hang | voteUnresolved | voteSuspect | name
  | ladderFull | ladderXform | ladderOasis | ladderSpace | ladderOwner | ladderClass | ladderBudget | ladderState | ladderArg
  | ladderPinned | recallDead | recallBusy | kvEcc | kvSoft | kvChain | pageDying | ladderAudit | jobStart | launchSize
  | launchBad | launchImage | launchPhase | launchSave | cancelArg | gangLate | gangSkew | cancelled | jobEnd
deriving DecidableEq, Repr

/-- The number of a fault code (R374). -/
def Code.num : Code → Nat
  | .empty => 0x01 | .exit => 0x02 | .stack => 0x03 | .noblock => 0x04 | .repeat_ => 0x05 | .trap => 0x06 | .brk => 0x07
  | .flag => 0x08 | .hfault => 0x09 | .overflow => 0x0A | .poison => 0x0B | .rate => 0x0C | .format => 0x0D | .loop => 0x0E
  | .mxToken => 0x0F | .testMode => 0x10 | .nonrep => 0x11 | .bankRange => 0x20 | .bankAlign => 0x21 | .bankEcc => 0x22
  | .cfgEcc => 0x23 | .devRange => 0x24 | .devAlign => 0x25 | .xlateMiss => 0x26 | .xlateBad => 0x27 | .xlatePerm => 0x28
  | .handle => 0x29 | .handleKind => 0x2A | .handleArg => 0x2B | .handleFull => 0x2C | .handleShape => 0x2D
  | .handleRange => 0x2E | .atomKind => 0x2F | .ceArg => 0x30 | .ceProg => 0x31 | .barState => 0x32 | .cntRange => 0x33
  | .rnsCorr => 0x38 | .rnsUnc => 0x39 | .rnsRange => 0x3A | .rnsGuard => 0x3B | .rnsRetired => 0x3C | .tokenChk => 0x40
  | .arithChk => 0x41 | .hang => 0x42 | .voteUnresolved => 0x43 | .voteSuspect => 0x44 | .name => 0x50 | .ladderFull => 0x51
  | .ladderXform => 0x52 | .ladderOasis => 0x53 | .ladderSpace => 0x54 | .ladderOwner => 0x55 | .ladderClass => 0x56
  | .ladderBudget => 0x57 | .ladderState => 0x58 | .ladderArg => 0x59 | .ladderPinned => 0x5A | .recallDead => 0x5B
  | .recallBusy => 0x5C | .kvEcc => 0x5D | .kvSoft => 0x5E | .kvChain => 0x5F | .pageDying => 0x60 | .ladderAudit => 0x61
  | .jobStart => 0x70 | .launchSize => 0x71 | .launchBad => 0x72 | .launchImage => 0x73 | .launchPhase => 0x74
  | .launchSave => 0x75 | .cancelArg => 0x76 | .gangLate => 0x77 | .gangSkew => 0x78 | .cancelled => 0x79 | .jobEnd => 0x7A

/-- What a synchronous fault records beside its place (R373). -/
structure Flt where
  code : Code
  address : Nat
  extra : Nat
deriving DecidableEq, Repr

/-! ### Bank units and contexts -/

/-- The absolute number of a bank unit: its order is by die, then y, then x, the tie order of R260. -/
def buNum (die x y : Nat) : Nat := (die * 64 + y) * 96 + x
/-- The die of a bank unit. -/
def buDie (n : Nat) : Nat := n / 6144
/-- Its row. -/
def buY (n : Nat) : Nat := (n / 96) % 64
/-- Its column. -/
def buX (n : Nat) : Nat := n % 96
/-- Its global column (R108). -/
def buCol (n : Nat) : Nat := 96 * buDie n + buX n
/-- The bank unit of a global column and row. -/
def buAt (col y : Nat) : Nat := buNum (col / 96) (col % 96) y
/-- The bank unit beside the hub port that a bank unit reaches the hub by (R8): of the row y = 63 at x = 3i + 1 of its die, the
nearest. The way there is no state (assumption 149, DESIGN CHOICE, safe). -/
def hubPort (n : Nat) : Nat := buNum (buDie n) (3 * (buX n / 3) + 1) 63

/-- A bank unit. -/
def State.bu (s : State) (n : Nat) : Bu := mapGetD n s.bus Bu.reset
/-- The state with a bank unit set. -/
def State.setBu (s : State) (n : Nat) (b : Bu) : State := { s with bus := mapSet n b s.bus }
/-- The state with a bank unit changed. -/
def State.modBu (s : State) (n : Nat) (f : Bu → Bu) : State := s.setBu n (f (s.bu n))

/-- Slot k of a bank unit; slot H is 4. -/
def Bu.ctx (b : Bu) (k : Nat) : Ctx := b.ctxs[Fin.ofNat 5 k]
/-- The bank unit with a slot set. -/
def Bu.setCtx (b : Bu) (k : Nat) (c : Ctx) : Bu := { b with ctxs := b.ctxs.set (Fin.ofNat 5 k) c }
/-- The bank unit with a slot changed. -/
def Bu.modCtx (b : Bu) (k : Nat) (f : Ctx → Ctx) : Bu := b.setCtx k (f (b.ctx k))
/-- A slot of a bank unit. -/
def State.ctx (s : State) (n k : Nat) : Ctx := (s.bu n).ctx k
/-- The state with a slot changed. -/
def State.modCtx (s : State) (n k : Nat) (f : Ctx → Ctx) : State := s.modBu n (fun b => b.modCtx k f)
/-- The state with the hub changed. -/
def State.modHub (s : State) (f : Hub → Hub) : State := { s with hub := f s.hub }
/-- The first of k new numbers. -/
def State.freshFor (s : State) (k : Nat) : Nat × State := (s.hub.nextId, s.modHub (fun h => { h with nextId := h.nextId + k }))
/-- A new number for a request, a write, a flit or a record. -/
def State.fresh (s : State) : Nat × State := s.freshFor 1
/-- The running block of a slot changed. -/
def State.modBlk (s : State) (n k : Nat) (f : Blk → Blk) : State := s.modCtx n k (fun c => { c with blk := f c.blk })
/-- The register state of a slot changed. -/
def Ctx.modRegs (c : Ctx) (f : Regs → Regs) : Ctx := { c with regs := f c.regs }

/-! ### Regions and armed images -/

/-- The region placed on a bank unit. -/
def State.regionOf (s : State) (n : Nat) : Option Region := (s.bu n).region.bind (fun r => mapGet r s.hub.regions)
/-- An armed image. -/
def State.image (s : State) (id : Nat) : Option Image := mapGet id s.hub.images
/-- The image of the region placed on a bank unit. -/
def State.imageOf (s : State) (n : Nat) : Option Image := (s.regionOf n).bind (fun r => s.image r.image)
/-- A region changed. -/
def State.modRegion (s : State) (id : Nat) (f : Region → Region) : State :=
  s.modHub (fun h => { h with regions := mapMod id f h.regions })
/-- The job of a bank unit's region, 0 when there is none. -/
def State.jobOf (s : State) (n : Nat) : Nat := match s.regionOf n with | some r => r.job | none => 0

/-- Slot k of frame i of a layout, at an offset (and context slot for layout A); zero when no entry loads it (R24). -/
def Image.frameWord (im : Image) (layout die x y slot i k : Nat) : Nat :=
  match im.frames.find? (fun f => f.layout == layout && f.die == die && f.x == x && f.y == y &&
      (layout != 4 || f.slot == slot) && f.first ≤ i && i < f.first + f.words.length / 4) with
  | some f => (f.words.getD (4 * (i - f.first) + k) 0).toNat
  | none => 0

/-- M slot of a bank unit's image. -/
def State.mSlot (s : State) (n i k : Nat) : Nat :=
  match s.imageOf n with
  | some im => let b := s.bu n; im.frameWord 2 b.offDie b.offX b.offY 0 i k
  | none => 0

/-- Word w of the program of stream st of a slot (R267). -/
def State.strmWord (s : State) (n slot st w : Nat) : Nat :=
  match s.imageOf n with
  | some im => let b := s.bu n; im.frameWord 4 b.offDie b.offX b.offY slot (4 * st + w / 4) (w % 4)
  | none => 0

/-- Constant k of a bank unit (R24); constant 31 is `mx.cfg` (R206). -/
def State.const (s : State) (n k : Nat) : Nat := s.mSlot n (8 + k / 4) (k % 4)

/-- The blocks of an image at an offset. -/
def Image.blocksAt (im : Image) (die x y slot : Nat) (handler : Bool) : List Block :=
  im.blocks.filter (fun b => b.die == die && b.x == x && b.y == y && b.handler == handler && (handler || b.slot == slot))

/-- A block of a slot of a bank unit, by id; slot H holds the handler blocks. -/
def State.block (s : State) (n slot id : Nat) : Option Block :=
  match s.imageOf n with
  | some im =>
    let b := s.bu n
    (im.blocksAt b.offDie b.offX b.offY slot (slot == 4)).find? (fun k => k.id == id)
  | none => none

/-- Whether a slot of a bank unit is in use: the image holds a block for it (R53). -/
def State.slotUsed (s : State) (n slot : Nat) : Bool :=
  match s.imageOf n with
  | some im => let b := s.bu n; !(im.blocksAt b.offDie b.offX b.offY slot (slot == 4)).isEmpty
  | none => false

/-- Whether the bank unit holds handler blocks. -/
def State.hasHandler (s : State) (n : Nat) : Bool := s.slotUsed n 4

/-- The granule of a module: (die x 16 + gy) x 24 + gx. -/
def granuleNum (die gx gy : Nat) : Nat := (die * 16 + gy) * 24 + gx
/-- The granule that holds a bank unit. -/
def granuleOf (n : Nat) : Nat := granuleNum (buDie n) (buX n / 4) (buY n / 4)

/-- The bank unit at an offset of a placed region. -/
def Place.bu (p : Place) (die x y : Nat) : Nat := buNum (p.die + die) (4 * p.gx + x) (4 * p.gy + y)

/-- The offsets of a box, in die, y, x order. -/
def boxOffsets (dies width height : Nat) : List (Nat × Nat × Nat) :=
  (List.range dies).flatMap (fun d => (List.range (4 * height)).flatMap (fun y =>
    (List.range (4 * width)).map (fun x => (d, x, y))))

/-- The bank units that a placed region covers, in die, y, x order. -/
def State.regionBus (s : State) (r : Region) : List Nat :=
  match r.place, s.image r.image with
  | some p, some im => (boxOffsets im.dies im.width im.height).map (fun o => p.bu o.1 o.2.1 o.2.2)
  | _, _ => []

/-- The bank unit of a region at an offset given as die, x, y. -/
def State.regionBu (s : State) (rid die x y : Nat) : Option Nat :=
  (mapGet rid s.hub.regions).bind (fun r => r.place.map (fun p => p.bu die x y))

/-! ### Route entries (R118 to R120) -/

/-- A route entry, decoded. -/
inductive Route where
  | none
  | oper (op ina inb ctl outt outf : Nat)
  | send (route die x y : Nat) (toop : Bool) (slot qi form fmt cap : Nat) (isOper : Bool) (pslot qo : Nat)
  | recv (route slot qi form fmt cap : Nat) (rate : Bool)
  | ext (set kp ki period imax : Nat)
  | bad (op : Nat)
deriving DecidableEq, Repr

/-- The route entry of a word. -/
def decodeRoute (w : Nat) : Route :=
  let op := bitsOf w 60 4
  if w = 0 then .none
  else if op = 0 then .bad 0
  else if op ≤ 7 then .oper op (bitsOf w 48 12) (bitsOf w 36 12) (bitsOf w 24 12) (bitsOf w 12 12) (bitsOf w 0 12)
  else if op = 8 then
    .send (bitsOf w 48 12) (bitsOf w 46 2) (bitsOf w 39 7) (bitsOf w 33 6) (bitOf w 32) (bitsOf w 30 2) (bitsOf w 26 4)
      (bitsOf w 24 2) (bitsOf w 16 8) (bitsOf w 8 8 + 1) (bitOf w 7) (bitsOf w 5 2) (bitsOf w 1 4)
  else if op = 9 then
    .recv (bitsOf w 48 12) (bitsOf w 46 2) (bitsOf w 42 4) (bitsOf w 40 2) (bitsOf w 32 8) (bitsOf w 24 8 + 1) (bitOf w 23)
  else if op = 10 then
    .ext (bitsOf w 52 8) (bitsOf w 44 8) (bitsOf w 36 8) (bitsOf w 20 16) (bitsOf w 8 12)
  else .bad op

/-- The route entries of an offset of an image that are not empty, with their numbers, in entry order. -/
def Image.routesAt (im : Image) (die x y : Nat) : List (Nat × Route) :=
  (im.frames.filter (fun f => f.layout == 3 && f.die == die && f.x == x && f.y == y)).flatMap (fun f =>
    (withIndex (4 * f.first) f.words).filterMap (fun w =>
      match decodeRoute w.2.toNat with
      | .none => none
      | r => some (w.1, r)))

/-- The route entries of a bank unit. -/
def State.routes (s : State) (n : Nat) : List (Nat × Route) :=
  match s.imageOf n with
  | some im => let b := s.bu n; im.routesAt b.offDie b.offX b.offY
  | none => []

/-- The receive entry of a QI: its number, route, form, format and capacity, and whether it is controlled. -/
structure QiEnt where
  entry : Nat
  route : Nat
  form : Nat
  fmt : Nat
  cap : Nat
  rate : Bool
deriving DecidableEq, Repr

/-- The receive entry of QI k of a slot, among a bank unit's entries. -/
def qiOf (rs : List (Nat × Route)) (slot k : Nat) : Option QiEnt :=
  rs.findSome? (fun e => match e.2 with
    | .recv r sl q form fmt cap rate => if sl = slot && q = k then some ⟨e.1, r, form, fmt, cap, rate⟩ else none
    | _ => none)

/-- A send entry: where it delivers to. -/
structure SendEnt where
  entry : Nat
  route : Nat
  die : Nat
  x : Nat
  y : Nat
  toop : Bool
  slot : Nat
  qi : Nat
  form : Nat
  fmt : Nat
  cap : Nat
deriving DecidableEq, Repr

/-- The send entries of QO k of a slot, the primary first (R119). -/
def qoOf (rs : List (Nat × Route)) (slot k : Nat) : List SendEnt :=
  rs.filterMap (fun e => match e.2 with
    | .send r d x y toop sl qi form fmt cap false ps qo =>
      if ps = slot && qo = k then some ⟨e.1, r, d, x, y, toop, sl, qi, form, fmt, cap⟩ else none
    | _ => none)

/-- The send entries of an operator output that names a route. -/
def outOf (rs : List (Nat × Route)) (route : Nat) : List SendEnt :=
  rs.filterMap (fun e => match e.2 with
    | .send r d x y toop sl qi form fmt cap true _ _ =>
      if r = route then some ⟨e.1, r, d, x, y, toop, sl, qi, form, fmt, cap⟩ else none
    | _ => none)

/-- The tokens that stand in a bank unit's queue of a receive entry. -/
def Bu.queue (b : Bu) (entry : Nat) : List Token := mapGetD entry b.queues []

/-- The tokens of QI k of a slot, and its entry. -/
def State.qiTokens (s : State) (n slot k : Nat) : Option (QiEnt × List Token) :=
  (qiOf (s.routes n) slot k).map (fun e => (e, (s.bu n).queue e.entry))

/-- The credits left of a send entry (R125): at placement the capacity. -/
def Bu.credit (b : Bu) (e : SendEnt) : Nat := mapGetD e.entry b.credits e.cap

/-- The room of a channel's producer end (R125): the smallest credit count over its consumers. -/
def Bu.room (b : Bu) (es : List SendEnt) : Nat :=
  match es with
  | [] => 0
  | e :: rest => rest.foldl (fun m x => min m (b.credit x)) (b.credit e)

/-- The residue of a payload (R122): the sum of its 32-bit words modulo 15. -/
def residue15 (p : Line) : Nat := p.toNat % 15

/-- The 32-bit sideband of a token (R122). -/
def Token.sideband (t : Token) : Nat :=
  (match t.kind with | .data => 0 | .marker => 1 | .control => 2 | .poison => 3) +
    t.round * 2 ^ 2 + t.res * 2 ^ 14 + t.route * 2 ^ 18 + (if t.last then 2 ^ 30 else 0) + (if t.bit31 then 2 ^ 31 else 0)

/-- A token of a route with its residue set. -/
def mkToken (kind : TKind) (round route : Nat) (payload : Line) (last : Bool) : Token :=
  { kind := kind, round := round, res := residue15 payload, route := route, last := last, bit31 := false,
    payload := payload, rel := [] }

/-- Round p is later than round q (R126). -/
def later (p q : Nat) : Bool := let d := (p + 4096 - q % 4096) % 4096; 1 ≤ d && d ≤ 2047

/-- A pop finds its queue at a boundary at this token (R126). -/
def Token.isBoundary (t : Token) (round : Nat) : Bool := t.kind == .marker || later t.round round

/-! ### Bank areas (R184 to R188) and rings (R207) -/

/-- The base line and size of a descriptor (R185). -/
def descBase (w : Nat) : Nat := bitsOf w 0 11
/-- Its size field. -/
def descSize (w : Nat) : Nat := bitsOf w 16 11

/-- The window descriptor of a slot (R184). -/
def State.windowDesc (s : State) (n slot : Nat) : Nat := if slot = 4 then s.mSlot n 1 0 else s.mSlot n 0 slot

/-- First byte and size in bytes of a slot's window. -/
def State.window (s : State) (n slot : Nat) : Nat × Nat :=
  let d := s.windowDesc n slot; (64 * descBase d, 64 * descSize d)

/-- Whether an access of a window is in range (R188). -/
def inRange (win : Nat × Nat) (off len : Nat) : Bool := off + len ≤ win.2

/-- The base line and the entries of ring k of a context (R184, R207). -/
def State.ring (s : State) (n slot k : Nat) : Nat × Nat :=
  let d := s.mSlot n (2 + slot) k; (descBase d, descSize d)

/-- The first byte of ring entry e. -/
def ringEntryAddr (base e : Nat) : Nat := 64 * (base + 9 * (e / 8) + e % 8)
/-- The first byte of its sideband. -/
def ringSbAddr (base e : Nat) : Nat := 64 * (base + 9 * (e / 8) + 8) + 8 * (e % 8)

/-- The raw sideband (R209). -/
def rawSideband : Word := 0x00003F8000000038

/-! ### Parties, pasts and the order of writes (R282 to R289) -/

/-- The past of a party: the numbers of the writes in it (R286). -/
def MemSys.past (m : MemSys) (p : Party) : List Nat := ((m.pasts.find? (fun e => e.1 == p)).map (·.2)).getD []

/-- The past of a party joined with writes. -/
def MemSys.join (m : MemSys) (p : Party) (ws : List Nat) : MemSys :=
  if ws.isEmpty then m
  else if m.pasts.any (fun e => e.1 == p) then
    { m with pasts := m.pasts.map (fun e => if e.1 == p then (p, joinNats e.2 ws) else e) }
  else { m with pasts := m.pasts ++ [(p, ws)] }

/-- The n numbers from id on. -/
def idSpan (id n : Nat) : List Nat := (List.range n).map (id + ·)

/-- Whether a write covers a byte. -/
def Write.covers (w : Write) (key : Nat) : Bool := w.key ≤ key && key < w.key + w.bytes.length

/-- The number of a write at a byte that it covers: each of its bytes is a write to a location of its own (R282, R285). -/
def Write.idAt (w : Write) (key : Nat) : Nat := w.id + (key - w.key)

/-- The numbers of a write at all its bytes. -/
def Write.ids (w : Write) : List Nat := idSpan w.id w.bytes.length

/-- A write's byte at a key it covers. -/
def Write.byteAt (w : Write) (key : Nat) : Byte := w.bytes.getD (key - w.key) 0

/-- The writes to a byte, performed or on their way, that a past holds. -/
def MemSys.among (m : MemSys) (past : List Nat) (key : Nat) : List Write :=
  (m.done ++ m.pending.map (·.w)).filter (fun w => w.covers key && past.contains (w.idAt key))

/-- The candidates of a read of one byte by a party (R286): the performed writes to it that no write of the party's past is
after, and the initial write (none) when the past holds no write to it. -/
def MemSys.candidates (m : MemSys) (p : Party) (key : Nat) : List (Option Write) :=
  let mine := m.among (m.past p) key
  let ok := (m.done.filter (fun w => w.covers key)).filter (fun w => !mine.any (fun v => v.past.contains (w.idAt key)))
  (if mine.isEmpty then [none] else []) ++ ok.map some

/-- A write and every write before it to a byte (R285). -/
def MemSys.upTo (m : MemSys) (w : Write) (key : Nat) : List Nat := w.idAt key :: (m.among w.past key).map (·.idAt key)

/-- The byte of a candidate; the initial write is what the memory held before every listed write. -/
def MemSys.candByte (m : MemSys) (c : Option Write) (key : Nat) : Byte :=
  match c with | some w => w.byteAt key | none => m.base.read key

/-- Every byte of a read has a candidate: a party's own write that has not performed can leave none until it has. -/
def MemSys.readable (m : MemSys) (p : Party) (key len : Nat) : Bool :=
  (List.range len).all (fun i => !(m.candidates p (key + i)).isEmpty)

/-- One candidate of a list: the only one, or the one that the free value of the counter names (R286). -/
def choose (s : State) (cs : List (Option Write)) : Option Write × State :=
  match cs with
  | [c] => (c, s)
  | _ => (cs.getD (Config.choice s.my.freeCtr % cs.length) none, { s with my := { s.my with freeCtr := s.my.freeCtr + 1 } })

/-- A load or pop of a context returned what stands after a release fence: an acquiring fence after it observes that (R290). -/
def noteSeen (s : State) (p : Party) (rs : List (Party × Nat × List Nat)) : State :=
  match p, rs with
  | _, [] => s
  | .ctx n k, _ => s.modCtx n k (fun c => { c with seen := rs.foldl (fun l x => if l.contains x then l else l ++ [x]) c.seen })
  | _, _ => s

/-- A candidate returned to a party for `len` bytes joins its past of each, with every write before it there (R286). -/
def takeCand (s : State) (p : Party) (key len : Nat) (c : Option Write) : State :=
  match c with
  | some w => noteSeen { s with ms := s.ms.join p ((List.range len).flatMap (fun i => s.ms.upTo w (key + i))) } p
      (w.rel.map (fun r => (w.party, r.1, r.2)))
  | none => s

/-- Bytes read one by one, each on its own under R286. -/
def readBytesFrom (s : State) (p : Party) (key : Nat) : Nat → List Byte × State
  | 0 => ([], s)
  | n + 1 =>
    let (c, s1) := choose s (s.ms.candidates p key)
    let (rest, s2) := readBytesFrom (takeCand s1 p key 1 c) p (key + 1) n
    (s.ms.candByte c key :: rest, s2)

/-- Whether a candidate covers every byte of an access; the initial write does. -/
def wholeCand (key len : Nat) (c : Option Write) : Bool :=
  match c with
  | some w => w.key ≤ key && key + len ≤ w.key + w.bytes.length
  | none => true

/-- A read of `len` bytes at a key by a party (R286, R289): an aligned access, one of whose bytes has only candidates that
cover the whole access, takes every byte from one write that is a candidate for all of them; otherwise each byte is read on
its own. -/
def readMem (s : State) (p : Party) (key len : Nat) : List Byte × State :=
  let cands (i : Nat) := s.ms.candidates p (key + i)
  let single : Option (List (Option Write)) :=
    if len ≠ 0 && key % len = 0 then
      ((List.range len).find? (fun i => (cands i).all (wholeCand key len))).map (fun i =>
        (cands i).filter (fun c => (List.range len).all (fun j => (cands j).contains c)))
    else none
  match single with
  | some (c0 :: cs) =>
    let (c, s1) := choose s (c0 :: cs)
    ((List.range len).map (fun i => s.ms.candByte c (key + i)), takeCand s1 p key len c)
  | _ => readBytesFrom s p key len

/-- What has been performed last at a key: what an atomic's read side returns (R302). -/
def lastBytes (s : State) (key len : Nat) : List Byte := s.ms.mem.readBytes key len

/-- A write performs at its home (R282). The write's past is closed with it (R285). (assumption 44, DEDUCED, safe) -/
def performWrite (s : State) (w : Write) : State :=
  { s with ms := { (s.ms.join w.party w.ids) with mem := s.ms.mem.writeBytes w.key w.bytes, done := s.ms.done ++ [w] } }

/-- A write by a unit that performs at once: a new number, and the past of its party. -/
def writeNow (s : State) (p : Party) (key : Nat) (bytes : List Byte) : State :=
  let (id, s1) := s.freshFor bytes.length
  performWrite s1 { id := id, key := key, bytes := bytes, party := p, past := s1.ms.past p, rel := [] }

/-- The scope test of R283: whether party q lies in scope code n of party p. -/
def inScope (s : State) (n : Nat) (p q : Party) : Bool :=
  p == q ||
  match n with
  | 0 => false
  | 1 =>
    match p, q with
    | .ctx b _, .ctx c _ | .ctx b _, .node c | .node b, .ctx c _ => b == c
    | _, _ => false
  | 2 =>
    let reg : Party → Option Nat := fun x => match x with
      | .ctx b _ | .node b => (s.bu b).region
      | _ => none
    (reg p).isSome && reg p == reg q
  | 3 =>
    match p, q with
    | .host, _ | _, .host | .peer _, _ | _, .peer _ => false
    | _, _ => true
  | _ => true

/-- An acquire of p at scope a synchronises with a release of q at scope r (R287): q's released past joins p's past. -/
def synchronise (s : State) (p : Party) (a : Nat) (q : Party) (r : Nat) (past : List Nat) : State :=
  if inScope s a p q && inScope s r q p then { s with ms := s.ms.join p past } else s

/-- What an acquire of p at scope a that observes releases brings (R287). -/
def acquired (s : State) (p : Party) (a : Nat) (rels : List (Party × Nat × List Nat)) : List Nat :=
  rels.foldl (fun l r => if inScope s a p r.1 && inScope s r.2.1 r.1 p then joinNats l r.2.2 else l) []

/-- A past in which an acquire under way stands by its number, once the acquire has brought writes. -/
def widen (id : Nat) (new past : List Nat) : List Nat := if past.contains id then joinNats past new else past

/-- An acquire of a number brings writes to the past of its party, and to the pasts of the accesses, releases and fences of that party
that are ordered after it and have waited for it (R285, R287, R292): those pasts hold its number. -/
def State.learn (s : State) (p : Party) (id : Nat) (new : List Nat) : State :=
  let wide := widen id new
  { s with
    ms := s.ms.join p new,
    net := { s.net with flits := s.net.flits.map (fun f => { f with tok := { f.tok with
      rel := f.tok.rel.map (fun r => (r.1, r.2.1, wide r.2.2)) } }) },
    hub := { s.hub with reqs := s.hub.reqs.map (fun q => { q with past := wide q.past, rel := q.rel.map (fun r => (r.1, wide r.2)) }) },
    bus := s.bus.map (fun x => (x.1, { x.2 with
      ctxs := x.2.ctxs.map (fun c => { c with relFence := c.relFence.map (fun r => (r.1, wide r.2)) }),
      rels := x.2.rels.map (fun r => { r with past := wide r.past }) })) }

/-! ### Rounds (R127, R382, R383, R385) -/

/-- The count, from the start of the launch, of a round number: rounds are numbered modulo 4,096, and none that has committed is
counted (R127, R382). -/
def Region.absRound (r : Region) (m : Nat) : Option Nat :=
  let d := (m + 4096 - r.commits % 4096) % 4096
  if d ≤ 2047 then some (r.commits + d) else none

/-- The count of a round, or of the oldest one that has not committed (R383). -/
def Region.openRound (r : Region) (m : Nat) : Nat := (r.absRound m).getD r.commits

/-- Lines of a bank unit's write log. -/
def State.logSize (s : State) (n : Nat) : Nat := descSize (s.mSlot n 1 2)
/-- Lines of its replay storage. -/
def State.replaySize (s : State) (n : Nat) : Nat := descSize (s.mSlot n 1 3)
/-- Its context slots in use. -/
def State.slotsUsed (s : State) (n : Nat) : Nat := ((List.range 4).filter (s.slotUsed n)).length

/-- Every bank unit of a region has room for two checkpoints of each slot in use (R385). -/
def State.storageOk (s : State) (r : Region) : Bool := (s.regionBus r).all (fun n => 28 * s.slotsUsed n ≤ s.replaySize n)

/-- A round of the region of a bank unit is replayable (R385). -/
def State.replayable (s : State) (n rd : Nat) : Bool :=
  match s.regionOf n with
  | some r => r.place.isSome && !r.norepRounds.contains rd && s.storageOk r
  | none => false

/-- A failure of a round of the region of a bank unit is not replayed (R373, R376): the round is non-replayable, or the region has
reached the rollback limit. -/
def State.noReplay (s : State) (n rd : Nat) : Bool :=
  match s.regionOf n with
  | some r => 3 ≤ r.rb || !s.replayable n rd
  | none => false

/-- The round that an effect of a slot is tagged with (R383): slot H's effects go with the region's current round. (assumption 42, DEDUCED, unsafe)
(assumption 69, DEDUCED, unsafe) -/
def State.tagRound (s : State) (n slot m : Nat) : Nat :=
  match s.regionOf n with
  | some r => if slot = 4 then r.commits else r.openRound m
  | none => 0

/-! ### Fault records and the taking of a fault (R66, R85, R86, R373) -/

/-- The origin of an operation of a slot. -/
def State.originOf (s : State) (n slot block op elem : Nat) : Origin :=
  let b := s.bu n
  { bu := n, slot := slot, block := block, op := op, elem := elem, round := (b.ctx slot).regs.round,
    region := b.region.getD 0,
    launch := (((b.ctx slot).launch).orElse (fun _ => (s.regionOf n).bind (·.running))).getD 0, job := s.jobOf n }

/-- A record of a fault at an origin (R373). -/
def mkRec (s : State) (o : Origin) (code : Code) (async : Bool) (address extra : Nat) : FaultRec :=
  let b := s.bu o.bu
  { code := code.num, level := 0, async := async, die := b.offDie, x := b.offX, y := b.offY, slot := o.slot, block := o.block,
    op := o.op, norep := s.noReplay o.bu (s.tagRound o.bu o.slot o.round), address := address, round := o.round,
    tick := s.out.tick % 2 ^ 48, extra := extra % 2 ^ 48, launch := o.launch }

/-- Word k of a record (R373). -/
def FaultRec.word (r : FaultRec) (k : Nat) : Nat :=
  match k with
  | 0 => r.code + r.level * 2 ^ 8 + (if r.async then 2 ^ 11 else 0) + r.die * 2 ^ 12 + r.x * 2 ^ 14 + r.y * 2 ^ 21 +
      r.slot * 2 ^ 27 + r.block * 2 ^ 30 + r.op * 2 ^ 46 + (if r.norep then 2 ^ 53 else 0)
  | 1 => r.address % 2 ^ 64
  | 2 => r.round % 2 ^ 12 + r.tick * 2 ^ 16
  | _ => r.extra % 2 ^ 48 + (r.launch % 2 ^ 16) * 2 ^ 48

/-- The 32 bytes of a record. -/
def FaultRec.bytes (r : FaultRec) : List Byte := (List.range 4).flatMap (fun k => bytesOfNat 8 (r.word k))

/-- The `reply` of an unfinished launch, and the phase that its records belong to: of the launch, or the job's (R377). -/
def State.replyOf (s : State) (launch job : Nat) : Nat × Nat :=
  match mapGet launch s.hub.launches with
  | some l => (l.reply, l.phase)
  | none => (0, match mapGet job s.hub.jobs with | some j => j.phase | none => 0)

/-- A record put under delivery from a stage, with the `reply` and the phase of its launch record (R377). (assumption 83, DEDUCED, unsafe) -/
def State.postTo (s : State) (r : FaultRec) (stage : Nat) (o : Origin) (reply phase : Nat) : State :=
  let (id, s1) := s.fresh
  s1.modHub (fun h => { h with recs := h.recs ++ [{ id := id, record := r, stage := stage, org := o, reply := reply, phase := phase }] })

/-- A record put under delivery from a stage (R377). -/
def State.post (s : State) (r : FaultRec) (stage : Nat) (o : Origin) : State :=
  let x := s.replyOf o.launch o.job
  s.postTo r stage o x.1 x.2

/-- The logged replies that a running block of a slot has taken, in order: its rerun takes them again (R386). -/
def State.takenReplies (s : State) (n slot : Nat) : List Line :=
  s.hub.reqs.filterMap (fun r =>
    if r.org.bu == n && r.org.slot == slot && !r.committed && !r.dead && r.begun then
      (match r.stage with | .replied v => some v | _ => none)
    else none)

/-- The running block of a slot aborts and leaves no trace (R66): results of its detached operations are discarded when they
arrive. -/
def State.abortBlock (s : State) (n slot : Nat) : State :=
  let back := s.takenReplies n slot
  let s1 := s.modCtx n slot (fun c => { c with blk := Blk.idle, replay := back ++ c.replay })
  s1.modHub (fun h => { h with reqs := h.reqs.map (fun r =>
    if r.org.bu == n && r.org.slot == slot && !r.committed then { r with dead := true } else r) })

/-- The request that counts the completion of an instance once everything the instance issued has performed and its records are
posted (R352, R356): a count of one on counter `cnt_inst`, with `begun` set. (assumption 45, DEDUCED, safe) -/
def State.countReq (s : State) (n slot : Nat) (ctr : Nat) : Req :=
  let c := s.ctx n slot
  { id := 0, org := s.originOf n slot c.regs.bc.toNat 0 0, row := .cntAdd, port := hubPort n, a := ctr, b := 1, c := 0, mod := 5, ty := .i8, rm := .rne,
    ovf := .sat, imm := true, dst := .none, committed := true, dead := false, stage := .waiting, sync := 5,
    past := s.ms.past (.ctx n slot),
    after := c.issued ++ (s.hub.recs.filter (fun r => r.org.bu == n && r.org.slot == slot)).map (·.id),
    hold := [], flags := 0, begun := true, rel := [], obs := [] }

/-- The number of an instance in its region: its offset and slot. -/
def Bu.instKey (b : Bu) (slot : Nat) : Nat := 8 * buNum b.offDie b.offX b.offY + slot

/-- An instance ends (R352): its completion is counted once on its launch's `cnt_inst`, by the primary placement of a dual run. -/
def State.endInstance (s : State) (n slot : Nat) : State :=
  match (s.ctx n slot).launch with
  | none => s
  | some id =>
    let key := (s.bu n).instKey slot
    let ctr := match mapGet id s.hub.launches with
      | some l => if l.counted.contains key then 0xFFFF else l.cnts.getD 0 0xFFFF
      | none => 0xFFFF
    let second := match s.regionOf n with | some r => !r.primary | none => false
    let s1 := if ctr = 0xFFFF || second then s
      else
        let (rid, s1) := s.fresh
        s1.modHub (fun h => { h with reqs := h.reqs ++ [{ s.countReq n slot ctr with id := rid, c := key }] })
    s1.modCtx n slot (fun c => { c with launch := none })

/-- A context stops: no further issue until a new instance starts (R55); its outstanding results are discarded (R68), and its
instance completes (R352). -/
def State.stopCtx (s : State) (n slot : Nat) : State :=
  let s1 := ((s.abortBlock n slot).endInstance n slot).modCtx n slot (fun c =>
    { c with st := .stopped, acquires := [], barrier := [] })
  s1.modHub (fun h => { h with reqs := h.reqs.map (fun r =>
    if r.org.bu == n && r.org.slot == slot && !(r.begun && r.row == .cntAdd) then { r with dead := true, dst := .none } else r) })

/-- A fault record put in its place: after all that came before it, but among the synchronous ones of one cycle in slot order
(R85). -/
def insertRec (q : QRec) : List QRec → List QRec
  | [] => [q]
  | x :: rest =>
    if !x.record.async && x.cycle = q.cycle && q.slot < x.slot then q :: insertRec x rest else x :: insertRec q rest

/-- The handler queue holds eight of the records of a bank unit; the synchronous ones beyond wait (R379). -/
def Bu.setRecs (b : Bu) (l : List QRec) : Bu := { b with hq := l.take 8, faultWait := l.drop 8 }

/-- Room in the handler queue lets waiting synchronous faults in (R379). -/
def Bu.fillHq (b : Bu) : Bu := b.setRecs (b.hq ++ b.faultWait)

/-- A synchronous fault of a slot enters the handler queue, or waits for room there (R85, R379). -/
def Bu.addFault (b : Bu) (r : FaultRec) (slot : Nat) : Bu := b.setRecs (insertRec ⟨r, slot, b.cycle⟩ (b.hq ++ b.faultWait))

/-- A synchronous fault in a context slot (R85, R377): the block aborts, the context turns FAULTED and the record enters the
handler queue; without handler blocks it escalates at once, as `eret.esc` would. -/
def State.faultCtx (s : State) (n slot : Nat) (r : FaultRec) (o : Origin) : State :=
  if s.hasHandler n then
    ((s.abortBlock n slot).modCtx n slot (fun c =>
      { c with st := .faulted, fblk := (s.ctx n slot).blk.effs })).modBu n (fun b => b.addFault r slot)
  else (s.post r 1 o).stopCtx n slot

/-- A fault in slot H ends the handler run (R86): HFAULT and the record handled are delivered from stage 1, and the context
of a synchronous record stops. -/
def State.faultH (s : State) (n : Nat) (f : Flt) (o : Origin) : State :=
  let b := s.bu n
  let hf := mkRec s { o with slot := 4 } .hfault false 0 f.code.num
  let s1 := (s.abortBlock n 4).modCtx n 4 (fun c => { c with st := .idle })
  let s2 := s1.post hf 1 o
  match b.hrun with
  | none => s2
  | some h =>
    let s3 := s2.modBu n (fun b => { b with hrun := none })
    let o' := { s.originOf n h.slot h.record.block h.record.op 0 with launch := h.record.launch }
    let s4 := s3.post h.record 1 o'
    if h.async then s4 else s4.stopCtx n h.slot

/-- TAKING AN EXCEPTION: a synchronous fault of an operation of a slot (R57, R66, R85, R86). -/
def State.raise (s : State) (n slot block op elem : Nat) (f : Flt) : State :=
  let o := s.originOf n slot block op elem
  let s1 := if f.code = .bankEcc then s.modBu n (fun b => { b with eccLine := some (((s.window n slot).1 + f.address) / 64) }) else s
  if slot = 4 then s1.faultH n f o else s1.faultCtx n slot (mkRec s o f.code false f.address f.extra) o

/-- RETURNING FROM ONE, beside it: a handler run ends with an `eret` action (R89, R379), 0 resume, 1 poison (the block's pops
and poison tokens are the caller's), 2 escalate. -/
def State.endRun (s : State) (n action : Nat) : State :=
  match (s.bu n).hrun with
  | none => s.modCtx n 4 (fun c => { c with st := .idle })
  | some h =>
    let s1 := (s.modBu n (fun b => { b with hrun := none })).modCtx n 4 (fun c => { c with st := .idle })
    let o := { s.originOf n h.slot h.record.block h.record.op 0 with launch := h.record.launch }
    if action = 2 then (s1.post h.record 1 o).stopCtx n h.slot
    else if h.async then s1
    else s1.modCtx n h.slot (fun c => { c with st := .active })

end Sys2Proof.Machine
end

