-- ==== Sys2Proof/Machine/Flags.lean ====
section
/-!
DEFINITION. The sticky flags of a context and the policies that go with them: flag traps, the overflow override, and the
flag sets of single results (R88, R90, R93, R152, R159).
-/
namespace Sys2Proof.Machine

/-- The overflow policy an operation applies: `ctx.ovr`.`pol` in place of TRAP while `en` is 1 (R90). -/
def effectivePolicy (ovr : BitVec 4) (p : Ovf) : Ovf :=
  if p == .trap && bitOf ovr.toNat 3 then Ovf.ofCode (bitsOf ovr.toNat 0 2) else p

/-- The number of the lowest flag of a set that traps under a mask: R88 says no more than that the flag number is in `extra` (assumption 145,
DESIGN CHOICE, unsafe). -/
def flagTrap (fmask : BitVec 8) (flags : Nat) : Option Nat :=
  (List.range 8).find? (fun k => bitOf flags k && bitOf fmask.toNat k)

/-- The flag of a scalar division by zero (R79). -/
def divFlags (b : Nat) : Nat := if b = 0 then fDz else 0

/-- The flags of a saturating integer lane (R166): `of` when the exact result is not in range. -/
def satFlags (t : Ty) (v : Int) : Nat := if t.range.1 ≤ v && v ≤ t.range.2 then 0 else fOf

/-- The flags gathered by a block, as they join `ctx.flags` (R64). -/
def joinFlags (f : BitVec 8) (g : Nat) : BitVec 8 := f ||| BitVec.ofNat 8 g

end Sys2Proof.Machine
end

