-- ==== Sys2Proof/Machine/Operands.lean ====
section
/-!
DEFINITION. How an operation reads its predicate and sources and leaves its results: waiting and faulting reads, tentative
pops in slot order, stepped operands of `rep`, forwarding of stores, held effects and destinations (R27 to R32, R57 to R66,
R75, R76, R88, R126, R155, R161 to R163, R191).
-/
namespace Sys2Proof.Machine

/-- Why an operation does not execute now: it waits, or it faults. -/
inductive Stop where
  | wait
  | fault (f : Flt)
deriving DecidableEq, Repr

/-- Fault(code) with no detail. -/
def faultCode (c : Code) : Stop := .fault ⟨c, 0, 0⟩

/-- What an operation sees while it executes: the state, its place, its bank unit and context, its block's operations, its
row and its fields with stepped operands. -/
structure View where
  s : State
  cur : Cursor
  b : Bu
  c : Ctx
  instrs : List Instr
  rts : List (Nat × Route)
  r : Row
  o : Op

/-- The running block of a context that begins it now (R155: a private copy of the generator; R91, R99: the scheduling state that
its reads of it see). -/
def beginBlk (c : Ctx) : Blk :=
  if c.blk.running then c.blk
  else { Blk.idle with running := true, rng := c.regs.rng, passAt := c.pass, wAt := c.w, adjAt := c.lastadj }

/-- The operations of a context's current block, in slot order; a word that does not decode stands as `nop` (no armed block
holds one, R36). -/
def State.blockInstrs (s : State) (n slot : Nat) : List Instr :=
  match s.block n slot (s.ctx n slot).regs.bc.toNat with
  | some b => b.words.map (fun w => match decodeWord w with | .ok i => i | .error _ => .nop)
  | none => []

/-- The `rep` that stands directly before operation k, if any (R75). -/
def repBefore (is : List Instr) (k : Nat) : Option Op :=
  match k with
  | 0 => none
  | j + 1 => match is[j]? with | some (.rep o) => some o | _ => none

/-- A register whose index is raised by e, when it stays in its row (R76). -/
def stepReg (r : Reg) (e : Nat) : Option Reg :=
  match r with
  | .g i => if h : i.val + e < 32 then some (.g ⟨i.val + e, h⟩) else none
  | .t i => if h : i.val + e < 16 then some (.t ⟨i.val + e, h⟩) else none
  | .v i => if h : i.val + e < 8 then some (.v ⟨i.val + e, h⟩) else none
  | .p i => if h : i.val + e < 8 then some (.p ⟨i.val + e, h⟩) else none
  | .c i => if h : i.val + e < 31 then some (.c ⟨i.val + e, Nat.lt_trans h (by decide)⟩) else none
  | .qi i => some (.qi i)
  | .qo i => some (.qo i)

/-- An operand stepped by e when its step bit is set. -/
def stepOpnd (x : Opnd) (on : Bool) (e : Nat) : Opnd :=
  if on then ⟨(stepReg x.reg e).getD x.reg, x.mode⟩ else x

/-- The fields of a repeated operation's element e (R75, R76). -/
def stepOp (rep : Option Op) (o : Op) (e : Nat) : Op :=
  match rep with
  | none => o
  | some p =>
    { o with
      dst := stepOpnd o.dst (p.modBit 3) e, a := stepOpnd o.a (p.modBit 2) e,
      tail := match o.tail with
        | .reg b c ty rm sr ovf m => .reg (stepOpnd b (p.modBit 1) e) (stepOpnd c (p.modBit 0) e) ty rm sr ovf m
        | .imm v => .imm v }

/-- What an operation of the block under the cursor sees. -/
def mkView (s : State) (r : Row) (o : Op) : View :=
  let cur := s.my.cur
  let b := s.bu cur.bu
  let c := b.ctx cur.slot
  let is := s.blockInstrs cur.bu cur.slot
  { s := s, cur := cur, b := b, c := { c with blk := beginBlk c }, instrs := is, rts := s.routes cur.bu, r := r,
    o := stepOp (repBefore is cur.op) o cur.elem }

/-- The element count of operation k: 1 without a `rep`; under one, the count once the `rep` has executed (R76). -/
def elemCount (is : List Instr) (blk : Blk) (k : Nat) : Option Nat :=
  match repBefore is k with
  | none => some 1
  | some _ => mapGet k blk.reps

/-- Operation k has executed every element, or been predicated off. -/
def opFinished (is : List Instr) (blk : Blk) (k : Nat) : Bool :=
  match elemCount is blk k with
  | none => false
  | some n => n ≤ mapGetD k blk.done 0

/-! ### Predicates -/

/-- The predicate register of an operation as committed before the block: its bits, or a wait or EMPTY (R58, R62). -/
def readPred (c : Ctx) (p : Fin 8) : Except Stop Nat :=
  if p.val = 0 then .ok (2 ^ 64 - 1)
  else
    let r := c.regs.p[p]
    match r.st with
    | .full => .ok r.val.toNat
    | .pending _ => .error .wait
    | .failed => .error (faultCode .empty)

/-- The lanes a predicate and `psense` select, as 64 bits (R27). -/
def selBits (bits : Nat) (psense : Bool) : Nat := if psense then 2 ^ 64 - 1 - bits else bits

/-- The selected bits of an operation of the block; none when they cannot be read now. -/
def opSel (c : Ctx) (o : Op) : Option Nat :=
  match readPred c o.pred with
  | .ok b => some (selBits b o.psense)
  | .error _ => none

/-! ### Tentative pops (R63, R126) -/

/-- How many source fields of an operation name QI q; a popped queue is never stepped (R75). -/
def popFields (r : Row) (o : Op) (q : Nat) : Nat :=
  let one (k : SrcKind) (x : Opnd) : Nat :=
    match k.resolve o x, x.reg with
    | .none, _ => 0
    | _, .qi i => if i.val = q then 1 else 0
    | _, _ => 0
  one r.spec.a o.a + one r.spec.b o.b + one r.spec.c o.c

/-- The tokens of QI q that an executed element popped. -/
def poppedBy (blk : Blk) (k e q : Nat) : Nat :=
  blk.effs.foldl (fun n x => if x.1 = k && x.2.1 = e then (match x.2.2 with | .pop i m => if i = q then n + m else n | _ => n) else n) 0

/-- The tokens of QI q popped by elements from e of operation j, up to `left` of them: those executed by what they popped,
those to come by their fields; none when it is not yet known. -/
def popsOfElems (v : View) (j : Nat) (i : Instr) (q : Nat) (e left : Nat) : Option Nat :=
  match left with
  | 0 => some 0
  | n + 1 =>
    let here : Option Nat :=
      if e < mapGetD j v.c.blk.done 0 then some (poppedBy v.c.blk j e q)
      else
        match i with
        | .qdrop o => if bitsOf ((o.imm28.getD 0).toNat) 0 4 = q then (match opSel v.c o with
            | some sel => if sel % 2 = 0 then some 0 else none
            | none => none) else some 0
        | .qmark o => match opSel v.c o with | some sel => some (sel % 2) | none => none
        | i =>
          match i.row, i.op? with
          | some r, some o =>
            let f := popFields r o q
            if f = 0 || r.isVector then some f
            else match opSel v.c o with | some sel => some (if sel % 2 = 0 then 0 else f) | none => none
          | _, _ => some 0
    match here, popsOfElems v j i q (e + 1) n with
    | some a, some b => some (a + b)
    | _, _ => none

/-- The tokens of QI q popped before an element in slot order; none while an earlier operation leaves it open. -/
def popsBefore (v : View) (q : Nat) : Option Nat :=
  ((withIndex 0 v.instrs).take (v.cur.op + 1)).foldl (fun acc x =>
    match acc with
    | none => none
    | some n =>
      if x.1 = v.cur.op then (popsOfElems v x.1 x.2 q 0 v.cur.elem).map (n + ·)
      else
        match elemCount v.instrs v.c.blk x.1 with
        | some m => (popsOfElems v x.1 x.2 q 0 m).map (n + ·)
        | none => if popsOfElems v x.1 x.2 q 0 1 = some 0 then some n else none) (some 0)

/-- The `qmark`s before an operation in slot order that fire (R127). -/
def marksBefore (c : Ctx) (is : List Instr) (k : Nat) : Nat :=
  ((is.take k).filter (fun i => match i with
    | .qmark o => (opSel c o).getD 0 % 2 == 1
    | _ => false)).length

/-- The round of an operation of the running block (R127). (assumption 34, DEDUCED, unsafe) -/
def View.round (v : View) : Nat := (v.c.regs.round + marksBefore v.c v.instrs v.cur.op) % 4096

/-- Reading a QI: the token the next pop would read, with `extra` tokens popped by this operation already (R58, R63, R126). -/
def readQi (v : View) (q extra : Nat) (trap : Bool) : Except Stop Token :=
  let empty : Stop := if trap then faultCode .empty else .wait
  match v.s.qiTokens v.cur.bu v.cur.slot q, popsBefore v q with
  | none, _ => .error empty
  | some _, none => .error .wait
  | some (_, ts), some n =>
    match ts[n + extra]? with
    | none => .error empty
    | some t => if t.isBoundary v.round then .error empty else .ok t

/-! ### Sources -/

/-- A register's value by its state (R58). -/
def readState (st : RegState) (val : Nat) (trap : Bool) : Except Stop Nat :=
  match st with
  | .full => .ok val
  | .pending _ => .error (if trap then faultCode .empty else .wait)
  | .failed => .error (faultCode .empty)

/-- A source register's value, up to 512 bits (R58); a QI pops, and a popped poison faults (R126). -/
def readOpnd (v : View) (x : Opnd) (popped : Nat) : Except Stop Nat :=
  match x.reg with
  | .g i => readState v.c.regs.g[i].st v.c.regs.g[i].val.toNat x.mode
  | .v i => readState v.c.regs.v[i].st v.c.regs.v[i].val.toNat x.mode
  | .p i => if i.val = 0 then .ok (2 ^ 64 - 1) else readState v.c.regs.p[i].st v.c.regs.p[i].val.toNat x.mode
  | .t i =>
    match v.c.blk.temps[i] with
    | .full l => .ok l.toNat
    | .resolved => .error (faultCode .empty)
    | .unwritten => .error (if x.mode then faultCode .empty else .wait)
  | .c i => .ok (v.s.const v.cur.bu i.val)
  | .qi i =>
    match readQi v i.val popped x.mode with
    | .error e => .error e
    | .ok t => if t.kind = .poison then .error (faultCode .poison) else .ok t.payload.toNat
  | .qo _ => .error .wait

/-- The values an operation's sources supply: a, b and c (0 where absent), the pops they make, and the selected bits. -/
structure Srcs where
  sel : Nat
  a : Nat
  b : Nat
  c : Nat
  pops : List Eff
deriving DecidableEq, Repr

/-- One source of a list in order: its value, and how many tokens of which QI are popped so far by this operation. -/
def readSrc (v : View) (k : SrcKind) (x : Opnd) (pops : List Eff) : Except Stop (Nat × List Eff) :=
  match k.resolve v.o x with
  | .none => .ok (0, pops)
  | _ =>
    match x.reg with
    | .qi i =>
      let n := (pops.filter (· == .pop i.val 1)).length
      match readOpnd v x n with
      | .ok val => .ok (val, pops ++ [.pop i.val 1])
      | .error e => .error e
    | _ =>
      match readOpnd v x 0 with
      | .ok val => .ok (val, pops)
      | .error e => .error e

/-- Every source of an operation in the order a, b, c: a wait of one comes before a fault of another, since an operation
executes only once its sources can be read without waiting (R61). -/
def readSrcs (v : View) (sel : Nat) : Except Stop Srcs :=
  let sp := v.r.spec
  let ra := readSrc v sp.a v.o.a []
  let pa := match ra with | .ok (_, p) => p | .error _ => []
  let rb := readSrc v sp.b v.o.b pa
  let pb := match rb with | .ok (_, p) => p | .error _ => pa
  let rc := readSrc v sp.c v.o.c pb
  match ra, rb, rc with
  | .error .wait, _, _ | _, .error .wait, _ | _, _, .error .wait => .error .wait
  | .error e, _, _ => .error e
  | _, .error e, _ => .error e
  | _, _, .error e => .error e
  | .ok (a, _), .ok (b, _), .ok (c, p) => .ok { sel := sel, a := a, b := b, c := c, pops := p }

/-- The immediate of an I-form, composed with the `imm` before it (R32), as 64 bits. -/
def immValue (cur : Cursor) (o : Op) : Nat :=
  match o.imm28 with
  | none => 0
  | some v =>
    match cur.immHi with
    | some hi => wrapNat 64 (signedOf 60 (hi.toNat * 2 ^ 28 + v.toNat))
    | none => wrapNat 64 (signedOf 28 v.toNat)

/-- Source B of an operation that has an I-form: the immediate in the I-form, else the operand. -/
def View.bOrImm (v : View) (x : Srcs) : Nat := if v.o.imm28.isSome then immValue v.cur v.o else x.b

/-- Lane k of a value of up to 64 bytes, at a lane size in bits. -/
def laneOf (bits val k : Nat) : Nat := bitsOf val (bits * k) bits

/-- A value of equal lanes. -/
def packLanes (bits : Nat) (ls : List Nat) : Nat := ls.foldr (fun l acc => l % 2 ^ bits + 2 ^ bits * acc) 0

/-- A "v/b" source as lanes: a G or constant is repeated in every lane (R162). -/
def spread (x : Opnd) (bits n val : Nat) : Nat :=
  match x.reg with
  | .g _ | .c _ => packLanes bits (List.replicate n (val % 2 ^ bits))
  | _ => val

/-! ### Loads (R188, R191) -/

/-- The rows that store to the bank (R191). -/
def isBankStore (r : Row) : Bool :=
  match r with
  | .stb | .sth | .stw | .std | .stl | .vst | .vstb | .vsca => true
  | _ => false

/-- The rows that load from the bank (R191). -/
def isBankLoad (r : Row) : Bool :=
  match r with
  | .ldb | .ldh | .ldw | .ldd | .lda | .vld | .vldb | .vgat => true
  | _ => false

/-- Every store earlier in slot order has executed or been predicated off (R191). -/
def storesDone (v : View) : Bool :=
  ((withIndex 0 v.instrs).take v.cur.op).all (fun x => match x.2.row with
    | some r => !isBankStore r || opFinished v.instrs v.c.blk x.1
    | none => true)

/-- (op, element) of an effect comes before that of the cursor in slot order. -/
def beforeCur (cur : Cursor) (k e : Nat) : Bool := k < cur.op || (k = cur.op && e < cur.elem)

/-- The bank as the operation's loads see it: the bank, with the block's own earlier stores over it (R191). -/
def View.bankSeen (v : View) : Memory :=
  v.c.blk.effs.foldl (fun m x => match x.2.2 with
    | .store a bs => if beforeCur v.cur x.1 x.2.1 then Memory.writeBytes a bs m else m
    | _ => m) v.b.bank

/-- The lowest uncorrectable word that a read of bytes touches (R189), but for bytes that `own` says are forwarded: those are not
read from the bank (R191). -/
def badWordIn (b : Bu) (own : Nat → Bool) (addr len : Nat) : Option Nat :=
  (b.badWords.filter (fun w => (List.range 8).any (fun i => addr ≤ 8 * w + i && 8 * w + i < addr + len && !own (8 * w + i)))).min?

/-- No byte is forwarded. -/
def noneOwn (_ : Nat) : Bool := false

/-- A byte of the bank that an earlier store of the block has written, as the operation's loads see it (R191). -/
def View.ownByte (v : View) (a : Nat) : Bool :=
  v.c.blk.effs.any (fun x => match x.2.2 with
    | .store b bs => beforeCur v.cur x.1 x.2.1 && b ≤ a && a < b + bs.length
    | _ => false)

/-- The byte of the bank at an offset of the context's window (R187). -/
def View.bankByte (v : View) (off : Nat) : Nat := (v.s.window v.cur.bu v.cur.slot).1 + off

/-- `len` bytes at an offset of the context's window: in range, corrected, with forwarding (R188, R189, R191). -/
def View.load (v : View) (off len : Nat) : Except Stop (List Byte) :=
  let win := v.s.window v.cur.bu v.cur.slot
  if !inRange win off len then .error (.fault ⟨.bankRange, off, 0⟩)
  else
    match badWordIn v.b v.ownByte (win.1 + off) len with
    | some w => .error (.fault ⟨.bankEcc, 8 * w - win.1, 0⟩)
    | none => .ok ((v.bankSeen).readBytes (win.1 + off) len)

/-! ### Draws (R155) -/

/-- The `sr` operations before this one in slot order have finished, so that the private generator stands where its own
draws begin (R155; the wait is the model's, assumption 13, DESIGN CHOICE, safe). -/
def drawsReady (v : View) : Bool :=
  !(v.o.sr && !v.r.hasImmBit) ||
    ((withIndex 0 v.instrs).take v.cur.op).all (fun x => match x.2.row, x.2.op? with
      | some r, some o => !(o.sr && !r.hasImmBit) || opFinished v.instrs v.c.blk x.1
      | _, _ => true)

/-! ### Detached destinations (R67) -/

/-- The register a detached destination names (R29). -/
def destOf (x : Opnd) : Dest :=
  match x.reg with
  | .g i => .g i
  | .v i => .v i
  | _ => .none

/-- A destination register is pending. -/
def Regs.isPending (r : Regs) (d : Dest) : Bool :=
  match d with
  | .none => false
  | .g i => match r.g[i].st with | .pending _ => true | _ => false
  | .v i => match r.v[i].st with | .pending _ => true | _ => false

/-! ### Results -/

/-- What an executed element leaves: a value for its destination, effects held for the commit, the flags it raises, the
generator after its draws, a detached request it sends at once, and the bank bytes it loaded (address and length). -/
structure Res where
  val : Option Nat
  effs : List Eff
  flags : Nat
  rng : Option Word
  sent : Option Req
  loads : List (Nat × Nat)
deriving DecidableEq, Repr

/-- A result with nothing in it. -/
def Res.none : Res := { val := Option.none, effs := [], flags := 0, rng := Option.none, sent := Option.none, loads := [] }
/-- A value for the destination. -/
def Res.ofVal (n : Nat) : Res := { Res.none with val := some n }
/-- One held effect. -/
def Res.ofEff (e : Eff) : Res := { Res.none with effs := [e] }

/-- The effects that write a value to a destination (R29, R62, R63). -/
def dstEffs (d : Opnd) (val : Nat) : List Eff :=
  match d.reg with
  | .g i => [.regG i (BitVec.ofNat 64 val)]
  | .v i => [.regV i (BitVec.ofNat 512 val)]
  | .p i => [.regP i (BitVec.ofNat 64 val)]
  | .qo i => [.push i.val (BitVec.ofNat 512 val) false]
  | _ => []

/-- Effects put in slot order: after every effect of an earlier or equal (operation, element). -/
def insertEff (k e : Nat) (f : Eff) : List (Nat × Nat × Eff) → List (Nat × Nat × Eff)
  | [] => [(k, e, f)]
  | x :: rest => if k < x.1 || (k = x.1 && e < x.2.1) then (k, e, f) :: x :: rest else x :: insertEff k e f rest

/-- Several effects of one element. -/
def insertEffs (k e : Nat) (fs : List Eff) (l : List (Nat × Nat × Eff)) : List (Nat × Nat × Eff) :=
  fs.foldl (fun acc f => insertEff k e f acc) l

/-- The temporary a destination names is written at once (R29). -/
def writeTemp (d : Opnd) (t : TempState) (blk : Blk) : Blk :=
  match d.reg with
  | .t i => { blk with temps := blk.temps.set i t }
  | _ => blk

/-- The block with an element's result in it. A temporary that a detached operation names is resolved without a value: its result
comes by completion, and never to a temporary (R29, R58; assumption 138, DEDUCED, safe). -/
def commitRes (cur : Cursor) (d : Opnd) (detached : Bool) (x : Srcs) (r : Res) (blk : Blk) : Blk :=
  let fs := x.pops ++ (match r.val with | some n => if detached then [] else dstEffs d n | Option.none => []) ++ r.effs ++
    (if r.flags = 0 then [] else [.flags r.flags])
  let blk1 := { blk with effs := insertEffs cur.op cur.elem fs blk.effs, done := mapSet cur.op (cur.elem + 1) blk.done,
                         rng := r.rng.getD blk.rng }
  match r.val with
  | some n => writeTemp d (if detached then .resolved else .full (BitVec.ofNat 512 n)) blk1
  | Option.none => if detached then writeTemp d .resolved blk1 else blk1

/-- The block with an element predicated off: it writes, pops and pushes nothing (R61). -/
def skipRes (cur : Cursor) (d : Opnd) (blk : Blk) : Blk :=
  writeTemp d .resolved { blk with done := mapSet cur.op (cur.elem + 1) blk.done }

/-- The detached reads whose replies replay storage holds (R383). -/
def isLoggedRead (r : Row) : Bool :=
  match r with
  | .ldm | .hbState | .hbWait | .shRd | .shChk | .probe | .cntRd | .cntWait | .rateRd | .cstate | .fwcallId | .fwcallTick
  | .fwcallHealth => true
  | _ => false

/-- A detached read of a replayed round takes the next logged reply and issues no request (R386); `begun` marks it. -/
def takeReplay (q : Req) (log : List Line) : Req × List Line :=
  match log with
  | v :: rest => if isLoggedRead q.row then ({ q with stage := .replied v, begun := true }, rest) else (q, log)
  | [] => (q, log)

/-- Loads of bank bytes that stores after release fences wrote observe them (R290). -/
def noteLoads (s : State) (n slot : Nat) (ls : List (Nat × Nat)) : State :=
  if ls.isEmpty then s
  else
    noteSeen s (.ctx n slot) (((s.bu n).rels.filter (fun r =>
      r.fence && ls.any (fun l => r.addr < l.1 + l.2 && l.1 < r.addr + r.size))).map (fun r => (r.party, r.scope, r.past)))

/-- The state after an element executed: its block, and a request it sent at once. -/
def finishOp (v : View) (x : Srcs) (r : Res) : State :=
  let blk := commitRes v.cur v.o.dst v.r.detached x r v.c.blk
  let s0 := noteLoads v.s v.cur.bu v.cur.slot r.loads
  match r.sent with
  | Option.none => s0.modCtx v.cur.bu v.cur.slot (fun c => { c with blk := blk })
  | some q =>
    let (id, s1) := s0.fresh
    let blk1 := { blk with effs := insertEff v.cur.op v.cur.elem (.pend id) blk.effs }
    let (q1, left) := takeReplay q v.c.replay
    (s1.modHub (fun h => { h with reqs := h.reqs ++ [{ q1 with id := id }] })).modCtx v.cur.bu v.cur.slot
      (fun c => { c with blk := blk1, replay := left })

/-- The pops of a source of an operation that faults: a token that stands there is read, a poison token too (R63, R126). -/
def faultPop (v : View) (k : SrcKind) (x : Opnd) (pops : List Eff) : List Eff :=
  match k.resolve v.o x with
  | .none => pops
  | _ =>
    match x.reg with
    | .qi i =>
      match readQi v i.val (pops.filter (· == .pop i.val 1)).length x.mode with
      | .ok _ => pops ++ [.pop i.val 1]
      | .error _ => pops
    | _ => pops

/-- The pops of an operation that faults: they belong to the faulted block's pops (R89). -/
def faultPops (v : View) : List Eff :=
  faultPop v v.r.spec.c v.o.c (faultPop v v.r.spec.b v.o.b (faultPop v v.r.spec.a v.o.a []))

/-- The state after an element stopped: it waits, or its block aborts with a fault. -/
def stopOp (v : View) (e : Stop) : State :=
  match e with
  | .wait => v.s
  | .fault f =>
    let blk := { v.c.blk with effs := insertEffs v.cur.op v.cur.elem (faultPops v) v.c.blk.effs }
    (v.s.modCtx v.cur.bu v.cur.slot (fun c => { c with blk := blk })).raise v.cur.bu v.cur.slot v.c.regs.bc.toNat v.cur.op v.cur.elem f

/-! ### Loads, pops and what they wait for (R290, R292, R294) -/

/-- The operation pops a QI. -/
def isPop (r : Row) (o : Op) : Bool :=
  r == .qdrop || r == .qmark || (List.range 16).any (fun q => popFields r o q != 0)

/-- The detached loads (R290). -/
def isDetachedLoad (r : Row) : Bool :=
  match r with
  | .ldm | .hbState | .shRd | .shChk => true
  | _ => false

/-- A fence with an acquire side. -/
def isAcqFence (r : Row) : Bool := r == .fence || r == .fenceAcq

/-- The acquires that execute in their block (R284, R290). -/
def isExecAcquire (r : Row) : Bool := r == .lda || r == .evWait || r == .mxWait

/-- The rows whose `sync` is a release (R298); the others acquire by it. -/
def releasesBySync (r : Row) : Bool := !(r == .hbWait || r == .barWait || r == .cntWait)

/-- A release at `bu` scope or a wider one that a slot has sent is under way: an acquire at `bu` scope comes after it (R295;
assumption 139, DEDUCED, unsafe). -/
def State.releasing (s : State) (n slot : Nat) : List Nat :=
  (s.hub.reqs.filter (fun q => q.org.bu == n && q.org.slot == slot && q.committed && !q.dead && 2 ≤ q.sync && releasesBySync q.row &&
    (match q.stage with | .held | .queued | .sent | .waiting => true | _ => false))).map (·.id)

/-- An acquire that executes waits for the answers of the acquires before it, and at `bu` scope for the releases before it (R295). -/
def acquireReady (v : View) : Bool :=
  v.c.acquires.isEmpty && (!(v.r != .lda || v.o.modBits 0 3 == 1) || (v.s.releasing v.cur.bu v.cur.slot).isEmpty)

/-- No load, pop or acquire executes before a fence with an acquire side that stands before it in slot order, no detached load
before an acquire that executes, and none that is served during the block while an acquire of an earlier block is unanswered (R284,
R292, R294, R295). -/
def accessReady (v : View) : Bool :=
  let served := isBankLoad v.r || isPop v.r v.o || isExecAcquire v.r
  !(served || isDetachedLoad v.r) ||
    (((withIndex 0 v.instrs).take v.cur.op).all (fun x => match x.2.row with
        | some r => !(isAcqFence r || (!served && isExecAcquire r)) || opFinished v.instrs v.c.blk x.1
        | none => true) &&
      (!served || v.c.acquires.isEmpty) && (!isExecAcquire v.r || acquireReady v))

/-- The register that a detached result of an operation is written to; none for a row without a destination (R29, R67). -/
def View.dest (v : View) : Dest := if v.r.spec.dst = .none then .none else destOf v.o.dst

/-- The conditions common to every operation before it can execute: slot order of draws, a pending detached destination
(R67, R155), and the order of loads and pops. -/
def commonReady (v : View) : Bool :=
  drawsReady v && accessReady v && !(v.r.detached && v.c.regs.isPending v.dest)

/-! ### Requests -/

/-- The party of a slot. -/
def View.party (v : View) : Party := .ctx v.cur.bu v.cur.slot

/-- The request of an operation with its operands read (R67): what it carries to the unit that serves it. -/
def mkReq (v : View) (x : Srcs) : Req :=
  { id := 0, org := { v.s.originOf v.cur.bu v.cur.slot v.c.regs.bc.toNat v.cur.op v.cur.elem with round := v.round }, row := v.r,
    port := hubPort v.cur.bu, a := x.a, b := x.b, c := x.c, mod := v.o.mod.toNat, ty := v.o.ty, rm := v.o.rm, ovf := v.o.ovf, imm := v.o.sr, dst := v.dest,
    committed := false, dead := false, stage := .sent, sync := 0, past := v.s.ms.past v.party, after := [],
    hold := [], flags := 0, begun := false, rel := [], obs := [] }

/-- The rows whose answers acquire, by their `sync` (R290, R305, R333, R370). -/
def isAnsweredAcquire (r : Row) (sync : Nat) : Bool :=
  match r with
  | .hbWait | .lift | .lower | .recall | .kvApp => true
  | .barWait | .cntWait => sync != 0
  | _ => false

/-- An acquire answered by completion stands before this operation in its block, in slot order, and is not predicated off
(R292). -/
def acquireBefore (v : View) : Bool :=
  ((withIndex 0 v.instrs).take v.cur.op).any (fun x => match x.2.row, x.2.op? with
    | some r, some o => isAnsweredAcquire r (o.modBits 0 3) && (opSel v.c o).getD 1 % 2 == 1
    | _, _ => false)

/-- A detached load or read leaves as it issues (R66, R67), waiting for the acquires of earlier blocks; behind an acquire of its
own block it leaves at the commit (R292). -/
def sendNow (v : View) (q : Req) : Res :=
  if acquireBefore v then Res.ofEff (.req q)
  else
    let hold := v.c.acquires
    { Res.none with sent := some { q with hold := hold, stage := if hold.isEmpty then .sent else .queued } }

/-- An operation that tests bit 0 of its predicate (R27): its sources read, its body run, its flags trapped (R88). -/
def runScalar (r : Row) (o : Op) (s : State) (ready : View → Bool) (body : View → Srcs → Except Stop Res) : State :=
  let v := mkView s r o
  match readPred v.c v.o.pred with
  | .error e => stopOp v e
  | .ok bits =>
    let sel := selBits bits v.o.psense
    if sel % 2 = 0 then
      s.modCtx v.cur.bu v.cur.slot (fun c => { c with blk := skipRes v.cur v.o.dst v.c.blk })
    else if !(commonReady v && ready v) then s
    else
      match readSrcs v sel with
      | .error e => stopOp v e
      | .ok x =>
        match body v x with
        | .error e => stopOp v e
        | .ok res =>
          match flagTrap v.c.regs.fmask res.flags with
          | some k => stopOp v (.fault ⟨.flag, 0, k⟩)
          | Option.none => finishOp v x res

/-- The merge source of a vector operation: its destination as committed, when it is V or P and `zm` is 0 (R163). -/
def readMerge (v : View) (zm : Bool) (all : Bool) : Except Stop Nat :=
  if zm || all then .ok 0
  else
    match v.o.dst.reg with
    | .v i => readState v.c.regs.v[i].st v.c.regs.v[i].val.toNat false
    | .p i => if i.val = 0 then .ok 0 else readState v.c.regs.p[i].st v.c.regs.p[i].val.toNat false
    | _ => .ok 0

/-- A vector operation (R163): it executes as a whole whatever its predicate selects. -/
def runVector (r : Row) (o : Op) (s : State) (ready : View → Bool) (body : View → Srcs → Except Stop Res) : State :=
  let v := mkView s r o
  match readPred v.c v.o.pred with
  | .error e => stopOp v e
  | .ok bits =>
    if !(commonReady v && ready v) then s
    else
      match readSrcs v (selBits bits v.o.psense) with
      | .error e => stopOp v e
      | .ok x =>
        match body v x with
        | .error e => stopOp v e
        | .ok res =>
          match (if v.r.detached then Option.none else flagTrap v.c.regs.fmask res.flags) with
          | some k => stopOp v (.fault ⟨.flag, 0, k⟩)
          | Option.none => finishOp v x res

/-- No condition beyond the common ones. -/
def always (_ : View) : Bool := true

/-- An outcome that is always a next state. -/
def nextState (s : State) : Host.Outcome State Fault Refusal := .next s

end Sys2Proof.Machine
end

