-- ==== Sys2Proof/Machine/Bank.lean ====
section
/-!
DEFINITION. The scalar loads and stores of the bank, with the acquire and release of `lda` and `stl` (R188 to R193, R284).
-/
namespace Sys2Proof.Machine

/-- The displacement of a load or store with an n-bit `disp` in `mod` (R192, R194): a signed count of access sizes. -/
def dispOf (o : Op) (bits : Nat) : Int := signedOf bits (o.modBits 0 bits)

/-- The offset of R193: base, index when `ix` is set, and displacement, modulo 2^64. -/
def memOffset (x : Srcs) (ix : Bool) (disp size : Int) : Nat :=
  wrapNat 64 ((x.a : Int) + (if ix then (x.b : Int) else 0) + disp * size)

/-- The alignment and range of a bank access (R188, R193, R195). (assumption 25, DEDUCED, unsafe) -/
def checkAccess (v : View) (off size : Nat) : Except Stop Unit :=
  if off % size ≠ 0 then .error (.fault ⟨.bankAlign, off, 0⟩)
  else if !inRange (v.s.window v.cur.bu v.cur.slot) off size then .error (.fault ⟨.bankRange, off, 0⟩)
  else .ok ()

/-- The value a load gives its destination (R193): sign-extended for an even type code, zero-extended for an odd one. -/
def extendLoad (t : Ty) (size val : Nat) : Nat :=
  if t.code % 2 = 0 then wrapNat 64 (signedOf (8 * size) val) else val % 2 ^ (8 * size)

/-- A result that has loaded bytes of the bank. -/
def withLoads (ls : List (Nat × Nat)) (r : Except Stop Res) : Except Stop Res :=
  match r with
  | .ok x => .ok { x with loads := ls }
  | .error e => .error e

/-- A scalar load of `size` bytes at an offset (R191, R193). -/
def loadBody (size : Nat) (disp : Int) (ix : Bool) (v : View) (x : Srcs) : Except Stop Res :=
  let off := memOffset x ix disp size
  match checkAccess v off size with
  | .error e => .error e
  | .ok _ =>
    match v.load off size with
    | .error e => .error e
    | .ok bs => .ok { Res.ofVal (extendLoad v.o.ty size (natOfBytes bs)) with loads := [(v.bankByte off, size)] }

/-- A scalar store (R193), held until commit at an absolute byte of the bank; `more` adds what `stl` adds. -/
def storeBody (size : Nat) (disp : Int) (ix : Bool) (more : Nat → List Eff) (v : View) (x : Srcs) : Except Stop Res :=
  let off := memOffset x ix disp size
  match checkAccess v off size with
  | .error e => .error e
  | .ok _ =>
    let a := (v.s.window v.cur.bu v.cur.slot).1 + off
    .ok { Res.none with effs := .store a (bytesOfNat size x.c) :: more a }

/-- A load of one of the four sizes. -/
def runLoad (r : Row) (size : Nat) (o : Op) (s : State) : State :=
  runScalar r o s storesDone (loadBody size (dispOf o 10) (o.modBit 10))

/-- A store of one of the four sizes. -/
def runStore (r : Row) (size : Nat) (o : Op) (s : State) : State :=
  runScalar r o s always (storeBody size (dispOf o 10) (o.modBit 10) (fun _ => []))

/-- `ldb` (R193). -/
def execLdb (o : Op) (s : State) : Host.Outcome State Fault Refusal := nextState (runLoad .ldb 1 o s)
/-- `ldh` (R193). -/
def execLdh (o : Op) (s : State) : Host.Outcome State Fault Refusal := nextState (runLoad .ldh 2 o s)
/-- `ldw` (R193). -/
def execLdw (o : Op) (s : State) : Host.Outcome State Fault Refusal := nextState (runLoad .ldw 4 o s)
/-- `ldd` (R193). -/
def execLdd (o : Op) (s : State) : Host.Outcome State Fault Refusal := nextState (runLoad .ldd 8 o s)
/-- `stb` (R193). -/
def execStb (o : Op) (s : State) : Host.Outcome State Fault Refusal := nextState (runStore .stb 1 o s)
/-- `sth` (R193). -/
def execSth (o : Op) (s : State) : Host.Outcome State Fault Refusal := nextState (runStore .sth 2 o s)
/-- `stw` (R193). -/
def execStw (o : Op) (s : State) : Host.Outcome State Fault Refusal := nextState (runStore .stw 4 o s)
/-- `std` (R193). -/
def execStd (o : Op) (s : State) : Host.Outcome State Fault Refusal := nextState (runStore .std 8 o s)

/-- The releases recorded at bytes of a bank reach a party that acquires there (R284, R287). -/
def acquireBank (s : State) (n slot scope addr size : Nat) : State :=
  ((s.bu n).rels.filter (fun r => !r.fence && r.addr < addr + size && addr < r.addr + r.size)).foldl
    (fun s r => synchronise s (.ctx n slot) scope r.party r.scope r.past) s

/-- `lda`: a load that acquires at its scope when it executes (R193, R284, R287). -/
def execLda (o : Op) (s : State) : Host.Outcome State Fault Refusal :=
  let v := mkView s .lda o
  let size := v.o.ty.bytes
  let t := runScalar .lda o s storesDone (loadBody size 0 (o.modBit 10))
  let ran := v.cur.elem < mapGetD v.cur.op (t.ctx v.cur.bu v.cur.slot).blk.done 0
  nextState (
    match opSel v.c v.o, readSrcs v 0 with
    | some sel, .ok x =>
      if ran && sel % 2 = 1 then
        acquireBank t v.cur.bu v.cur.slot (o.modBits 0 3)
          ((s.window v.cur.bu v.cur.slot).1 + memOffset x (o.modBit 10) 0 size) size
      else t
    | _, _ => t)

/-- `stl`: a store whose commit releases at its scope (R193, R284). -/
def execStl (o : Op) (s : State) : Host.Outcome State Fault Refusal :=
  let size := o.ty.bytes
  nextState (runScalar .stl o s always (storeBody size 0 (o.modBit 10) (fun a => [.stl a size (o.modBits 0 3)])))

end Sys2Proof.Machine
end

