-- ==== Sys2Proof/Machine/Matrix.lean ====
section
/-!
DEFINITION. The instructions of the matrix node, of operand rings and of the event crossbar (R206 to R216, R223, R228 to R230, R244).
-/
namespace Sys2Proof.Machine

/-! ### Tiles and rings -/

/-- The configuration word `mx.cfg` of a bank unit (R206). -/
def State.mxCfg (s : State) (n : Nat) : Nat := s.const n 31
/-- The slot that owns a tile. -/
def zOwner (cfg z : Nat) : Nat := bitsOf cfg (2 * z) 2
/-- The tile is allotted. -/
def zEnabled (cfg z : Nat) : Bool := bitOf cfg (16 + z)
/-- The tile is in rns mode. -/
def zRns (cfg z : Nat) : Bool := bitOf cfg (24 + z)

/-- The tile a token names (R212). -/
def MxTok.z (t : MxTok) : Nat := bitsOf t.word.toNat 55 3
/-- Its operation, less 0x10: 0 mma, 1 imma, 2 zero, 3 drain, 4 fill, 5 rev, 6 chk. -/
def MxTok.kind (t : MxTok) : Nat := bitsOf t.word.toNat 58 6 - 16
/-- Its ring A. -/
def MxTok.ka (t : MxTok) : Nat := bitsOf t.word.toNat 53 2
/-- Its ring B. -/
def MxTok.kb (t : MxTok) : Nat := bitsOf t.word.toNat 51 2
/-- Accumulate, or clear after. -/
def MxTok.acc (t : MxTok) : Bool := bitOf t.word.toNat 50
/-- Its rows. -/
def MxTok.rows (t : MxTok) : Nat := bitsOf t.word.toNat 39 3 + 1
/-- Its columns. -/
def MxTok.cols (t : MxTok) : Nat := bitsOf t.word.toNat 36 3 + 1
/-- Keep ring A. -/
def MxTok.keepA (t : MxTok) : Bool := bitOf t.word.toNat 35
/-- Keep ring B, or the side accumulator. -/
def MxTok.keepB (t : MxTok) : Bool := bitOf t.word.toNat 34
/-- Its overflow policy. -/
def MxTok.ovf (t : MxTok) : Ovf := Ovf.ofCode (bitsOf t.word.toNat 32 2)
/-- Its tag. -/
def MxTok.tag (t : MxTok) : Nat := bitsOf t.word.toNat 16 16

/-- The rings that a token uses, as numbers of its owner's rings (R213). -/
def MxTok.rings (t : MxTok) : List Nat :=
  match t.kind with
  | 0 | 1 => [t.ka, t.kb]
  | 3 | 4 | 5 => if t.bankOff.isSome then [] else [t.ka]
  | _ => []

/-- The checks of R215 on a token, in their order: the number of the first that fails. (assumption 37, DEDUCED, unsafe) -/
def tokenCheck (s : State) (n slot : Nat) (r : Row) (word : Nat) (bank : Bool) : Option Nat :=
  let cfg := s.mxCfg n
  let t : MxTok := { word := BitVec.ofNat 64 word, gate := none, bankOff := if bank then some 0 else none, fromH := slot == 4,
                     org := s.originOf n slot 0 0 0, id := 0, hold := [] }
  let f := mxFieldOk r (bitsOf word 32 26) bank
  let k := t.kind
  let rns := zRns cfg t.z
  if bitsOf word 58 6 ≠ r.spec.opcode - 0x80 then some 1
  else if bitsOf word 0 16 ≠ 0 then some 2
  else if f = some .field || ((k = 3 || k = 4) && t.keepB && !rns) then some 3
  else if !zEnabled cfg t.z then some 4
  else if slot ≠ 4 && zOwner cfg t.z ≠ slot then some 5
  else if (k = 0 && rns) || ((k = 1 || k = 5 || k = 6) && !rns) then some 6
  else if t.rings.any (fun q => (s.ring n (zOwner cfg t.z) q).2 = 0) then some 7
  else if f = some .type then some 8
  else none

/-- The token word with an `ovf` of TRAP replaced while `ctx.ovr`.`en` is 1, whatever its operation (R216). -/
def leavingWord (ovr : BitVec 4) (word : Nat) : Nat :=
  if bitsOf word 32 2 = 3 && bitOf ovr.toNat 3 then
    word - 3 * 2 ^ 32 + bitsOf ovr.toNat 0 2 * 2 ^ 32
  else word

/-- A token sent to the node or forwarded on a QO (R214, R216). -/
def sendToken (v : View) (word : Nat) (gate bank : Option Nat) : Res :=
  let w := leavingWord v.c.regs.ovr word
  match v.o.dst.reg with
  | .qo q => Res.ofEff (.push q.val (BitVec.ofNat 512 w) false)
  | _ =>
    Res.ofEff (.mxTok { word := BitVec.ofNat 64 w, gate := gate, bankOff := bank, fromH := v.cur.slot == 4, id := 0, hold := [],
                        org := { v.s.originOf v.cur.bu v.cur.slot v.c.regs.bc.toNat v.cur.op v.cur.elem with round := v.round } })

/-- The destination is a QO: the token is forwarded. -/
def forwards (o : Op) : Bool := match o.dst.reg with | .qo _ => true | _ => false

/-- The field form (R214): the token of the immediate, its gate, and its bank offset when `srca` is not 0x00. -/
def mxFieldBody (v : View) (x : Srcs) : Except Stop Res :=
  let i := immValue v.cur v.o
  let word := (v.r.spec.opcode - 0x80) * 2 ^ 58 + bitsOf i 0 26 * 2 ^ 32 + bitsOf i 28 16 * 2 ^ 16
  let gate := if bitOf i 44 then some (bitsOf i 45 3) else none
  if v.o.a = Opnd.zero then .ok (sendToken v word gate none)
  else
    let off := x.a % 2 ^ 64
    if forwards v.o then .ok (sendToken v word gate none)
    else if off % 64 ≠ 0 then .error (.fault ⟨.bankAlign, off, 0⟩)
    else if !inRange (v.s.window v.cur.bu v.cur.slot) off 512 then .error (.fault ⟨.bankRange, off, 0⟩)
    else .ok (sendToken v word gate (some ((v.s.window v.cur.bu v.cur.slot).1 + off)))

/-- The token form (R214, R215): the checks run when it executes, unless it forwards. (assumption 36, DEDUCED, unsafe) -/
def mxTokenBody (v : View) (x : Srcs) : Except Stop Res :=
  let word := x.a % 2 ^ 64
  if forwards v.o then .ok (sendToken v word none none)
  else
    match tokenCheck v.s v.cur.bu v.cur.slot v.r word false with
    | some k => .error (.fault ⟨.mxToken, word, k⟩)
    | none => .ok (sendToken v word none none)

/-- `mx.mma`, field form (R214, R215). -/
def execMxMma (o : Op) (s : State) : Host.Outcome State Fault Refusal := nextState (runScalar .mxMma o s always mxFieldBody)
/-- `mx.mma`, token form (R214, R215). -/
def execMxMmaToken (o : Op) (s : State) : Host.Outcome State Fault Refusal :=
  nextState (runScalar .mxMmaToken o s always mxTokenBody)
/-- `mx.imma`, field form. -/
def execMxImma (o : Op) (s : State) : Host.Outcome State Fault Refusal := nextState (runScalar .mxImma o s always mxFieldBody)
/-- `mx.imma`, token form. -/
def execMxImmaToken (o : Op) (s : State) : Host.Outcome State Fault Refusal :=
  nextState (runScalar .mxImmaToken o s always mxTokenBody)
/-- `mx.zero`, field form. -/
def execMxZero (o : Op) (s : State) : Host.Outcome State Fault Refusal := nextState (runScalar .mxZero o s always mxFieldBody)
/-- `mx.zero`, token form. -/
def execMxZeroToken (o : Op) (s : State) : Host.Outcome State Fault Refusal :=
  nextState (runScalar .mxZeroToken o s always mxTokenBody)
/-- `mx.drain`, field form. -/
def execMxDrain (o : Op) (s : State) : Host.Outcome State Fault Refusal := nextState (runScalar .mxDrain o s always mxFieldBody)
/-- `mx.drain`, token form. -/
def execMxDrainToken (o : Op) (s : State) : Host.Outcome State Fault Refusal :=
  nextState (runScalar .mxDrainToken o s always mxTokenBody)
/-- `mx.fill`, field form. -/
def execMxFill (o : Op) (s : State) : Host.Outcome State Fault Refusal := nextState (runScalar .mxFill o s always mxFieldBody)
/-- `mx.fill`, token form. -/
def execMxFillToken (o : Op) (s : State) : Host.Outcome State Fault Refusal :=
  nextState (runScalar .mxFillToken o s always mxTokenBody)
/-- `mx.rev`, field form (R244). -/
def execMxRev (o : Op) (s : State) : Host.Outcome State Fault Refusal := nextState (runScalar .mxRev o s always mxFieldBody)
/-- `mx.rev`, token form (R244). -/
def execMxRevToken (o : Op) (s : State) : Host.Outcome State Fault Refusal :=
  nextState (runScalar .mxRevToken o s always mxTokenBody)
/-- `mx.chk`, field form (R244). -/
def execMxChk (o : Op) (s : State) : Host.Outcome State Fault Refusal := nextState (runScalar .mxChk o s always mxFieldBody)
/-- `mx.chk`, token form (R244). -/
def execMxChkToken (o : Op) (s : State) : Host.Outcome State Fault Refusal :=
  nextState (runScalar .mxChkToken o s always mxTokenBody)

/-! ### Ring instructions (R210, R211) -/

/-- The number of a ring operand among the bank unit's sixteen: a handler block names the context. -/
def ringNumber (v : View) : Nat :=
  (if v.cur.slot = 4 then v.o.modBits 3 2 else v.cur.slot) * 4 + v.o.modBits 0 2

/-- Base line and entries of a ring by its number. -/
def State.ringOf (s : State) (n k : Nat) : Nat × Nat := s.ring n (k / 4) (k % 4)

/-- `rg.push` (R211): one entry and its sideband, at commit; raw when `srcb` is absent. -/
def execRgPush (o : Op) (s : State) : Host.Outcome State Fault Refusal :=
  nextState (runScalar .rgPush o s always (fun v x =>
    let sb : Word := if v.o.b = Opnd.zero then rawSideband else BitVec.ofNat 64 x.b
    .ok (Res.ofEff (.ringPush (ringNumber v) (BitVec.ofNat 512 x.a) sb))))

/-- `rg.info` (R211). -/
def execRgInfo (o : Op) (s : State) : Host.Outcome State Fault Refusal :=
  nextState (runScalar .rgInfo o s always (fun v _ =>
    let k := ringNumber v
    let r := v.b.node.rings[Fin.ofNat 16 k]
    .ok (Res.ofVal (r.head + r.tail * 2 ^ 10 + r.count * 2 ^ 20 + (v.s.ringOf v.cur.bu k).2 * 2 ^ 30))))

/-- `rg.reset` (R211), at commit. -/
def execRgReset (o : Op) (s : State) : Host.Outcome State Fault Refusal :=
  nextState (runScalar .rgReset o s always (fun v _ => .ok (Res.ofEff (.ringReset (ringNumber v)))))

/-! ### Waiting on tiles (R223, R224) -/

/-- A token that `mx.wait` considers: in a frozen bank unit slot H looks past the tokens of contexts. -/
def Bu.tileBusy (b : Bu) (onlyH : Bool) (z : Nat) : Bool :=
  b.node.started.any (fun t => t.tok.z == z) || b.node.inbox.any (fun t => t.tok.z == z && (!onlyH || t.tok.fromH))

/-- `mx.wait` is ready when nothing names a tile of its mask. -/
def mxWaitReady (v : View) : Bool :=
  let onlyH := v.cur.slot = 4 && !v.b.frozen.isEmpty
  (List.range 8).all (fun z => !bitOf (v.o.modBits 0 8) z || !v.b.tileBusy onlyH z)

/-- `mx.wait` (R223). The node issues no access outside the bank, so its past adds nothing to the waiter's (R290). -/
def execMxWait (o : Op) (s : State) : Host.Outcome State Fault Refusal :=
  nextState (runScalar .mxWait o s mxWaitReady (fun _ _ => .ok Res.none))

/-- The status of a tile (R223). -/
def Bu.tileStatus (b : Bu) (cfg z : Nat) : Nat :=
  let t := b.node.tiles[Fin.ofNat 8 z]
  t.tag % 2 ^ 16 + (if b.tileBusy false z then 2 ^ 16 else 0) + (if t.failed then 2 ^ 17 else 0) +
    (if zRns cfg z then 2 ^ 18 else 0) + (t.seq % 2 ^ 16) * 2 ^ 32

/-- `mx.tag` (R223). -/
def execMxTag (o : Op) (s : State) : Host.Outcome State Fault Refusal :=
  nextState (runScalar .mxTag o s always (fun v _ =>
    .ok (Res.ofVal (v.b.tileStatus (v.s.mxCfg v.cur.bu) (v.o.modBits 0 3)))))

/-! ### Event instructions (R228 to R230) -/

/-- A term with a non-zero mask whose latch equals it (R227). -/
def Target.termDone (t : Target) (k : Fin 4) : Bool := t.masks[k] != 0 && t.latches[k] == t.masks[k]

/-- A term of a target is complete and has not fired yet (R227). -/
def Events.complete (e : Events) : Bool := e.tgts.toList.any (fun t => [0, 1, 2, 3].any (fun k => t.termDone k))

/-- The trip count of `ev.loop` (R229); none for a step of 0. -/
def tripCount (start bound step : Int) : Option Nat :=
  if 0 < step then some (max 0 (-((start - bound) / step))).toNat
  else if step < 0 then some (max 0 (-((bound - start) / -step))).toNat
  else none

/-- `ev.loop` (R229), at commit. -/
def execEvLoop (o : Op) (s : State) : Host.Outcome State Fault Refusal :=
  nextState (runScalar .evLoop o s always (fun v x =>
    match tripCount (signedOf 32 x.a) (signedOf 32 x.b) (signedOf 32 x.c) with
    | none => .error (faultCode .loop)
    | some n => .ok (Res.ofEff (.evLoop (v.o.modBits 0 4) (v.o.modBits 4 5) (BitVec.ofNat 32 x.a) n (BitVec.ofNat 32 x.c)))))

/-- The counter that an `ev.wait` names. -/
def waitedCounter (b : Bu) (o : Op) : EvCtr := b.ev.ctrs[Fin.ofNat 16 (o.modBits 0 4)]

/-- `ev.wait` (R230): ready when its counter is done; it acquires at `bu` scope what the ticks released (R290). -/
def execEvWait (o : Op) (s : State) : Host.Outcome State Fault Refusal :=
  let v := mkView s .evWait o
  let t := runScalar .evWait o s (fun v => (waitedCounter v.b v.o).rem == 0) (fun _ _ => .ok Res.none)
  let ran := v.cur.elem < mapGetD v.cur.op (t.ctx v.cur.bu v.cur.slot).blk.done 0
  nextState (
    if ran && (opSel v.c v.o).getD 0 % 2 = 1 then
      (waitedCounter v.b v.o).rels.foldl (fun s r => synchronise s v.party 1 r.1 1 r.2) t
    else t)

/-- `ev.pulse` (R230), in the cycle after commit. -/
def execEvPulse (o : Op) (s : State) : Host.Outcome State Fault Refusal :=
  nextState (runScalar .evPulse o s always (fun v _ => .ok (Res.ofEff (.evPulse (v.o.modBits 0 3)))))

/-- `ev.rd` (R230). -/
def execEvRd (o : Op) (s : State) : Host.Outcome State Fault Refusal :=
  nextState (runScalar .evRd o s always (fun v _ =>
    if v.o.modBit 4 then
      let t := v.b.ev.tgts[Fin.ofNat 8 (v.o.modBits 0 3)]
      .ok (Res.ofVal (t.pend + if t.lost then 2 ^ 8 else 0))
    else
      let c := v.b.ev.ctrs[Fin.ofNat 16 (v.o.modBits 0 4)]
      .ok (Res.ofVal (c.val.toNat + c.rem * 2 ^ 32))))

/-- `ev.arm` (R230), at commit. -/
def execEvArm (o : Op) (s : State) : Host.Outcome State Fault Refusal :=
  nextState (runScalar .evArm o s always (fun v x =>
    .ok (Res.ofEff (.evArm (v.o.modBits 0 3) (v.o.modBits 3 2) (BitVec.ofNat 16 x.a) (v.o.modBit 5)))))

end Sys2Proof.Machine
end

