-- ==== Sys2Proof/Machine/Order.lean ====
section
/-!
DEFINITION. The fences of a context: what they wait for, what they acquire when they execute, and what they hold for the
commit (R288, R290, R293, R294).
-/
namespace Sys2Proof.Machine

/-! ### What has not performed or returned -/

/-- A wait at the hub whose context discards its result (R68): it has no effect left. -/
def Req.forgotten (r : Req) : Bool :=
  r.dead && r.stage == .waiting && (match r.row with | .hbWait | .barWait | .cntWait => true | _ => false)

/-- A control token of a number is in a bank unit's inbox, or its operation has not retired. -/
def State.mxUnderWay (s : State) (id : Nat) : Bool :=
  s.bus.any (fun x => x.2.node.inbox.any (fun t => t.tok.id == id) || x.2.node.started.any (fun t => t.tok.id == id))

/-- A write, request, bank access of the matrix node or pushed token of a number has not performed at its home (R282, R290, R294). -/
def State.outstanding (s : State) (id : Nat) : Bool :=
  s.ms.pending.any (fun w => w.w.id == id) || s.mxUnderWay id ||
  s.hub.reqs.any (fun r => r.id == id && !r.forgotten && (match r.stage with | .held | .queued | .sent | .waiting => true | _ => false)) ||
  s.net.flits.any (fun f => f.id == id) || s.hub.recs.any (fun r => r.id == id)

/-- The requests that are detached loads or have a read side and a reply (R290, R305). -/
def isReadRequest (r : Row) : Bool :=
  match r with
  | .ldm | .hbState | .shRd | .shChk | .msg | .atom | .cas | .cas2 | .ceRed | .ceProg | .barArrive | .barDrop | .barWait => true
  | _ => false

/-- A detached load of a slot that has not returned. -/
def State.loadOut (s : State) (n slot : Nat) (blk : Blk) : Bool :=
  s.hub.reqs.any (fun r => r.org.bu == n && r.org.slot == slot && !r.dead && isReadRequest r.row && !blk.early.contains r.id)

/-- A bank access of the matrix node of an earlier block of a slot, which a later acquire side waits for: a fill (R290, R294). -/
def Bu.fillOut (b : Bu) (slot : Nat) : Bool :=
  let mine (t : MxTok) : Bool := t.org.slot == slot && t.bankOff.isSome && bitsOf t.word.toNat 58 6 == 0x14
  b.node.inbox.any (fun t => mine t.tok) || b.node.started.any (fun t => mine t.tok)

/-- Every load, pop and acquire that stands before the cursor in its block has been served (R294). -/
def loadsServed (v : View) : Bool :=
  ((withIndex 0 v.instrs).take v.cur.op).all (fun x => match x.2.row, x.2.op? with
    | some r, some o => !(isBankLoad r || isPop r o || isDetachedLoad r || isExecAcquire r) || opFinished v.instrs v.c.blk x.1
    | _, _ => true)

/-- A fence is ready (R294): its acquire side, which comes after the acquires of earlier blocks too (R295), and for a full fence the
stores, pushes and messages of earlier blocks. What its own block sends only at its commit it cannot wait for: a store as R294 says, and a
request likewise (assumption 140, DEDUCED, unsafe); the commit holds what comes after the block instead. -/
def fenceReady (v : View) : Bool :=
  let acq := isAcqFence v.r
  v.o.modBits 0 3 = 0 ||
    ((!acq || (loadsServed v && !v.s.loadOut v.cur.bu v.cur.slot v.c.blk && !v.b.fillOut v.cur.slot && v.c.acquires.isEmpty)) &&
      (v.r != .fence || v.c.issued.all (fun id => !v.s.outstanding id)))

/-- The releases carried by the tokens that the block has popped before an operation. -/
def poppedRels (v : View) : List (Party × Nat × List Nat) :=
  (List.range 16).flatMap (fun q => match v.s.qiTokens v.cur.bu v.cur.slot q, popsBefore v q with
    | some (_, ts), some n => (ts.take n).flatMap (·.rel)
    | _, _ => [])

/-- The acquire side of a fence (R287, R290): it synchronises with what its loads and pops have returned. -/
def fenceAcquire (v : View) (scope : Nat) (s : State) : State :=
  (v.c.seen ++ poppedRels v).foldl (fun s r => synchronise s v.party scope r.1 r.2.1 r.2.2) s

/-- The pruning of a full fence (R288): performed writes of parties within its scope join its party's past at each of their bytes, with
every write before them there. -/
def fencePrune (p : Party) (scope : Nat) (s : State) : State :=
  (s.ms.done.filter (fun w => inScope s scope p w.party)).foldl (fun t w => { t with
    ms := t.ms.join p ((List.range w.bytes.length).flatMap (fun i => s.ms.upTo w (w.key + i))) }) s

/-- A fence of a kind (R293, R294); at `ctx` scope it has no effect. -/
def runFence (r : Row) (acq rel : Bool) (o : Op) (s : State) : State :=
  let scope := o.modBits 0 3
  let v := mkView s r o
  let ready := (match opSel v.c o with | some sel => sel % 2 == 1 | none => false) && commonReady v && fenceReady v && scope != 0
  let s1 := if ready && acq then fenceAcquire v scope s else s
  let s2 := if ready && acq && rel then fencePrune v.party scope s1 else s1
  runScalar r o s2 fenceReady (fun _ _ =>
    .ok (if scope = 0 then Res.none else Res.ofEff (.fence acq rel scope)))

/-- `fence`: a full fence. -/
def execFence (o : Op) (s : State) : Host.Outcome State Fault Refusal := nextState (runFence .fence true true o s)
/-- `fence.acq`. -/
def execFenceAcq (o : Op) (s : State) : Host.Outcome State Fault Refusal := nextState (runFence .fenceAcq true false o s)
/-- `fence.rls`. -/
def execFenceRls (o : Op) (s : State) : Host.Outcome State Fault Refusal := nextState (runFence .fenceRls false true o s)

end Sys2Proof.Machine
end

