-- ==== Sys2Proof/Machine/Requests.lean ====
section
/-!
DEFINITION. The operations that send requests: device access through a stream's buffer, handle operations, the operations of the
channel engines, ladder operations, work operations and firmware calls (R264, R274, R275, R277, R296 to R305, R326, R370, R406). Each
reads its operands and leaves a request; the step of the unit that serves it has its effect.
-/
namespace Sys2Proof.Machine

/-- An operation whose request leaves at the commit of its block (R64, R264, R297, R326, R370). -/
def runRequest (r : Row) (o : Op) (s : State) (fill : View → Srcs → Req → Except Stop Req) : State :=
  runScalar r o s always (fun v x =>
    match fill v x (mkReq v x) with
    | .ok q => .ok (Res.ofEff (.req q))
    | .error e => .error e)

/-- A request whose `sync` is that of R298. -/
def withSync (v : View) (q : Req) : Req := { q with sync := v.o.modBits 0 3 }

/-- A request of a handle: bits [31:0] of its operand (R259). -/
def onHandle (q : Req) : Req := { q with a := q.a % 2 ^ 32 }

/-! ### Scalar device access (R274, R275) -/

/-- The offset of `ldm`, `stm` and `prf`. -/
def devOffset (v : View) (x : Srcs) (size : Nat) : Nat := memOffset x (v.o.modBit 10) (dispOf v.o 8) size

/-- `ldm`: detached, sent as it issues; `a` is the offset (R275). -/
def execLdm (o : Op) (s : State) : Host.Outcome State Fault Refusal :=
  nextState (runScalar .ldm o s always (fun v x =>
    let off := devOffset v x v.o.ty.bytes
    if off % v.o.ty.bytes ≠ 0 then .error (.fault ⟨.devAlign, off, 0⟩) else .ok (sendNow v { mkReq v x with a := off })))

/-- `stm`: held to commit; `a` is the offset and `c` the value (R275). -/
def execStm (o : Op) (s : State) : Host.Outcome State Fault Refusal :=
  nextState (runRequest .stm o s (fun v x q =>
    let off := devOffset v x v.o.ty.bytes
    if off % v.o.ty.bytes ≠ 0 then .error (.fault ⟨.devAlign, off, 0⟩) else .ok { q with a := off }))

/-- `prf`: a refill and a read without effect, which never faults (R275). -/
def execPrf (o : Op) (s : State) : Host.Outcome State Fault Refusal :=
  nextState (runScalar .prf o s always (fun v x => .ok (sendNow v { mkReq v x with a := devOffset v x 1 })))

/-! ### Copy schedules (R277) -/

/-- `cstep`: at commit the stage counter rises by one. -/
def execCstep (o : Op) (s : State) : Host.Outcome State Fault Refusal :=
  nextState (runScalar .cstep o s always (fun _ _ => .ok (Res.ofEff (.cstep none))))

/-- `cstep a`: at commit the stage counter rises to a[7:0]. -/
def execCstepTo (o : Op) (s : State) : Host.Outcome State Fault Refusal :=
  nextState (runScalar .cstepTo o s always (fun _ x => .ok (Res.ofEff (.cstep (some (x.a % 2 ^ 8))))))

/-- `cstate`: a request for the counter of its launch. (assumption 39, DEDUCED, unsafe) -/
def execCstate (o : Op) (s : State) : Host.Outcome State Fault Refusal :=
  nextState (runRequest .cstate o s (fun _ _ q => .ok q))

/-! ### Handles (R263, R264) -/

/-- `hb.state`. -/
def execHbState (o : Op) (s : State) : Host.Outcome State Fault Refusal :=
  nextState (runRequest .hbState o s (fun _ _ q => .ok (onHandle q)))
/-- `hb.wait`: an acquire at its scope. -/
def execHbWait (o : Op) (s : State) : Host.Outcome State Fault Refusal :=
  nextState (runRequest .hbWait o s (fun v _ q => .ok { onHandle q with sync := v.o.modBits 4 3 + 1 }))
/-- `hb.set`: with `rel` a release at its scope. -/
def execHbSet (o : Op) (s : State) : Host.Outcome State Fault Refusal :=
  nextState (runRequest .hbSet o s (fun v _ q =>
    .ok { onHandle q with sync := if v.o.modBit 7 then v.o.modBits 4 3 + 1 else 0 }))
/-- `hb.pub`: a release at its scope. -/
def execHbPub (o : Op) (s : State) : Host.Outcome State Fault Refusal :=
  nextState (runRequest .hbPub o s (fun v _ q => .ok { onHandle q with sync := v.o.modBits 4 3 + 1 }))
/-- `hb.alloc`: `srcc` 0x00 means no shadow, marked by bit 64 of `c`. -/
def execHbAlloc (o : Op) (s : State) : Host.Outcome State Fault Refusal :=
  nextState (runRequest .hbAlloc o s (fun v x q => .ok { q with c := if v.o.c = Opnd.zero then 2 ^ 64 else x.c % 2 ^ 64 }))
/-- `hb.free`. -/
def execHbFree (o : Op) (s : State) : Host.Outcome State Fault Refusal :=
  nextState (runRequest .hbFree o s (fun _ _ q => .ok (onHandle q)))
/-- `sh.rd`. -/
def execShRd (o : Op) (s : State) : Host.Outcome State Fault Refusal :=
  nextState (runRequest .shRd o s (fun _ _ q => .ok (onHandle q)))
/-- `sh.chk`. -/
def execShChk (o : Op) (s : State) : Host.Outcome State Fault Refusal :=
  nextState (runRequest .shChk o s (fun _ _ q => .ok (onHandle q)))

/-! ### Channel engines (R296 to R305) -/

/-- The width of a memory operation (R301). -/
def memWidth (r : Row) (t : Ty) : Nat :=
  match r with
  | .cas2 => 16
  | .barInit | .barArrive | .barDrop | .barWait => 64
  | _ => t.bytes

/-- A memory operation of R301: a bank target is checked and made an absolute byte of the bank; a device target keeps its
offset. -/
def onMemory (v : View) (x : Srcs) (q : Req) : Except Stop Req :=
  let off := wrapNat 64 ((x.a : Int) + if v.o.modBit 10 then (x.b : Int) else 0)
  let w := memWidth v.r v.o.ty
  if v.o.modBit 9 then
    if off % w ≠ 0 then .error (.fault ⟨.devAlign, off, 0⟩) else .ok (withSync v { q with a := off })
  else
    let win := v.s.window v.cur.bu (v.o.modBits 7 2)
    if off % w ≠ 0 then .error (.fault ⟨.bankAlign, off, 0⟩)
    else if !inRange win off w then .error (.fault ⟨.bankRange, off, 0⟩)
    else .ok (withSync v { q with a := win.1 + off })

/-- `msg`: a 64-byte payload for a mailbox (R306). -/
def execMsg (o : Op) (s : State) : Host.Outcome State Fault Refusal :=
  nextState (runRequest .msg o s (fun v _ q => .ok (withSync v (onHandle q))))
/-- `atom` (R303). -/
def execAtom (o : Op) (s : State) : Host.Outcome State Fault Refusal := nextState (runRequest .atom o s onMemory)
/-- `cas` (R304): `b` the compare value, `c` the new one. -/
def execCas (o : Op) (s : State) : Host.Outcome State Fault Refusal := nextState (runRequest .cas o s onMemory)
/-- `cas2` (R304). -/
def execCas2 (o : Op) (s : State) : Host.Outcome State Fault Refusal := nextState (runRequest .cas2 o s onMemory)
/-- `red` (R303). -/
def execRed (o : Op) (s : State) : Host.Outcome State Fault Refusal := nextState (runRequest .red o s onMemory)
/-- `ce.red`: its descriptor (R307). -/
def execCeRed (o : Op) (s : State) : Host.Outcome State Fault Refusal :=
  nextState (runRequest .ceRed o s (fun v _ q => .ok (withSync v q)))
/-- `ce.prog`: its program handle and parameters (R310). -/
def execCeProg (o : Op) (s : State) : Host.Outcome State Fault Refusal :=
  nextState (runRequest .ceProg o s (fun v _ q => .ok (withSync v (onHandle q))))
/-- `bar.init` (R315). -/
def execBarInit (o : Op) (s : State) : Host.Outcome State Fault Refusal := nextState (runRequest .barInit o s onMemory)
/-- `bar.arrive` (R315). -/
def execBarArrive (o : Op) (s : State) : Host.Outcome State Fault Refusal := nextState (runRequest .barArrive o s onMemory)
/-- `bar.drop` (R315). -/
def execBarDrop (o : Op) (s : State) : Host.Outcome State Fault Refusal := nextState (runRequest .barDrop o s onMemory)
/-- `bar.wait` (R315): its `sync` is an acquire. -/
def execBarWait (o : Op) (s : State) : Host.Outcome State Fault Refusal := nextState (runRequest .barWait o s onMemory)

/-! ### Ladder (R331) -/

/-- A ladder request: its operands as they are, and its `sync`. -/
def runLadder (r : Row) (o : Op) (s : State) : State := runRequest r o s (fun v _ q => .ok (withSync v q))

/-- `sp.new` (R334). -/
def execSpNew (o : Op) (s : State) : Host.Outcome State Fault Refusal := nextState (runLadder .spNew o s)
/-- `sp.free` (R336). -/
def execSpFree (o : Op) (s : State) : Host.Outcome State Fault Refusal := nextState (runLadder .spFree o s)
/-- `lift` (R335). -/
def execLift (o : Op) (s : State) : Host.Outcome State Fault Refusal := nextState (runLadder .lift o s)
/-- `lower` (R335). -/
def execLower (o : Op) (s : State) : Host.Outcome State Fault Refusal := nextState (runLadder .lower o s)
/-- `recall` (R337). -/
def execRecall (o : Op) (s : State) : Host.Outcome State Fault Refusal := nextState (runLadder .recall o s)
/-- `probe` (R336). -/
def execProbe (o : Op) (s : State) : Host.Outcome State Fault Refusal := nextState (runLadder .probe o s)
/-- `drop` (R336). -/
def execDrop (o : Op) (s : State) : Host.Outcome State Fault Refusal := nextState (runLadder .drop o s)
/-- `sp.pin` (R336). -/
def execSpPin (o : Op) (s : State) : Host.Outcome State Fault Refusal := nextState (runLadder .spPin o s)
/-- `sp.unpin` (R336). -/
def execSpUnpin (o : Op) (s : State) : Host.Outcome State Fault Refusal := nextState (runLadder .spUnpin o s)
/-- `kv.app` (R347). -/
def execKvApp (o : Op) (s : State) : Host.Outcome State Fault Refusal := nextState (runLadder .kvApp o s)
/-- `pg.ref` (R346). -/
def execPgRef (o : Op) (s : State) : Host.Outcome State Fault Refusal := nextState (runLadder .pgRef o s)
/-- `pg.unref` (R346). -/
def execPgUnref (o : Op) (s : State) : Host.Outcome State Fault Refusal := nextState (runLadder .pgUnref o s)

/-! ### Work (R369, R370) -/

/-- `gl.launch`. -/
def execGlLaunch (o : Op) (s : State) : Host.Outcome State Fault Refusal := nextState (runLadder .glLaunch o s)
/-- `cnt.add`. -/
def execCntAdd (o : Op) (s : State) : Host.Outcome State Fault Refusal := nextState (runLadder .cntAdd o s)
/-- `cnt.rd`. -/
def execCntRd (o : Op) (s : State) : Host.Outcome State Fault Refusal := nextState (runLadder .cntRd o s)
/-- `cnt.wait`: its `sync` is an acquire. -/
def execCntWait (o : Op) (s : State) : Host.Outcome State Fault Refusal := nextState (runLadder .cntWait o s)
/-- `cancel`. -/
def execCancel (o : Op) (s : State) : Host.Outcome State Fault Refusal := nextState (runLadder .cancel o s)
/-- `done.phase`. -/
def execDonePhase (o : Op) (s : State) : Host.Outcome State Fault Refusal := nextState (runLadder .donePhase o s)
/-- `done.job`. -/
def execDoneJob (o : Op) (s : State) : Host.Outcome State Fault Refusal := nextState (runLadder .doneJob o s)

/-! ### Firmware calls (R406) -/

/-- A firmware call: a request without `sync`. -/
def runFwcall (r : Row) (o : Op) (s : State) : State := runRequest r o s (fun _ _ q => .ok q)

/-- `fwcall.id`. -/
def execFwcallId (o : Op) (s : State) : Host.Outcome State Fault Refusal := nextState (runFwcall .fwcallId o s)
/-- `fwcall.tick`. -/
def execFwcallTick (o : Op) (s : State) : Host.Outcome State Fault Refusal := nextState (runFwcall .fwcallTick o s)
/-- `fwcall.bell.imm`. -/
def execFwcallBell (o : Op) (s : State) : Host.Outcome State Fault Refusal := nextState (runFwcall .fwcallBell o s)
/-- `fwcall.health`. -/
def execFwcallHealth (o : Op) (s : State) : Host.Outcome State Fault Refusal := nextState (runFwcall .fwcallHealth o s)

end Sys2Proof.Machine
end

