-- ==== Sys2Proof/Machine/Log.lean ====
section
/-!
DEFINITION. Rounds, the write log and replay storage (R381 to R385), writes to a bank, triggers of streams and the copy schedule
(R190, R270, R276, R277).
-/
namespace Sys2Proof.Machine

/-! ### Room for entries -/

/-- The write log has room for more lines (R385). -/
def State.logRoom (s : State) (n k : Nat) : Bool := ((s.bu n).wlog.map (·.lines)).sum + k ≤ s.logSize n

/-- Replay storage has room for more lines beside its checkpoints (R383, R385). -/
def State.replayRoom (s : State) (n k : Nat) : Bool :=
  ((s.bu n).replay.map (·.lines)).sum + 28 * s.slotsUsed n + k ≤ s.replaySize n

/-! ### Streams and copy schedules -/

/-- A trigger of a stream (R270). -/
def Strm.trigger (t : Strm) (stamp : Nat) : Strm :=
  if 255 ≤ t.pend then { t with lost := true }
  else { t with pend := t.pend + 1, order := t.order ++ [stamp] }

/-- A trigger of stream k of a bank unit (R270). -/
def Bu.trigger (b : Bu) (k : Nat) : Bu :=
  let i := Fin.ofNat 16 k
  { b with strms := b.strms.set i (b.strms[i].trigger b.strmStamp), strmStamp := b.strmStamp + 1 }

/-- A copy entry whose stage the counter has reached is released, once, and triggers its stream (R276). -/
def releaseCopies (s : State) (id : Nat) : State :=
  match mapGet id s.hub.launches with
  | none => s
  | some l =>
    let due (e : CopyEnt) : Bool := !e.released && e.stage ≤ l.stage
    let s1 := s.modHub (fun h => { h with launches := mapMod id (fun l =>
      { l with copies := l.copies.map (fun e => if due e then { e with released := true } else e) }) h.launches })
    (l.copies.filter due).foldl (fun s e =>
      match s.regionBu l.region e.die e.x e.y with
      | some n => s.modBu n (fun b => b.trigger (4 * e.slot + e.stream))
      | none => s) s1

/-- Every instance of a launch has completed or stopped, on its placed region (R352). -/
def State.instancesOver (s : State) (id : Nat) : Bool :=
  match (mapGet id s.hub.launches).bind (fun l => mapGet l.region s.hub.regions) with
  | some r => r.place.isSome && (s.regionBus r).all (fun n => [0, 1, 2, 3].all (fun k => (s.ctx n k).launch ≠ some id))
  | none => false

/-- `cstep` (R277): the counter of a launch rises, at most to 255, or to at least a value. Once every instance of the launch has ended,
it releases no further stage (R352). -/
def stepCopies (s : State) (id : Nat) (atLeast : Option Nat) : State :=
  let s1 := s.modHub (fun h => { h with launches := mapMod id (fun l =>
    { l with stage := match atLeast with | none => min (l.stage + 1) 255 | some v => max l.stage v }) h.launches })
  if s.instancesOver id then s1 else releaseCopies s1 id

/-! ### Publication (R384, R385) -/

/-- A held request leaves through the outbound queue; a `cstep` takes its effect. -/
def releaseReq (s : State) (id : Nat) : State :=
  match s.hub.reqs.find? (fun r => r.id == id) with
  | none => s
  | some r =>
    match r.row with
    | .cstep => stepCopies (s.modHub (fun h => { h with reqs := h.reqs.filter (fun q => q.id != id) })) r.org.launch none
    | .cstepTo => stepCopies (s.modHub (fun h => { h with reqs := h.reqs.filter (fun q => q.id != id) })) r.org.launch (some r.a)
    | _ => s.modHub (fun h => { h with reqs := h.reqs.map (fun q => if q.id == id then { q with stage := .queued } else q) })

/-- A logged line of a stream may perform. -/
def releaseLine (s : State) (id : Nat) : State :=
  { s with ms := { s.ms with pending := s.ms.pending.map (fun w => if w.w.id == id then { w with logged := false } else w) } }

/-- An entry of a bank unit's log is published. -/
def publishItem (n : Nat) (s : State) (i : LogItem) : State :=
  match i with
  | .req id => releaseReq s id
  | .line w => releaseLine s w
  | .undo _ _ => s
  | .poison slot block route =>
    let o := s.originOf n slot block 0 0
    s.post (mkRec s o .poison true 0 route) 0 o

/-- The entries of a bank unit that a test takes are published in log order and leave the log. -/
def publishBu (take : LogEnt → Bool) (s : State) (n : Nat) : State :=
  let out := (s.bu n).wlog.filter take
  let s1 := s.modBu n (fun b => { b with wlog := b.wlog.filter (fun e => !take e) })
  out.foldl (fun s e => publishItem n s e.item) s1

/-- A round of a region becomes non-replayable (R385): every bank unit publishes its held entries of it. (assumption 47, DEDUCED, safe) -/
def makeNorep (s : State) (rid rd : Nat) : State :=
  match mapGet rid s.hub.regions with
  | none => s
  | some r =>
    if r.norepRounds.contains rd then s
    else
      let s1 := s.modRegion rid (fun g => { g with norepRounds := g.norepRounds ++ [rd] })
      (s.regionBus r).foldl (publishBu (fun e => e.round == rd)) s1

/-- A round that the running launch has opened (R382). -/
def openUpTo (s : State) (n rd : Nat) : State :=
  match (s.bu n).region with
  | some rid => s.modRegion rid (fun g => { g with opened := max g.opened (rd + 1) })
  | none => s

/-- An entry put in a write log when its round is replayable and there is room; the flag says that it was. Without room the
round becomes non-replayable (R385). -/
def logItem (s : State) (n rd lines : Nat) (i : LogItem) : Bool × State :=
  if !s.replayable n rd then (false, s)
  else if s.logRoom n lines then
    (true, openUpTo (s.modBu n (fun b => { b with wlog := b.wlog ++ [{ round := rd, lines := lines, item := i }] })) n rd)
  else (false, match (s.bu n).region with | some rid => makeNorep s rid rd | none => s)

/-- An entry put in replay storage (R383, R385). -/
def logReplay (s : State) (n rd lines : Nat) (i : ReplayItem) : State :=
  if !s.replayable n rd then s
  else if s.replayRoom n lines then
    s.modBu n (fun b => { b with replay := b.replay ++ [{ round := rd, lines := lines, item := i }] })
  else match (s.bu n).region with | some rid => makeNorep s rid rd | none => s

/-- The requests that a replayable round holds (R383). -/
def isHeldRow (r : Row) : Bool :=
  match r with
  | .stm | .msg | .atom | .cas | .cas2 | .red | .ceRed | .ceProg | .barInit | .barArrive | .barDrop | .barWait | .cstep
  | .cstepTo | .hbSet | .hbPub | .hbAlloc | .hbFree | .spNew | .spFree | .lift | .lower | .recall | .drop | .spPin | .spUnpin
  | .kvApp | .pgRef | .pgUnref | .glLaunch | .cntAdd | .cancel | .donePhase | .doneJob => true
  | _ => false

/-- The lines a held request takes (R383). -/
def heldLines (r : Row) : Nat := match r with | .msg | .ceRed | .ceProg => 2 | _ => 1

/-! ### Writes to a bank (R190, R383) -/

/-- The earlier contents of a line are kept for undo when a replayable round first writes it. -/
def logUndo (s : State) (n rd line : Nat) : State :=
  let has := (s.bu n).wlog.any (fun e => e.round == rd && (match e.item with | .undo l _ => l == line | _ => false))
  if has then s else (logItem s n rd 2 (.undo line ((s.bu n).bank.readBytes (64 * line) 64))).2

/-- The lines that bytes touch. -/
def linesOf (addr len : Nat) : List Nat := (List.range ((addr + len + 63) / 64 - addr / 64)).map (· + addr / 64)

/-- Bytes written at the bank port: words written whole become good again, and a store after a release fence is no longer what a
load of these bytes returns. -/
def bankPut (s : State) (n addr : Nat) (bytes : List Byte) : State :=
  s.modBu n (fun b => { b with
    bank := b.bank.writeBytes addr bytes,
    badWords := b.badWords.filter (fun w => !(addr ≤ 8 * w && 8 * w + 8 ≤ addr + bytes.length)),
    rels := b.rels.filter (fun r => !(r.fence && addr ≤ r.addr && r.addr + r.size ≤ addr + bytes.length)) })

/-- A write to a bank, with undo entries when its round is replayable. -/
def bankWrite (s : State) (n rd addr : Nat) (bytes : List Byte) : State :=
  if bytes.isEmpty then s
  else bankPut ((linesOf addr bytes.length).foldl (fun s l => logUndo s n rd l) s) n addr bytes

end Sys2Proof.Machine
end

