-- ==== Sys2Proof/Machine/Queues.lean ====
section
/-!
DEFINITION. The queue instructions and the rate instructions (R110 to R114, R127 to R132).
-/
namespace Sys2Proof.Machine

/-! ### Channels as an image declares them -/

/-- A send entry of an image with the offset it stands at. -/
structure ChanSend where
  die : Nat
  x : Nat
  y : Nat
  ent : Route
deriving DecidableEq, Repr

/-- The offsets of an image that hold route entries, each once, in rising order of frames. -/
def Image.routeOffsets (im : Image) : List (Nat × Nat × Nat) :=
  (im.frames.filter (fun f => f.layout == 3)).foldl (fun acc f =>
    if acc.contains (f.die, f.x, f.y) then acc else acc ++ [(f.die, f.x, f.y)]) []

/-- The send entries of a route, the primary first (R119). -/
def Image.sendsOf (im : Image) (route : Nat) : List ChanSend :=
  im.routeOffsets.flatMap (fun o => (im.routesAt o.1 o.2.1 o.2.2).filterMap (fun e => match e.2 with
    | .send r .. => if r = route then some ⟨o.1, o.2.1, o.2.2, e.2⟩ else none
    | _ => none))

/-- Whether a route is controlled: the receive entry of its primary consumer says so (R117, R120). -/
def Image.controlled (im : Image) (route : Nat) : Bool :=
  match im.sendsOf route with
  | c :: _ =>
    match c.ent with
    | .send _ die x y false slot qi .. => match qiOf (im.routesAt die x y) slot qi with | some q => q.rate | none => false
    | _ => false
  | [] => false

/-- The QIs of a slot that have a channel declared. -/
def declaredQis (rs : List (Nat × Route)) (slot : Nat) : List Nat :=
  (List.range 16).filter (fun k => (qiOf rs slot k).isSome)

/-- The QOs of a slot that have a channel declared. -/
def declaredQos (rs : List (Nat × Route)) (slot : Nat) : List Nat :=
  (List.range 16).filter (fun k => !(qoOf rs slot k).isEmpty)

/-! ### Queue instructions -/

/-- The immediate of a queue instruction. -/
def queueImm (o : Op) : Nat := ((o.imm28.getD 0).toNat)

/-- The tokens of a QI that the block has not popped yet. -/
def View.leftIn (v : View) (q : Nat) : Option (List Token) :=
  match v.s.qiTokens v.cur.bu v.cur.slot q, popsBefore v q with
  | some (_, ts), some n => some (ts.drop n)
  | _, _ => none

/-- A `qmark` is ready when each declared QI has a marker of the context's round next (R128), and the region has committed the
round before the one it closes (R382). -/
def qmarkReady (v : View) : Bool :=
  (match v.s.regionOf v.cur.bu with
    | some r => v.cur.slot = 4 || r.running.isNone || v.round == r.commits % 4096
    | none => true) &&
  (declaredQis v.rts v.cur.slot).all (fun q => match v.leftIn q with
    | some (t :: _) => t.kind == .marker && t.round == v.round
    | _ => false)

/-- `qmark` (R127, R128): the markers popped and the round closed at commit. -/
def execQmark (o : Op) (s : State) : Host.Outcome State Fault Refusal :=
  nextState (runScalar .qmark o s qmarkReady (fun v _ =>
    .ok { Res.none with effs := (declaredQis v.rts v.cur.slot).map (fun q => .pop q 1) ++ [.qmark] }))

/-- The QO a destination names. -/
def qoIndex (d : Opnd) : Nat := match d.reg with | .qo i => i.val | _ => 0

/-- `qpoison` (R131). -/
def execQpoison (o : Op) (s : State) : Host.Outcome State Fault Refusal :=
  nextState (runScalar .qpoison o s always (fun v _ => .ok (Res.ofEff (.poison (qoIndex v.o.dst)))))

/-- `qlast` (R131): 64 bytes of a V source, else 8. -/
def execQlast (o : Op) (s : State) : Host.Outcome State Fault Refusal :=
  nextState (runScalar .qlast o s always (fun v x =>
    let payload := match v.o.a.reg with | .v _ => x.a | _ => x.a % 2 ^ 64
    .ok (Res.ofEff (.push (qoIndex v.o.dst) (BitVec.ofNat 512 payload) true))))

/-- What a queue instruction without its token does: it waits, or with its trap bit faults (R131). -/
def noToken (o : Op) : Stop := if bitOf (queueImm o) 8 then faultCode .empty else .wait

/-- `qpeek` (R131). -/
def execQpeek (o : Op) (s : State) : Host.Outcome State Fault Refusal :=
  nextState (runScalar .qpeek o s always (fun v _ =>
    match v.leftIn (bitsOf (queueImm o) 0 4) with
    | none => .error .wait
    | some [] => .error (noToken o)
    | some (t :: _) =>
      if bitOf (queueImm o) 9 then .ok (Res.ofVal t.sideband)
      else
        match v.o.dst.reg with
        | .v _ => .ok (Res.ofVal t.payload.toNat)
        | _ => .ok (Res.ofVal (t.payload.toNat % 2 ^ 64))))

/-- `qcnt` (R131): occupancy of a QI, room of a QO. -/
def execQcnt (o : Op) (s : State) : Host.Outcome State Fault Refusal :=
  nextState (runScalar .qcnt o s always (fun v _ =>
    let q := bitsOf (queueImm o) 0 5
    if q < 16 then
      match v.s.qiTokens v.cur.bu v.cur.slot q with
      | some (_, ts) => .ok (Res.ofVal ts.length)
      | none => .ok (Res.ofVal 0)
    else .ok (Res.ofVal (v.b.room (qoOf v.rts v.cur.slot (q - 16))))))

/-- How many of the first n tokens stand before a boundary. -/
def runLength (round : Nat) : Nat → List Token → Nat
  | 0, _ => 0
  | _ + 1, [] => 0
  | n + 1, t :: rest => if t.isBoundary round then 0 else 1 + runLength round n rest

/-- `qdrop` (R131). -/
def execQdrop (o : Op) (s : State) : Host.Outcome State Fault Refusal :=
  nextState (runScalar .qdrop o s always (fun v _ =>
    let q := bitsOf (queueImm o) 0 4
    let n := bitsOf (queueImm o) 12 9
    match v.leftIn q with
    | none => .error .wait
    | some ts =>
      let k := runLength v.round n ts
      if k < n && ts.length ≤ k then .error (noToken o)
      else .ok { Res.ofVal k with effs := if k = 0 then [] else [.pop q k] }))

/-- `qwaitr` (R131). -/
def execQwaitr (o : Op) (s : State) : Host.Outcome State Fault Refusal :=
  nextState (runScalar .qwaitr o s always (fun v _ =>
    match v.leftIn (bitsOf (queueImm o) 0 4) with
    | none => .error .wait
    | some ts =>
      match ts.findIdx? (fun t => t.kind == .marker && t.round == v.round) with
      | some k => .ok (Res.ofVal k)
      | none => .error (noToken o)))

/-- The value of `qfmt` (R132). -/
def fmtWord (route fmt form : Nat) (rate : Bool) (consumers cap : Nat) : Nat :=
  route + fmt * 2 ^ 16 + form * 2 ^ 24 + (if rate then 2 ^ 26 else 0) + (consumers - 1) * 2 ^ 27 + cap * 2 ^ 32

/-- `qfmt` (R131, R132). -/
def execQfmt (o : Op) (s : State) : Host.Outcome State Fault Refusal :=
  nextState (runScalar .qfmt o s always (fun v _ =>
    let q := bitsOf (queueImm o) 0 5
    match v.s.imageOf v.cur.bu with
    | none => .ok (Res.ofVal 0)
    | some im =>
      if q < 16 then
        match qiOf v.rts v.cur.slot q with
        | some e => .ok (Res.ofVal (fmtWord e.route e.fmt e.form (im.controlled e.route) (im.sendsOf e.route).length e.cap))
        | none => .ok (Res.ofVal 0)
      else
        match qoOf v.rts v.cur.slot (q - 16) with
        | e :: rest => .ok (Res.ofVal (fmtWord e.route e.fmt e.form (im.controlled e.route) (rest.length + 1) e.cap))
        | [] => .ok (Res.ofVal 0)))

/-! ### Rate instructions -/

/-- `rate.set`: a field of the controller at this consumer end, written at commit (R112). -/
def execRateSet (o : Op) (s : State) : Host.Outcome State Fault Refusal :=
  nextState (runScalar .rateSet o s always (fun _ x =>
    .ok (Res.ofEff (.rateSet (bitsOf (queueImm o) 0 4) (bitsOf (queueImm o) 8 4) (BitVec.ofNat 64 x.a)))))

/-- `rate.rd`: a request to the controller entry of a channel, sent as it issues (R113); `a` is the queue field, `b` the
selector. -/
def execRateRd (o : Op) (s : State) : Host.Outcome State Fault Refusal :=
  nextState (runScalar .rateRd o s always (fun v x =>
    .ok (sendNow v { mkReq v x with a := bitsOf (queueImm o) 0 5, b := bitsOf (queueImm o) 8 4 })))

/-- `rate.w`: the context's own weight registers, at commit (R102, R114). -/
def execRateW (o : Op) (s : State) : Host.Outcome State Fault Refusal :=
  nextState (runScalar .rateW o s always (fun v x =>
    .ok (Res.ofEff (.rateW (v.o.modBits 0 2) (BitVec.ofNat 64 x.a)))))

end Sys2Proof.Machine
end

