-- ==== Sys2Proof/Machine/Special.lean ====
section
/-!
DEFINITION. Special registers: their reads, their writes at commit, and the instructions that reach them; the weights of the
arbiter (R91 to R93, R99, R102, R189, R242, R278, R348, R378); `frz`, `thaw`, `mx.deg` and `rns.inj`, which hold one effect.
-/
namespace Sys2Proof.Machine

/-! ### Weights (R102) -/

/-- A write to `w`: saturated to 0..255, then held to the floor and ceiling. -/
def writeW (c : Ctx) (v : Int) : Ctx := { c with w := (satInt (satInt v 0 255) c.wmin c.wmax).toNat }

/-- A write to `wmin`: ignored when it exceeds `wmax`. -/
def writeWmin (c : Ctx) (v : Int) : Ctx :=
  let x := (satInt v 0 255).toNat
  if c.wmax < x then c else let c1 := { c with wmin := x }; { c1 with w := (satInt c1.w c1.wmin c1.wmax).toNat }

/-- A write to `wmax`: ignored when it is below `wmin`. -/
def writeWmax (c : Ctx) (v : Int) : Ctx :=
  let x := (satInt v 0 255).toNat
  if x < c.wmin then c else let c1 := { c with wmax := x }; { c1 with w := (satInt c1.w c1.wmin c1.wmax).toNat }

/-- A write to one of the three, by its number: 0 `w`, 1 `wmin`, 2 `wmax` (R110, R114). -/
def writeWeight (which : Nat) (v : Word) (c : Ctx) : Ctx :=
  match which with
  | 0 => writeW c v.toInt
  | 1 => writeWmin c v.toInt
  | _ => writeWmax c v.toInt

/-! ### Reads -/

/-- The state code of R55. -/
def CtxState.code : CtxState → Nat
  | .idle => 0 | .active => 1 | .fetch => 2 | .faulted => 3 | .ending => 4 | .stopped => 5

/-- A map of bits: those whose test holds. -/
def bitMap (n : Nat) (f : Nat → Bool) : Nat := ((List.range n).filter f).foldl (fun acc k => acc + 2 ^ k) 0

/-- A register is pending. (assumption 129, DEDUCED, unsafe) -/
def RegState.isPend : RegState → Bool
  | .pending _ => true
  | _ => false

/-- The pending map, or the failed map, of R93. -/
def regMap (r : Regs) (f : RegState → Bool) : Nat :=
  bitMap 32 (fun k => f r.g[Fin.ofNat 32 k].st) + bitMap 8 (fun k => f r.v[Fin.ofNat 8 k].st) * 2 ^ 32 +
    bitMap 8 (fun k => k != 0 && f r.p[Fin.ofNat 8 k].st) * 2 ^ 40

/-- Whether QI k of a slot ends a controlled channel (R100). -/
def State.qiControlled (s : State) (n slot k : Nat) : Bool :=
  match qiOf (s.routes n) slot k with
  | some e => e.rate
  | none => false

/-- The bank unit and controller entry at the primary consumer of a QO's channel, when it is a context (R100, R113). -/
def State.qoConsumer (s : State) (n slot k : Nat) : Option (Nat × QiEnt × Nat) :=
  match qoOf (s.routes n) slot k, (s.bu n).region with
  | e :: _, some r =>
    if e.toop then none
    else
      match s.regionBu r e.die e.x e.y with
      | some m => (qiOf (s.routes m) e.slot e.qi).map (fun q => (m, q, e.slot * 16 + e.qi))
      | none => none
  | _, _ => none

/-- `ctx.cmap` (R99). -/
def State.cmap (s : State) (n slot : Nat) : Nat :=
  bitMap 16 (fun k => s.qiControlled n slot k) +
    bitMap 16 (fun k => match s.qoConsumer n slot k with | some (_, q, _) => q.rate | none => false) * 2 ^ 16

/-- A stream waits for an address generator slot or a handle (R278). -/
def Bu.strmWaits (b : Bu) (st : Strm) : Bool :=
  match st.run with
  | some r => !r.waitH.isEmpty
  | none => 0 < st.pend && 4 ≤ (b.strms.toList.filter (fun x => x.run.isSome)).length

/-- `ag.s` of a stream (R278). -/
def Bu.agStatus (b : Bu) (k : Nat) : Nat :=
  let st := b.strms[Fin.ofNat 16 k]
  st.pend + (if st.run.isSome then 2 ^ 8 else 0) + (if b.strmWaits st then 2 ^ 9 else 0) + (if st.failed then 2 ^ 10 else 0) +
    (if st.lost then 2 ^ 11 else 0) + (st.runs % 2 ^ 16) * 2 ^ 16

/-- Four guard counts as one word (R243). -/
def Bu.guards (s : State) (n lo : Nat) (b : Bu) : Nat :=
  let rns := bitsOf (s.const n 31) 24 8
  ((List.range 4).map (fun k => if bitOf rns (lo + k) then (b.node.tiles[Fin.ofNat 8 (lo + k)]).guard * 2 ^ (16 * k) else 0)).sum

/-- `rgn.stat` (R378), given whether the current round is non-replayable. (assumption 41, DEDUCED, unsafe) -/
def Region.stat (r : Region) (norep : Bool) : Nat :=
  r.shown % 2 ^ 12 + (if norep then 2 ^ 12 else 0) + (if r.dual then 2 ^ 13 else 0) + (min r.rb 255) * 2 ^ 16 +
    (min r.rbtotal (2 ^ 24 - 1)) * 2 ^ 24

/-- A read of a slot's special register: its committed value (R91, R92, R99). `own` is the running block of the reader, when the slot
is its own: it keeps the scheduling state from before it, which changes without a commit. -/
def sprRead (s : State) (n slot num : Nat) (own : Option Blk) : Nat :=
  let b := s.bu n
  let c := b.ctx slot
  let r := c.regs
  if num < 0x10 then
    match num with
    | 0x0 => r.bc.toNat
    | 0x1 => c.st.code
    | 0x2 => r.flags.toNat
    | 0x3 => r.fmask.toNat
    | 0x4 => r.ovr.toNat
    | 0x5 => r.seed.toNat
    | 0x6 => r.rng.toNat
    | 0x7 => r.expsplit
    | 0x8 => r.round
    | 0x9 => r.depth
    | 0xA => regMap r RegState.isPend
    | 0xB => regMap r (· == .failed)
    | _ => 0
  else if num < 0x20 then r.stack[Fin.ofNat 8 num].toNat
  else if num < 0x40 then r.g[Fin.ofNat 32 num].val.toNat
  else if num < 0x80 then laneOf 64 (r.v[Fin.ofNat 8 ((num - 0x40) / 8)].val.toNat) (num % 8)
  else if num < 0x88 then r.p[Fin.ofNat 8 num].val.toNat
  else if num < 0x100 then
    match num with
    | 0xC0 => match own with | some k => k.wAt | none => c.w
    | 0xC1 => c.wmin
    | 0xC2 => c.wmax
    | 0xC3 => match own with | some k => k.passAt | none => c.pass
    | 0xC4 => s.cmap n slot
    | 0xC5 => wrapNat 64 (match own with | some k => k.adjAt | none => c.lastadj)
    | _ => 0
  else if num < 0x105 then
    match b.hrun with
    | none => 0
    | some h => if num = 0x100 then h.slot + 4 else h.record.word (num - 0x101)
  else if num = 0x110 then b.sec
  else if num = 0x111 then (match b.eccLine with | some l => l % 2 ^ 11 + 2 ^ 16 | none => 0)
  else if num < 0x127 then
    match num with
    | 0x120 => b.rns.mode
    | 0x121 => b.rns.auto
    | 0x122 => b.rns.gdis.toNat
    | 0x123 => (withIndex 0 b.rns.cnt).foldl (fun acc x => acc + x.2 * 2 ^ (8 * x.1)) 0
    | 0x124 => b.rns.injs
    | 0x125 => b.guards s n 0
    | _ => b.guards s n 4
  else if num < 0x140 then b.agStatus (num - 0x130)
  else if num < 0x154 then
    match num with
    | 0x150 => b.kv.cfg
    | 0x151 => b.kv.lim
    | 0x152 => b.kv.base
    | _ => if b.kv.tol then 1 else 0
  else if num < 0x164 then b.reply[Fin.ofNat 4 num].toNat
  else
    match s.regionOf n with
    | none => 0
    | some g =>
      match num with
      | 0x164 => g.hang
      | 0x165 => g.map
      | _ => g.stat (!s.replayable n g.commits)

/-! ### Writes at commit -/

/-- A V register with one of its 8-byte words replaced; it turns full (R91). -/
def writeVWord (r : Regs) (k word : Nat) (v : Word) : Regs :=
  let i := Fin.ofNat 8 k
  let old := r.v[i].val.toNat
  let new := old - bitsOf old (64 * word) 64 * 2 ^ (64 * word) + v.toNat * 2 ^ (64 * word)
  { r with v := r.v.set i ⟨BitVec.ofNat 512 new, .full⟩ }

/-- `flt.reply` as it is stored (R378): kind 3 as 0, bits [4:2] and [63:57] zero. -/
def fltReplyStored (v : Word) : Word :=
  let n := v.toNat
  let kind := bitsOf n 0 2
  BitVec.ofNat 64 ((if kind = 3 then 0 else kind) + bitsOf n 5 52 * 2 ^ 5)

/-- A write of a slot's own registers (R92, R93, R99): `byH` is set when slot H writes. (assumption 33, DEDUCED, unsafe) -/
def writeCtxSpr (c : Ctx) (num : Nat) (v : Word) (byH : Bool) : Ctx :=
  let n := v.toNat
  if num = 0x002 then c.modRegs (fun r => { r with flags := BitVec.ofNat 8 n })
  else if num = 0x003 then c.modRegs (fun r => { r with fmask := BitVec.ofNat 8 n })
  else if num = 0x004 then c.modRegs (fun r => { r with ovr := BitVec.ofNat 4 n })
  else if num = 0x005 then c.modRegs (fun r => { r with seed := v })
  else if num = 0x007 then c.modRegs (fun r => { r with expsplit := min n 16 })
  else if 0x0C0 ≤ num && num ≤ 0x0C2 then writeWeight (num - 0x0C0) v c
  else if !byH then c
  else if num = 0x000 then c.modRegs (fun r => { r with bc := BitVec.ofNat 16 n })
  else if num = 0x009 then c.modRegs (fun r => { r with depth := min n 8 })
  else if 0x010 ≤ num && num ≤ 0x017 then c.modRegs (fun r => { r with stack := r.stack.set (Fin.ofNat 8 num) (BitVec.ofNat 16 n) })
  else if 0x020 ≤ num && num ≤ 0x03F then c.modRegs (fun r => { r with g := r.g.set (Fin.ofNat 32 num) ⟨v, .full⟩ })
  else if 0x040 ≤ num && num ≤ 0x07F then c.modRegs (fun r => writeVWord r ((num - 0x40) / 8) (num % 8) v)
  else if 0x081 ≤ num && num ≤ 0x087 then c.modRegs (fun r => { r with p := r.p.set (Fin.ofNat 8 num) ⟨v, .full⟩ })
  else c

/-- A write of a special register at commit (R91): a handler's write to a context that is not FAULTED is ignored, and so is a
write to an RO register. -/
def sprWrite (s : State) (n slot : Nat) (w : SprWrite) : State :=
  let byH := slot = 4
  if w.num < 0x100 then
    if w.slot ≠ slot && (s.ctx n w.slot).st ≠ .faulted then s
    else s.modCtx n w.slot (fun c => writeCtxSpr c w.num w.val byH)
  else
    let v := w.val.toNat
    match w.num with
    | 0x121 => s.modBu n (fun b => { b with rns := { b.rns with auto := v % 256 } })
    | 0x122 => s.modBu n (fun b => { b with rns := { b.rns with gdis := BitVec.ofNat 8 v } })
    | 0x150 => s.modBu n (fun b => { b with kv := { b.kv with cfg := v % 2 ^ 29 } })
    | 0x151 => s.modBu n (fun b => { b with kv := { b.kv with lim := v % 2 ^ 33 } })
    | 0x152 => s.modBu n (fun b => { b with kv := { b.kv with base := v % 2 ^ 32 } })
    | 0x153 => s.modBu n (fun b => { b with kv := { b.kv with tol := v % 2 == 1 } })
    | 0x164 => match (s.bu n).region with | some r => s.modRegion r (fun g => { g with hang := v % 2 ^ 32 }) | none => s
    | 0x165 => match (s.bu n).region with | some r => s.modRegion r (fun g => { g with map := v % 2 ^ 32 }) | none => s
    | k =>
      if 0x160 ≤ k && k ≤ 0x163 then
        s.modBu n (fun b => { b with reply := b.reply.set (Fin.ofNat 4 k) (fltReplyStored w.val) })
      else s

/-! ### The instructions -/

/-- The slot a selector reaches (R91): its own, or that of `slot` with `other` set. (assumption 31, DEDUCED, unsafe) -/
def sprSlot (own sel : Nat) : Nat := if bitOf sel 15 then bitsOf sel 13 2 else own

/-- `spr.rd`: the committed value of a special register (R91). -/
def execSprRd (o : Op) (s : State) : Host.Outcome State Fault Refusal :=
  nextState (runScalar .sprRd o s always (fun v _ =>
    let sel := immValue v.cur v.o
    .ok (Res.ofVal (sprRead v.s v.cur.bu (sprSlot v.cur.slot sel) (bitsOf sel 0 12)
      (if bitOf sel 15 then none else some v.c.blk)))))

/-- `spr.wr`: a write held until commit (R91). -/
def execSprWr (o : Op) (s : State) : Host.Outcome State Fault Refusal :=
  nextState (runScalar .sprWr o s always (fun v x =>
    let sel := immValue v.cur v.o
    .ok (Res.ofEff (.spr ⟨sprSlot v.cur.slot sel, bitsOf sel 0 12, BitVec.ofNat 64 x.a⟩))))

/-- `frz`: at commit a freeze wave over the bank unit or the region (R392). -/
def execFrz (o : Op) (s : State) : Host.Outcome State Fault Refusal :=
  nextState (runScalar .frz o s always (fun v _ => .ok (Res.ofEff (.freeze (v.o.modBits 0 3 == 2)))))

/-- `thaw`: at commit what `frz` froze resumes (R392). -/
def execThaw (o : Op) (s : State) : Host.Outcome State Fault Refusal :=
  nextState (runScalar .thaw o s always (fun v _ => .ok (Res.ofEff (.thaw (v.o.modBits 0 3 == 2)))))

/-- `mx.deg`: at commit the channel is dropped (R240, R251). -/
def execMxDeg (o : Op) (s : State) : Host.Outcome State Fault Refusal :=
  nextState (runScalar .mxDeg o s always (fun v _ => .ok (Res.ofEff (.mxDeg (v.o.modBits 0 3)))))

/-- `rns.inj`: Fault(TEST_MODE) outside test mode; else at commit `rns.injs` is loaded (R252). -/
def execRnsInj (o : Op) (s : State) : Host.Outcome State Fault Refusal :=
  nextState (runScalar .rnsInj o s always (fun v _ =>
    if v.s.out.testMode then .ok (Res.ofEff (.inject (bitsOf (immValue v.cur v.o) 0 20)))
    else .error (faultCode .testMode)))

end Sys2Proof.Machine
end

