-- ==== Sys2Proof/Machine/Tokens.lean ====
section
/-!
DEFINITION. Sending tokens and returning credits (R119, R124, R125), and what the streams of a context own (R269).
-/
namespace Sys2Proof.Machine

/-- A fabric of bank units keeps flits in the order of their sending. -/
def State.modNet (s : State) (f : Net → Net) : State := { s with net := f s.net }

/-- The operator entry at a bank unit with an input that names a route, and which input: 0 `ina`, 1 `inb`, 2 `ctl`. -/
def operInput (rs : List (Nat × Route)) (route : Nat) : Option (Nat × Nat) :=
  rs.findSome? (fun e => match e.2 with
    | .oper _ ina inb ctl _ _ =>
      if ina = route then some (e.1, 0) else if inb = route then some (e.1, 1) else if ctl = route then some (e.1, 2) else none
    | _ => none)

/-- The age of a flit of a number that a bank unit sends now: flits of one cycle have the same (R124). -/
def Bu.ageNow (b : Bu) (id : Nat) : Nat := if b.sendAge.1 = b.cycle && b.sendAge.2 ≠ 0 then b.sendAge.2 else id

/-- A token sent by a send entry of a bank unit: a credit spent and a flit on its way (R124, R125). -/
def sendBy (s : State) (n : Nat) (after hold : List Nat) (t : Token) (e : SendEnt) : State :=
  match (s.bu n).region.bind (fun rid => s.regionBu rid e.die e.x e.y) with
  | none => s
  | some m =>
    let goal : Option (Nat × Option Nat) :=
      if e.toop then (operInput (s.routes m) e.route).map (fun x => (x.1, some x.2))
      else (qiOf (s.routes m) e.slot e.qi).map (fun q => (q.entry, none))
    match goal with
    | none => s
    | some (entry, input) =>
      let (id, s1) := s.fresh
      let age := (s.bu n).ageNow id
      (s1.modBu n (fun b => { b with credits := mapSet e.entry (b.credit e - 1) b.credits, sendAge := (b.cycle, age) })).modNet
        (fun net => { net with flits := net.flits ++ [{ id := id, age := age, tok := { t with route := e.route }, at_ := n, dest := m,
                                                        entry := entry, input := input, after := after, hold := hold, crossed := false }] })

/-- A token sent to every consumer of a producer end. -/
def sendAll (s : State) (n : Nat) (es : List SendEnt) (after hold : List Nat) (t : Token) : State :=
  es.foldl (fun s e => sendBy s n after hold t e) s

/-- The bank unit and send entry of a channel's producer end for one consumer: a context's QI, or an operator's input
(R119, R125). -/
def State.creditHome (s : State) (n route : Nat) (toop : Bool) (slot qi : Nat) : Option (Nat × Nat) :=
  match s.imageOf n, (s.bu n).region with
  | some im, some rid =>
    let b := s.bu n
    im.routeOffsets.findSome? (fun o => (im.routesAt o.1 o.2.1 o.2.2).findSome? (fun e => match e.2 with
      | .send r d x y t sl q .. =>
        if r = route && d = b.offDie && x = b.offX && y = b.offY && t = toop && (toop || (sl = slot && q = qi)) then
          (s.regionBu rid o.1 o.2.1 o.2.2).map (fun m => (m, e.1))
        else none
      | _ => none))
  | _, _ => none

/-- A flit of the rate class. -/
def sendCtl (s : State) (src dest : Nat) (m : CtlMsg) : State :=
  let (id, s1) := s.fresh
  s1.modNet (fun net => { net with ctl := net.ctl ++ [{ id := id, src := src, dest := dest, msg := m }] })

/-- Credits returned by a consumer (R125). -/
def returnCredits (s : State) (n route : Nat) (toop : Bool) (slot qi k : Nat) : State :=
  if k = 0 then s
  else match s.creditHome n route toop slot qi with
    | some (m, entry) => sendCtl s n m (.credit entry k)
    | none => s

/-- Tokens of a QI popped by a commit (R63, R125). -/
def popTokens (s : State) (n slot qi k : Nat) : State :=
  match qiOf (s.routes n) slot qi with
  | none => s
  | some e =>
    returnCredits (s.modBu n (fun b => { b with queues := mapSet e.entry ((b.queue e.entry).drop k) b.queues }))
      n e.route false slot qi k

/-! ### Stream programs (R267) -/

/-- The fields of a stream's word 0. -/
structure StrmProg where
  mode : Nat
  dir : Nat
  end_ : Nat
  index : Nat
  trig : Nat
  st : Nat
  fin : Bool
  consume : Bool
  shadow : Bool
  pulse : Bool
  mark : Bool
  ot : Bool
  handle : Nat
deriving DecidableEq, Repr

/-- Word 0 of a stream, decoded. -/
def decodeStrm (w : Nat) : StrmProg :=
  { mode := bitsOf w 0 4, dir := bitsOf w 4 1, end_ := bitsOf w 5 2, index := bitsOf w 7 4, trig := bitsOf w 12 2,
    st := bitsOf w 15 3, fin := bitOf w 18, consume := bitOf w 19, shadow := bitOf w 20, pulse := bitOf w 21,
    mark := bitOf w 22, ot := bitOf w 23, handle := bitsOf w 32 32 }

/-- The program of stream k of a bank unit. -/
def State.strmProg (s : State) (n k : Nat) : StrmProg := decodeStrm (s.strmWord n (k / 4) (k % 4) 0)

/-- A BSR run has begun a block in a ring and not ended it: nothing else is written to the ring between its eight entries (R204). -/
def State.ringHeld (s : State) (n ring : Nat) : Bool :=
  (withIndex 0 (s.bu n).strms.toList).any (fun t => match t.2.run with
    | some r => r.tile ≠ 0 && 4 * (t.1 / 4) + (s.strmProg n t.1).index = ring
    | none => false)

/-- The QOs of a slot that its streams own (R269): QO `index` of a `dir` 0 queue stream, and the next one for CSR (R268). -/
def State.strmQos (s : State) (n slot : Nat) : List Nat :=
  (List.range 4).flatMap (fun j =>
    let p := s.strmProg n (4 * slot + j)
    if slot < 4 && p.mode ≠ 0 && p.dir = 0 && p.end_ = 0 then (if p.mode = 3 then [p.index, p.index + 1] else [p.index]) else [])

/-- The QOs on which a `qmark` of a slot pushes a marker (R127, R269). -/
def State.markedQos (s : State) (n slot : Nat) : List Nat :=
  (declaredQos (s.routes n) slot).filter (fun q => !(s.strmQos n slot).contains q)

end Sys2Proof.Machine
end

