-- ==== Sys2Proof/Machine/Freeze.lean ====
section
/-!
DEFINITION. Entering blocks and the configuration cache (R42 to R46, R72), freezing and thawing (R224, R391, R392), and the
residue state that commits and retirements change (R236, R240, R241).
-/
namespace Sys2Proof.Machine

/-! ### Entering a block (R42, R44, R72) -/

/-- The image placed on a bank unit. -/
def State.imageId (s : State) (n : Nat) : Nat := match s.regionOf n with | some r => r.image | none => 0

/-- A block is resident in a bank unit's cache. -/
def State.resident (s : State) (n slot blk : Nat) : Bool :=
  (s.bu n).cache.any (fun c => c.image == s.imageId n && c.slot == slot && c.block == blk)

/-- Frames of a C block: four words to a frame after its directory (R24). -/
def Block.frames (b : Block) : Nat := (b.words.length + 3) / 4

/-- The cache with the current block of a slot pinned, and the blocks of that slot otherwise not (R43); entering it makes it the
most recently entered. -/
def pinBlock (s : State) (n slot blk : Nat) : State :=
  let img := s.imageId n
  s.modBu n (fun b => { b with
    stamp := b.stamp + 1,
    cache := b.cache.map (fun c =>
      if c.slot = slot && slot ≠ 4 then
        if c.image = img && c.block = blk then { c with pinned := true, stamp := b.stamp } else { c with pinned := false }
      else if c.image = img && c.slot = slot && c.block = blk then { c with stamp := b.stamp } else c) })

/-- The block of a slot that halts or is cancelled is pinned no more (R43). -/
def unpinSlot (s : State) (n slot : Nat) : State :=
  if slot = 4 then s
  else s.modBu n (fun b => { b with cache := b.cache.map (fun c => if c.slot = slot then { c with pinned := false } else c) })

/-- Blocks are replaced, least recently entered first, until a new one fits (R44): at most `fuel` of them. -/
def makeRoom (fuel need : Nat) (cache : List CacheBlk) : List CacheBlk :=
  match fuel with
  | 0 => cache
  | k + 1 =>
    if (cache.map (·.frames)).sum + need ≤ 512 then cache
    else
      let free := cache.filter (fun c => !c.pinned)
      match free with
      | [] => cache
      | c0 :: rest =>
        let old := rest.foldl (fun m c => if c.stamp < m.stamp then c else m) c0
        makeRoom k need (cache.erase old)

/-- A slot enters the block that its `bc` names: ACTIVE when it is resident, FETCH with a request when it is not (R44); a block
that does not exist raises NOBLOCK (R72). -/
def enterBlock (s : State) (n slot : Nat) : State :=
  let blk := (s.ctx n slot).regs.bc.toNat
  let unpinned := pinBlock s n slot blk
  if s.resident n slot blk then unpinned.modCtx n slot (fun c => { c with st := .active })
  else
    match s.block n slot blk with
    | none => (s.modCtx n slot (fun c => { c with st := .active })).raise n slot blk 0 0 ⟨.noblock, 0, 0⟩
    | some _ =>
      (unpinned.modBu n (fun b => { b with fetches := b.fetches.filter (fun f => f.1 != slot) ++ [(slot, blk)] })).modCtx n slot
        (fun c => { c with st := .fetch })

/-! ### Freezing (R391, R392) -/

/-- Handler tokens stand before context tokens (R224). -/
def Node.hFirst (d : Node) : Node :=
  { d with inbox := d.inbox.filter (·.tok.fromH) ++ d.inbox.filter (fun t => !t.tok.fromH) }

/-- A freeze changes nothing at a bank unit: it is frozen by it already, or a `frz` meets one that is frozen (R392). -/
def Bu.frozenFor (b : Bu) (f : Freeze) : Bool := b.frozen.contains f || (f == .frz && !b.frozen.isEmpty)

/-- The wave of a freeze has reached a bank unit (R391): blocks that have not committed abort, and it is frozen. -/
def State.freezeBu (s : State) (n : Nat) (f : Freeze) : State :=
  let s1 := [0, 1, 2, 3].foldl (fun s k => if (s.ctx n k).blk.running then s.abortBlock n k else s) s
  s1.modBu n (fun b => { b with waves := b.waves.filter (· != f), stopping := false,
                                frozen := if b.frozenFor f then b.frozen else b.frozen ++ [f] })

/-- A freeze of one kind ends at a bank unit (R392); tokens of slot H that meet held ones come before them as it resumes (R224). -/
def State.thawBu (s : State) (n : Nat) (f : Freeze) : State :=
  s.modBu n (fun b =>
    let fr := b.frozen.filter (· != f)
    { b with waves := b.waves.filter (· != f), frozen := fr,
             node := if b.frozen.contains f && fr.isEmpty then b.node.hFirst else b.node })

/-- A freeze wave starts over bank units (R391). -/
def State.startWave (s : State) (ns : List Nat) (f : Freeze) : State :=
  ns.foldl (fun s n => s.modBu n (fun b =>
    if b.frozenFor f || b.waves.contains f then b else { b with waves := b.waves ++ [f] })) s

/-- Every bank unit of a region is frozen (R391). -/
def State.regionFrozen (s : State) (r : Region) : Bool := (s.regionBus r).all (fun n => !(s.bu n).frozen.isEmpty)

/-- The bank units of the region that holds a bank unit. -/
def State.peersOf (s : State) (n : Nat) : List Nat := match s.regionOf n with | some r => s.regionBus r | none => [n]

/-! ### Failed checks (R376) -/

/-- A check fails in a round of a bank unit's region that can be rolled back: a rollback is called for; otherwise the flag is
false (R376). A region at the limit has rolled back three times in the round (R386). -/
def callRollback (s : State) (n rd : Nat) : Bool × State :=
  match (s.bu n).region, s.regionOf n with
  | some rid, some r =>
    if s.replayable n rd && r.norepRounds.isEmpty && r.rb < 3 && r.running.isSome then (true, s.modRegion rid (fun g => { g with wantRollback := true }))
    else (false, s)
  | _, _ => (false, s)

/-! ### Residue state (R236, R240, R241) -/

/-- The mode after dropping a channel (R240). -/
def degradeMode (mode c : Nat) : Nat := if mode = 0 then c + 1 else if c + 1 = mode then mode else 7

/-- A bank unit drops a channel (R240, R241): the health record holds its mode; a retired one fails its rns tiles. -/
def State.degrade (s : State) (n c : Nat) : State :=
  let b := s.bu n
  let m := degradeMode b.rns.mode c
  if m = b.rns.mode then s
  else
    let cfg := s.mxCfg n
    let tiles := if m = 7 then Vector.ofFn (fun z : Fin 8 => if zRns cfg z.val then { b.node.tiles[z] with failed := true } else b.node.tiles[z])
      else b.node.tiles
    let s1 := s.modBu n (fun b => { b with rns := { b.rns with mode := m }, node := { b.node with tiles := tiles } })
    { s1 with out := { s1.out with health := { s1.out.health with modes := mapSet n m s1.out.health.modes } } }

/-- Corrections are counted, and a channel whose count reaches `rns.auto` is dropped (R236, R240). -/
def State.countCorr (s : State) (n : Nat) (byChan : List Nat) : State :=
  let b := s.bu n
  let cnt := (withIndex 0 b.rns.cnt).map (fun x => min 255 (x.2 + byChan.getD x.1 0))
  let s1 := s.modBu n (fun b => { b with rns := { b.rns with cnt := cnt } })
  (List.range 6).foldl (fun s c =>
    if byChan.getD c 0 ≠ 0 && b.rns.auto ≠ 0 && b.rns.auto ≤ cnt.getD c 0 then s.degrade n c else s) s1

end Sys2Proof.Machine
end

