-- ==== Sys2Proof/Machine/Commit.lean ====
section
/-!
DEFINITION. The commit of a block (R63 to R74, R89, R112, R190, R211, R216, R284, R291 to R294, R297, R383 to R387): when it can take
place, what it checks, and its effects, all in one step.
-/
namespace Sys2Proof.Machine

/-! ### When a block can commit -/

/-- The effects of a running block in slot order. -/
def Blk.list (b : Blk) : List Eff := b.effs.map (·.2.2)

/-- The tokens that a block pushes on a QO, its markers apart. -/
def pushCount (effs : List Eff) (q : Nat) : Nat :=
  (effs.filter (fun e => match e with | .push k _ _ => k == q | .poison k => k == q | _ => false)).length

/-- The markers that a block closes. -/
def markCount (effs : List Eff) : Nat := (effs.filter (fun e => match e with | .qmark => true | _ => false)).length

/-- Every QO of the slot has room for the block's pushes and markers (R63, R125). -/
def qoRoom (s : State) (n slot : Nat) (effs : List Eff) : Bool :=
  (declaredQos (s.routes n) slot).all (fun q =>
    let need := pushCount effs q + (if (s.markedQos n slot).contains q then markCount effs else 0)
    need = 0 || need ≤ (s.bu n).room (qoOf (s.routes n) slot q))

/-- A token of the inbox or a started operation names a ring, given by its number. -/
def ringNamed (s : State) (n ring : Nat) : Bool :=
  let cfg := s.mxCfg n
  let names (t : MxTok) : Bool := zOwner cfg t.z == ring / 4 && t.rings.contains (ring % 4)
  let d := (s.bu n).node
  d.inbox.any (fun t => names t.tok) || d.started.any (fun t => names t.tok)

/-- The rings have room for the block's pushes, no stream is in the middle of a block in them (R204), and they may be reset (R211). -/
def ringsReady (s : State) (n : Nat) (effs : List Eff) : Bool :=
  (List.range 16).all (fun k =>
    let e := (s.ringOf n k).2
    let start := ((s.bu n).node.rings[Fin.ofNat 16 k]).count
    let fit : Option Nat := effs.foldl (fun c f => match c, f with
      | some m, .ringPush r _ _ => if r = k then (if m + 1 ≤ e then some (m + 1) else none) else some m
      | some m, .ringReset r => if r = k then some 0 else some m
      | c, _ => c) (some start)
    fit.isSome && (!(effs.any (fun f => match f with | .ringPush r _ _ => r == k | _ => false)) || !s.ringHeld n k) &&
      (!(effs.any (fun f => match f with | .ringReset r => r == k | _ => false)) || !ringNamed s n k))

/-- The inbox has room for the block's tokens (R216). -/
def inboxReady (s : State) (n : Nat) (effs : List Eff) : Bool :=
  (s.bu n).node.inbox.length + (effs.filter (fun e => match e with | .mxTok _ => true | _ => false)).length ≤ 16

/-- What a queued request waits for before it leaves: performances and answers (R292, R294, R305). -/
def State.mayLeave (s : State) (after hold : List Nat) : Bool :=
  after.all (fun id => !s.outstanding id) && hold.all (fun id => !s.hub.reqs.any (fun r => r.id == id))

/-- A request has left its bank unit: the outbound queue is served in order (R297). -/
def State.hasLeft (s : State) (r : Req) : Bool :=
  match r.stage with
  | .queued => s.hub.reqs.all (fun q => !(q.id ≤ r.id && q.org.bu == r.org.bu && q.stage == .queued) || s.mayLeave q.after q.hold)
  | .held => false
  | _ => true

/-- The outbound queue has room for the block's requests that leave through it (R297). -/
def outboundReady (s : State) (n : Nat) (effs : List Eff) : Bool :=
  let waiting := (s.hub.reqs.filter (fun r => r.row.isOutbound && r.org.bu == n && r.stage == .queued && !s.hasLeft r)).length
  waiting + (effs.filter (fun e => match e with | .req r => r.row.isOutbound | _ => false)).length ≤ 32

/-- No register that the block writes is pending from an earlier block (R67). -/
def writesReady (r : Regs) (effs : List Eff) : Bool :=
  effs.all (fun e => match e with
    | .regG i _ => !r.isPending (.g i)
    | .regV i _ => !r.isPending (.v i)
    | _ => true)

/-- A release that executes in its bank unit. -/
def isBankRelease (e : Eff) : Bool := match e with | .stl _ _ scope => scope != 0 | .cstep _ => true | _ => false

/-- A release that executes in its bank unit waits for the accesses of earlier blocks (R277, R284, R295), and for the detached loads
before it in its own. -/
def releasesReady (s : State) (c : Ctx) (effs : List Eff) : Bool :=
  !effs.any isBankRelease ||
    (c.issued.all (fun id => !s.outstanding id) &&
      (effs.reverse.dropWhile (fun e => !isBankRelease e)).all (fun e => match e with | .pend id => !s.outstanding id | _ => true))

/-- While an acquire of an earlier block is unanswered, no later store performs, and no release (R292, R295). -/
def storesMayGo (c : Ctx) (effs : List Eff) : Bool :=
  c.acquires.isEmpty || !(effs.any (fun e => match e with | .store _ _ | .cstep _ => true | _ => false))

/-- Every operation of the running block has executed or been predicated off. -/
def allFinished (s : State) (n slot : Nat) : Bool :=
  let is := s.blockInstrs n slot
  (List.range is.length).all (fun k => opFinished is (s.ctx n slot).blk k)

/-- A counter or a target is set after the ticks and firings that came before it (R227). -/
def eventsReady (b : Bu) (effs : List Eff) : Bool :=
  !(effs.any (fun e => match e with | .evLoop .. | .evArm .. => true | _ => false)) ||
    (b.ev.pulses.isEmpty && !b.ev.complete)

/-- A block can commit (R64), its exits apart. -/
def commitReady (s : State) (n slot : Nat) : Bool :=
  let c := s.ctx n slot
  let effs := c.blk.list
  c.st == .active && c.blk.running && allFinished s n slot && (slot = 4 || (s.bu n).frozen.isEmpty) &&
    qoRoom s n slot effs && ringsReady s n effs && inboxReady s n effs && outboundReady s n effs && writesReady c.regs effs &&
    releasesReady s c effs && storesMayGo c effs && eventsReady (s.bu n) effs

/-! ### Checks of a commit -/

/-- A `rate.set` applied to a controller, with the value read as a signed number (R112); only the fields that a check reads. -/
def rateField (f : Ctl → Nat → Int) (c : Ctl) (sets : List (Nat × Int)) (sel : Nat) : Int :=
  ((sets.filter (fun x => x.1 = sel)).getLast?.map (·.2)).getD (f c sel)

/-- A settable field of a controller by its selector (R100). -/
def ctlField (c : Ctl) (sel : Nat) : Int :=
  match sel with
  | 1 => c.acc
  | 3 => c.set
  | 4 => c.kp
  | 5 => c.ki
  | 6 => c.period
  | _ => c.imax

/-- The values that a block's `rate.set`s leave in a controller are allowed (R112). -/
def rateOk (c : Ctl) (sets : List (Nat × Int)) : Bool :=
  let v := rateField ctlField c sets
  1 ≤ v 3 && v 3 ≤ (c.cap : Int) - 1 && 0 ≤ v 4 && v 4 ≤ c.kpArm && 0 ≤ v 5 && v 5 ≤ 255 && 4 * v 5 ≤ v 4 &&
    (c.periodMin : Int) ≤ v 6 && v 6 ≤ 65535 && 0 ≤ v 7 && v 7 ≤ 4095

/-- The controller after the sets (R112), each applied in slot order; a value of `imax` that a later set of the block replaces clamps `acc`
as a natural number (assumption 147, DESIGN CHOICE, unsafe). -/
def applyRate (c : Ctl) (sel : Nat) (v : Int) : Ctl :=
  match sel with
  | 1 => { c with acc := satInt v (-(c.imax : Int)) c.imax }
  | 3 => { c with set := v.toNat }
  | 4 => { c with kp := v.toNat }
  | 5 => { c with ki := v.toNat }
  | 6 => { c with period := v.toNat }
  | 7 => { c with imax := v.toNat, acc := satInt c.acc (-(v.toNat : Int)) v.toNat }
  | _ => c

/-- A controller entry that no receive entry declares. -/
def Ctl.blank : Ctl :=
  { acc := 0, adj := 0, set := 0, kp := 0, ki := 0, period := 0, imax := 0, cap := 0, pstat := 0, kpArm := 0, periodMin := 0,
    count := 0, running := 0, sample := none }

/-- Entry k of a bank unit's controllers (R100). -/
def Bu.ctl (b : Bu) (k : Nat) : Ctl := mapGetD k b.ctls Ctl.blank

/-- The `rate.set`s of a block on one channel. -/
def rateSets (blk : Blk) (qi : Nat) : List (Nat × Int) :=
  blk.effs.filterMap (fun x => match x.2.2 with | .rateSet q sel v => if q = qi then some (sel, v.toInt) else none | _ => none)

/-- The operation at which a commit raises RATE: the first `rate.set` on a channel that would breach (R112). -/
def rateFault (b : Bu) (slot : Nat) (blk : Blk) : Option Nat :=
  blk.effs.findSome? (fun x => match x.2.2 with
    | .rateSet q _ _ => if rateOk (b.ctl (slot * 16 + q)) (rateSets blk q) then none else some x.1
    | _ => none)

/-- The rounds of a block's operations (R127): the marks before operation k. -/
def marksUpTo (blk : Blk) (k : Nat) : Nat :=
  (blk.effs.filter (fun x => x.1 < k && (match x.2.2 with | .qmark => true | _ => false))).length

/-- The lines that a block's commit adds to the write log in one round (R383). -/
def logNeed (s : State) (n slot : Nat) (rd : Nat → Nat) (r : Nat) : Nat :=
  let blk := (s.ctx n slot).blk
  let mine := blk.effs.filter (fun x => rd x.1 = r)
  let reqs := (mine.map (fun x => match x.2.2 with
    | .req q => if isHeldRow q.row && !q.imm then heldLines q.row else 0
    | .cstep _ => 1
    | _ => 0)).sum
  let lines := mine.foldl (fun ls x => match x.2.2 with | .store a bs => joinNats ls (linesOf a bs.length) | _ => ls) []
  let fresh := lines.filter (fun l => !(s.bu n).wlog.any (fun e => e.round == r &&
    (match e.item with | .undo m _ => m == l | _ => false)))
  reqs + 2 * fresh.length

/-- The block must be non-replayable. -/
def blockNonrep (s : State) (n slot : Nat) : Bool :=
  match s.block n slot (s.ctx n slot).regs.bc.toNat with
  | some b => b.nonrep
  | none => false

/-- The replies that have arrived for a block and that its commit logs (R383). -/
def replayNeed (s : State) (blk : Blk) : Nat :=
  (blk.effs.filter (fun x => match x.2.2 with
    | .pend id => blk.early.contains id && s.hub.reqs.any (fun q => q.id == id && isLoggedRead q.row && !q.begun)
    | _ => false)).length

/-- In a dual run, a commit that would make its round non-replayable faults instead (R387). -/
def dualFault (s : State) (n slot : Nat) : Bool :=
  match s.regionOf n with
  | none => false
  | some r =>
    let c := s.ctx n slot
    let rd (k : Nat) : Nat := s.tagRound n slot ((c.regs.round + marksUpTo c.blk k) % 4096)
    let rounds := (c.blk.effs.map (fun x => rd x.1)).eraseDups
    let need := replayNeed s c.blk
    r.dual && (blockNonrep s n slot || (!rounds.isEmpty && !s.logRoom n (rounds.map (logNeed s n slot rd)).sum) ||
      (need ≠ 0 && !s.replayRoom n need))

/-! ### Effects -/

/-- What a commit has done so far: the state, the acquires it has sent, the reads it has sent, and the `qmark`s it has passed. -/
structure CAcc where
  s : State
  acqs : List Nat
  reads : List Nat
  marks : Nat

/-- A request of a number changed. -/
def State.modReq (s : State) (id : Nat) (f : Req → Req) : State :=
  s.modHub (fun h => { h with reqs := h.reqs.map (fun r => if r.id == id then f r else r) })
/-- A request of a number gone. -/
def State.dropReq (s : State) (id : Nat) : State := s.modHub (fun h => { h with reqs := h.reqs.filter (fun r => r.id != id) })
/-- The request of a number. -/
def State.req (s : State) (id : Nat) : Option Req := s.hub.reqs.find? (fun r => r.id == id)

/-- A register made pending on a request, or the request cut off from a register that a later write of its block replaces. -/
def setPending (r : Regs) (d : Dest) (id : Nat) : Regs :=
  match d with
  | .none => r
  | .g i => { r with g := r.g.set i { r.g[i] with st := .pending id } }
  | .v i => { r with v := r.v.set i { r.v[i] with st := .pending id } }

/-- The request that a destination is pending on. -/
def pendingOn (r : Regs) (d : Dest) : Option Nat :=
  match d with
  | .none => none
  | .g i => match r.g[i].st with | .pending id => some id | _ => none
  | .v i => match r.v[i].st with | .pending id => some id | _ => none

/-- A destination is about to be written or made pending by the commit: a request of the same block that it was pending on
keeps no destination (R62, R67). -/
def cutPending (s : State) (n slot : Nat) (d : Dest) : State :=
  match pendingOn (s.ctx n slot).regs d with
  | some id => s.modReq id (fun r => { r with dst := .none })
  | none => s

/-- The slot's registers changed. -/
def State.modRegs (s : State) (n slot : Nat) (f : Regs → Regs) : State := s.modCtx n slot (fun c => c.modRegs f)

/-- A value written to a destination: it turns full. -/
def writeDest (r : Regs) (d : Dest) (val : Line) : Regs :=
  match d with
  | .none => r
  | .g i => { r with g := r.g.set i ⟨BitVec.ofNat 64 val.toNat, .full⟩ }
  | .v i => { r with v := r.v.set i ⟨val, .full⟩ }

/-- Performances that effects from now on wait for, and the answers they wait for (R292, R294). -/
def waitsOf (a : CAcc) (n slot : Nat) : List Nat × List Nat :=
  let c := a.s.ctx n slot
  (c.barrier, c.acquires ++ a.acqs)

/-- Numbers that the slot has issued join what a later release side waits for. -/
def noteIssued (s : State) (n slot : Nat) (ids : List Nat) : State := s.modCtx n slot (fun c => { c with issued := c.issued ++ ids })

/-- A token pushed by a slot (R116, R127, R290, R294). -/
def pushToken (a : CAcc) (n slot q : Nat) (kind : TKind) (payload : Line) (last : Bool) : State :=
  let s := a.s
  let c := s.ctx n slot
  let es := qoOf (s.routes n) slot q
  let (after, hold) := waitsOf a n slot
  let rel := c.relFence.map (fun r => (Party.ctx n slot, r.1, r.2))
  let t := { mkToken kind ((c.regs.round + a.marks) % 4096) 0 payload last with rel := rel }
  let s1 := sendAll s n es after hold t
  noteIssued s1 n slot (idSpan s.hub.nextId (s1.hub.nextId - s.hub.nextId))

/-- The kind of an ordinary push on a QO (R116). -/
def pushKind (s : State) (n slot q : Nat) : TKind :=
  match qoOf (s.routes n) slot q with
  | e :: _ => if e.form = 2 then .control else .data
  | [] => .data

/-- The rows whose requests write a location (R303 to R306, R315) or a page by `stm`: they join their issuer's past. -/
def writesLocation (r : Row) : Bool :=
  match r with
  | .stm | .atom | .cas | .cas2 | .red | .msg | .barInit | .barArrive | .barDrop => true
  | _ => false

/-- What a request waits for before it leaves, beside the fences before it (R295, R305): a release for every access before it, an acquire
at `bu` scope for the releases before it. -/
def ownWaits (s : State) (n slot : Nat) (q : Req) : List Nat :=
  if releasesBySync q.row then (if q.sync = 0 then [] else (s.ctx n slot).issued)
  else if q.sync = 2 then s.releasing n slot else []

/-- A request leaves the block (R264, R297, R326, R370, R383): held in the write log, or queued; its destination turns pending. What it
writes joins its issuer's past, and an acquire stands there by its number until it is answered (R285, R287). -/
def commitReq (a : CAcc) (n slot rd : Nat) (q : Req) : CAcc :=
  let s := cutPending a.s n slot q.dst
  let (id, s1) := s.freshFor 64
  let c := s1.ctx n slot
  let p : Party := .ctx n slot
  let (after, hold) := waitsOf a n slot
  let acq := isAnsweredAcquire q.row q.sync
  let read := isReadRequest q.row
  let r0 : Req := { q with id := id, committed := true, past := s1.ms.past p, rel := c.relFence,
                           after := joinNats after (ownWaits s1 n slot q), hold := hold, stage := .queued }
  let (r1, left) := takeReplay r0 c.replay
  let s2 := s1.modCtx n slot (fun c => { c with replay := left })
  let (held, s3) := if isHeldRow q.row && !q.imm then logItem s2 n rd (heldLines q.row) (.req id) else (false, s2)
  let s4 := s3.modHub (fun h => { h with reqs := h.reqs ++ [if held then { r1 with stage := .held } else r1] })
  let s5 := { s4 with ms := s4.ms.join p (if writesLocation q.row then idSpan id 64 else if acq then [id] else []) }
  let s6 := if isHeldRow q.row || q.row == .fwcallBell || read then noteIssued s5 n slot [id] else s5
  let s7 := s6.modRegs n slot (fun r => setPending r q.dst id)
  { a with s := s7, acqs := if acq then a.acqs ++ [id] else a.acqs, reads := if read then a.reads ++ [id] else a.reads }

/-- A detached operation that was sent when it issued (R67): its destination turns pending, or takes a result that has arrived. -/
def commitPend (s : State) (n slot id : Nat) (early : Bool) : State :=
  match s.req id with
  | none => s
  | some q =>
    let s1 := cutPending s n slot q.dst
    match early, q.stage with
    | true, .replied v =>
      let s2 := s1.modRegs n slot (fun r => { writeDest r q.dst v with flags := joinFlags r.flags q.flags })
      (if isLoggedRead q.row && !q.begun then logReplay s2 n (s2.tagRound n slot q.org.round) 1 (.reply slot q.id v) else s2).dropReq id
    | _, _ =>
      let s2 := (s1.modReq id (fun r => { r with committed := true })).modRegs n slot (fun r => setPending r q.dst id)
      if isReadRequest q.row then noteIssued s2 n slot [id] else s2

/-- A release of a slot that reaches bytes of its bank: one of the same place is replaced. -/
def addRel (b : Bu) (r : BankRel) : Bu :=
  { b with rels := b.rels.filter (fun x =>
      !(x.fence == r.fence && x.addr == r.addr && x.size == r.size && x.scope == r.scope && x.party == r.party)) ++ [r] }

/-- A store of a block performs (R190), carrying what release fences before it released (R290). (assumption 43, DEDUCED, unsafe) -/
def commitStore (s : State) (n slot rd addr : Nat) (bytes : List Byte) : State :=
  let fences := (s.ctx n slot).relFence
  let s1 := bankWrite s n rd addr bytes
  if fences.isEmpty then s1
  else
    (List.range bytes.length).foldl (fun s i => fences.foldl (fun s f => s.modBu n (fun b =>
      addRel b { fence := true, addr := addr + i, size := 1, scope := f.1, party := .ctx n slot, past := f.2 })) s) s1

/-- An entry pushed on an operand ring (R207, R211). -/
def ringPushOne (s : State) (n k : Nat) (row : Line) (sb : Word) : State :=
  let (base, e) := s.ringOf n k
  let i := Fin.ofNat 16 k
  let r := (s.bu n).node.rings[i]
  let s1 := bankPut s n (ringEntryAddr base r.tail) (lineBytes row)
  let s2 := bankPut s1 n (ringSbAddr base r.tail) (bytesOfNat 8 sb.toNat)
  s2.modBu n (fun b => { b with node := { b.node with
    rings := b.node.rings.set i { r with tail := if e = 0 then 0 else (r.tail + 1) % e, count := r.count + 1 } } })

/-- `ev.loop` and `ev.arm` at commit (R229, R230). -/
def setCounter (b : Bu) (k : Nat) (c : EvCtr) : Bu := { b with ev := { b.ev with ctrs := b.ev.ctrs.set (Fin.ofNat 16 k) c } }
/-- A start target's term set (R230). -/
def armTarget (b : Bu) (t term : Nat) (mask : BitVec 16) (clr : Bool) : Bu :=
  let i := Fin.ofNat 8 t
  let x := b.ev.tgts[i]
  let x1 := { x with masks := x.masks.set (Fin.ofNat 4 term) mask, latches := x.latches.set (Fin.ofNat 4 term) 0 }
  { b with ev := { b.ev with tgts := b.ev.tgts.set i (if clr then { x1 with pend := 0, lost := false } else x1) } }

/-- A token enters the inbox (R216); in a frozen bank unit a handler's token stands before those of contexts (R224). -/
def addToken (b : Bu) (t : MxTok) : Bu :=
  let d := { b.node with inbox := b.node.inbox ++ [{ tok := t, gated := t.gate }] }
  { b with node := if b.frozen.isEmpty then d else d.hFirst }

/-- A control token leaves the block (R64, R216): one that accesses the bank is among what the slot has issued, and waits for the
acquires before it (R290, R292). -/
def commitToken (a : CAcc) (n slot : Nat) (t : MxTok) : State :=
  let (id, s1) := a.s.fresh
  let (_, hold) := waitsOf a n slot
  let s2 := s1.modBu n (fun b => addToken b { t with id := id, hold := if t.bankOff.isSome then hold else [] })
  if t.bankOff.isSome then noteIssued s2 n slot [id] else s2

/-- The bank units that the placements of a dual run hold with the region of a bank unit: they are frozen together (R388). -/
def State.frozenWith (s : State) (n : Nat) : List Nat :=
  s.peersOf n ++ (match s.regionOf n with
    | some r => if r.dual then r.twins.flatMap (fun t => match mapGet t s.hub.regions with | some g => s.regionBus g | none => []) else []
    | none => [])

/-- `frz` at commit (R392): waves start. In its own bank unit nothing issues any more, and the commits of this cycle come first (R65). -/
def commitFreeze (s : State) (n : Nat) (rgn : Bool) : State :=
  if !(s.bu n).frozen.isEmpty && !rgn then s
  else
    (s.startWave (if rgn then s.frozenWith n else [n]) .frz).modBu n (fun b =>
      if b.waves.contains .frz then { b with stopping := true } else b)
/-- `thaw` at commit (R392): a bank unit that `frz` has not frozen does not change. -/
def commitThaw (s : State) (n : Nat) (rgn : Bool) : State :=
  (if rgn then s.frozenWith n else [n]).foldl (fun s m => if (s.bu m).frozen.contains .frz then s.thawBu m .frz else s) s

/-- A release side in force: what the slot has released so far, and what its later effects wait for (R290, R294, R295). -/
def commitFence (s : State) (n slot : Nat) (rel : Bool) (scope : Nat) : State :=
  if !rel then s
  else
    let past := s.ms.past (.ctx n slot)
    s.modCtx n slot (fun c => { c with barrier := joinNats c.barrier c.issued,
                                       relFence := c.relFence.filter (fun f => f.1 != scope) ++ [(scope, past)] })

/-- One effect of a block, in slot order (R64); `past0` is the slot's past when the commit began. -/
def commitEff (n slot : Nat) (c0 : Ctx) (past0 : List Nat) (a : CAcc) (x : Nat × Nat × Eff) : CAcc :=
  let s := a.s
  let rd := s.tagRound n slot ((c0.regs.round + a.marks) % 4096)
  let set (t : State) : CAcc := { a with s := t }
  match x.2.2 with
  | .regG i v => set ((cutPending s n slot (.g i)).modRegs n slot (fun r => { r with g := r.g.set i ⟨v, .full⟩ }))
  | .regV i v => set ((cutPending s n slot (.v i)).modRegs n slot (fun r => { r with v := r.v.set i ⟨v, .full⟩ }))
  | .regP i v => set (if i.val = 0 then s else s.modRegs n slot (fun r => { r with p := r.p.set i ⟨v, .full⟩ }))
  | .pop q k =>
    let toks := match s.qiTokens n slot q with | some (_, ts) => ts.take k | none => []
    set (noteSeen (popTokens s n slot q k) (.ctx n slot) (toks.flatMap (·.rel)))
  | .push q payload last => set (pushToken a n slot q (pushKind s n slot q) payload last)
  | .poison q => set (pushToken a n slot q .poison 0 false)
  | .qmark =>
    let s1 := (s.markedQos n slot).foldl (fun s q => pushToken { a with s := s } n slot q .marker 0 false) s
    { a with s := openUpTo s1 n rd, marks := a.marks + 1 }
  | .store addr bytes => set (commitStore s n slot rd addr bytes)
  | .stl addr size scope =>
    set (s.modBu n (fun b => addRel b { fence := false, addr := addr, size := size, scope := scope, party := .ctx n slot, past := past0 }))
  | .req q => commitReq a n slot rd q
  | .pend id => set (commitPend s n slot id (c0.blk.early.contains id))
  | .flags _ => a
  | .spr w => set (sprWrite s n slot w)
  | .rateSet q sel v =>
    let k := slot * 16 + q
    set (s.modBu n (fun b => { b with ctls := mapSet k (applyRate (b.ctl k) sel v.toInt) b.ctls }))
  | .rateW which v => set (s.modCtx n slot (writeWeight which v))
  | .mxTok t => set (commitToken a n slot t)
  | .ringPush k row sb => set (ringPushOne s n k row sb)
  | .ringReset k => set (s.modBu n (fun b => { b with node := { b.node with rings := b.node.rings.set (Fin.ofNat 16 k) ⟨0, 0, 0⟩ } }))
  | .evLoop k src start rem step => set (s.modBu n (fun b => setCounter b k ⟨start, rem, step, src, []⟩))
  | .evPulse k => set (s.modBu n (fun b => { b with ev := { b.ev with sQueue := b.ev.sQueue ++ [k] } }))
  | .evArm t term mask clr => set (s.modBu n (fun b => armTarget b t term mask clr))
  | .mxDeg c => set (s.degrade n c)
  | .cstep atLeast =>
    let launch := ((s.ctx n slot).launch.orElse (fun _ => (s.regionOf n).bind (·.running))).getD 0
    let (id, s1) := s.fresh
    let q : Req := { s.countReq n slot 0 with id := id, row := if atLeast.isSome then .cstepTo else .cstep, a := atLeast.getD 0,
                                              b := 0, stage := .held, begun := false, after := [], sync := 3 }
    let (held, s2) := logItem s1 n rd 1 (.req id)
    set (if held then s2.modHub (fun h => { h with reqs := h.reqs ++ [{ q with org := { q.org with launch := launch } }] })
      else stepCopies s2 launch atLeast)
  | .freeze rgn => set (commitFreeze s n rgn)
  | .thaw rgn => set (commitThaw s n rgn)
  | .inject v => set (s.modBu n (fun b => { b with rns := { b.rns with injs := v } }))
  | .rnsCorr mask count byChan =>
    let o := s.originOf n slot c0.regs.bc.toNat x.1 x.2.1
    set ((s.countCorr n byChan).post (mkRec s o .rnsCorr true 0 (mask + count % 256 * 2 ^ 8)) 4 o)
  | .fence acq rel scope =>
    { a with s := commitFence s n slot rel scope, acqs := if acq then joinNats a.acqs a.reads else a.acqs }

/-! ### Block transfer -/

/-- No destination of a slot is pending (R71). -/
def Regs.noPending (r : Regs) : Bool :=
  r.g.toList.all (fun x => !x.st.isPend) && r.v.toList.all (fun x => !x.st.isPend) && r.p.toList.all (fun x => !x.st.isPend)

/-- An ENDING context whose destinations are resolved enters IDLE, and its instance completes (R68, R71). -/
def settleEnding (s : State) (n slot : Nat) : State :=
  let c := s.ctx n slot
  if c.st == .ending && c.regs.noPending then (s.endInstance n slot).modCtx n slot (fun c => { c with st := .idle }) else s

/-- `yield` (R74, R98): the pass rises to the latest among the other slots that are neither parked nor without an instance. -/
def yieldPass (b : Bu) (slot : Nat) : Ctx → Ctx := fun c =>
  let others := ([0, 1, 2, 3].filter (fun k => k != slot &&
    (b.ctx k).w != 0 && (b.ctx k).st != .idle && (b.ctx k).st != .stopped)).map (fun k => (b.ctx k).pass)
  let after (p q : Nat) : Bool := let d := (p + 2 ^ 24 - q) % 2 ^ 24; 1 ≤ d && d ≤ 2 ^ 23 - 1
  { c with pass := others.foldl (fun p q => if after q p then q else p) c.pass }

/-- The registers after the block transfer of a firing `exit` and its rider (R69, R70). -/
def transfer (r : Regs) (target : Nat) (rider : Option Rider) : Regs :=
  match rider with
  | none => { r with bc := BitVec.ofNat 16 target }
  | some (.call t) =>
    { r with stack := r.stack.set (Fin.ofNat 8 r.depth) (BitVec.ofNat 16 target), depth := r.depth + 1, bc := BitVec.ofNat 16 t }
  | some .ret => { r with depth := r.depth - 1, bc := r.stack[Fin.ofNat 8 (r.depth - 1)] }
  | some .halt | some (.eret _) => r

/-- The QOs that a block names as destinations (R89). -/
def namedQos (is : List Instr) : List Nat :=
  (is.filterMap (fun i => match i.op? with
    | some o => (match o.dst.reg with | .qo k => some k.val | _ => none)
    | none => none)).eraseDups

/-- An operation that holds an effect for its round's commit, and that its predicate does not leave out (R381, R383). -/
def holdsEffect (c : Ctx) (i : Instr) : Bool :=
  match i.row, i.op? with
  | some r, some o => isHeldRow r && !o.sr && (opSel c o).getD 1 % 2 == 1
  | _, _ => false

/-- The route of the poison that a faulted block logs (R381): of the pop at which it faulted, else of its first. -/
def poisonRoute (rs : List (Nat × Route)) (slot op : Nat) (effs : List (Nat × Nat × Eff)) : Nat :=
  let routes (l : List (Nat × Nat × Eff)) : Option Nat := l.findSome? (fun x => match x.2.2 with
    | .pop q _ => (qiOf rs slot q).map (·.route)
    | _ => none)
  ((routes (effs.filter (fun x => x.1 = op))).orElse (fun _ => routes effs)).getD 0

/-- `eret.poison` (R89, R381): the faulted block's pops take effect, each QO it names receives a poison token, and a sink logs
poison for held effects. The poison tokens leave without a test of credits (assumption 137, DESIGN CHOICE, unsafe). -/
def poisonFaulted (s : State) (n slot block op : Nat) : State :=
  let effs := (s.ctx n slot).fblk
  let s1 := effs.foldl (fun s x => match x.2.2 with | .pop q k => popTokens s n slot q k | _ => s) s
  let is := match s.block n slot block with
    | some b => b.words.map (fun w => match decodeWord w with | .ok i => i | .error _ => .nop)
    | none => []
  let s2 := (namedQos is).foldl (fun s q => pushToken { s := s, acqs := [], reads := [], marks := 0 } n slot q .poison 0 false) s1
  let item := LogItem.poison slot block (poisonRoute (s.routes n) slot op effs)
  if is.any (holdsEffect (s.ctx n slot)) && s.replayable n (s.tagRound n slot (s.ctx n slot).regs.round) then
    let (ok, s3) := logItem s2 n (s.tagRound n slot (s.ctx n slot).regs.round) 1 item
    if ok then s3 else publishItem n s3 item
  else s2

/-- The end of a handler run by `eret` (R89, R379). -/
def commitEret (s : State) (n action : Nat) : State :=
  match (s.bu n).hrun with
  | none => s.endRun n action
  | some h =>
    let s1 := if action = 1 && !h.async then poisonFaulted s n h.slot h.record.block h.record.op else s
    let s2 := s1.endRun n action
    if action ≠ 2 && !h.async && (s2.ctx n h.slot).st == .active then enterBlock s2 n h.slot else s2

/-- The checkpoints that a block with `qmark`s takes (R384): the registers as they stand after the commit. (assumption 90, DEDUCED, unsafe) -/
def takeCkpts (n slot : Nat) (first marks : Nat) (active : Bool) (s : State) : State :=
  if slot = 4 then s
  else
    s.modCtx n slot (fun c => { c with ckpts := c.ckpts ++ (List.range marks).map (fun i =>
      { round := first + i, regs := c.regs, active := active }) })

/-- The rounds that a block's operations are in (R127), from its first: one more after each `qmark` that an operation follows. -/
def spannedRounds (blk : Blk) (first : Nat) : List Nat :=
  ((blk.done.map (fun d => first + marksUpTo blk d.1)) ++ [first]).eraseDups

/-- The commit of a block that can commit and passes its checks: one step (R64). `once` clears `en` before the block's `spr.wr`
writes, so that an `en` written by the block stands until the next commit (assumption 144, DESIGN CHOICE, unsafe). The writes of `spr.wr`
come before the block transfer: a handler's `call` or `ret` uses the depth that it has written, unchecked (assumption 142, DESIGN CHOICE,
unsafe). A `halt` of slot H leaves its run open, and no other starts (assumption 143, DESIGN CHOICE, unsafe). -/
def commitBlock (s : State) (n slot target : Nat) : State :=
  let c0 := s.ctx n slot
  let blk := c0.blk
  let first := s.tagRound n slot c0.regs.round
  let s1 := if blockNonrep s n slot then
      (match (s.bu n).region with
        | some rid => (spannedRounds blk first).foldl (fun s rd => makeNorep s rid rd) s
        | none => s)
    else s
  let flags := blk.list.foldl (fun f e => match e with | .flags g => f ||| g | _ => f) 0
  let s2 := (openUpTo s1 n first).modCtx n slot (fun c =>
    { c with issued := c.issued.filter s.outstanding, barrier := c.barrier.filter s.outstanding,
             regs := { c.regs with flags := joinFlags c.regs.flags flags, rng := blk.rng,
                                   ovr := if bitOf c.regs.ovr.toNat 2 then c.regs.ovr &&& 7#4 else c.regs.ovr } })
  let a := blk.effs.foldl (commitEff n slot c0 (s.ms.past (.ctx n slot))) { s := s2, acqs := [], reads := [], marks := 0 }
  let lastMark := (blk.effs.filter (fun x => match x.2.2 with | .qmark => true | _ => false)).getLast?.map (·.1)
  let s3 := match lastMark with
    | some k => if blk.effs.any (fun x => k < x.1) then openUpTo a.s n (first + a.marks) else a.s
    | none => a.s
  let s4 := s3.modCtx n slot (fun c =>
    { c with acquires := joinNats c.acquires a.acqs, blk := Blk.idle,
             regs := { transfer c.regs target blk.rider with round := (c.regs.round + a.marks) % 4096 } })
  let s5 := if blk.yielded then s4.modBu n (fun b => b.modCtx slot (yieldPass b slot)) else s4
  let s6 := takeCkpts n slot first a.marks (blk.rider != some .halt) s5
  match blk.rider with
  | some .halt => settleEnding ((unpinSlot s6 n slot).modCtx n slot (fun c => { c with st := .ending })) n slot
  | some (.eret action) => commitEret s6 n action
  | _ => enterBlock s6 n slot

/-- The slots whose commits come before that of a slot, in the order of R64. -/
def slotsBefore (slot : Nat) : List Nat := [4, 0, 1, 2, 3].takeWhile (· != slot)

/-- A block commits now: it can, and no slot before it can (R64). -/
def commitNow (s : State) (n slot : Nat) : Bool := commitReady s n slot && (slotsBefore slot).all (fun k => !commitReady s n k)

/-- BLOCK_COMMIT: a block of a slot whose operations have executed commits, or raises what its commit finds; one that cannot
commit yet waits (R64, R69, R112, R387). -/
def execBlockCommit (s : State) : Host.Outcome State Fault Refusal :=
  let n := s.my.arg.n
  let slot := s.my.arg.m
  let c := s.ctx n slot
  let bc := c.regs.bc.toNat
  nextState (
    if !commitNow s n slot then s
    else
      match c.blk.fired with
      | none => s.raise n slot bc 0 0 ⟨.exit, 0, 0⟩
      | some (_, target) =>
        match rateFault (s.bu n) slot c.blk with
        | some k => s.raise n slot bc k 0 ⟨.rate, 0, 0⟩
        | none => if dualFault s n slot then s.raise n slot bc 0 0 ⟨.nonrep, 0, 0⟩ else commitBlock s n slot target)

end Sys2Proof.Machine
end

