-- ==== Sys2Proof/Machine/Control.lean ====
section
/-!
DEFINITION. Block transfer, riders, `yield`, `rep`, the encoding primitives and the trap operations (R33, R69 to R76, R87, R89).
-/
namespace Sys2Proof.Machine

/-- The condition field of a control operation (R73): `cond`, from the immediate or from `mod`. -/
def condField (o : Op) : Nat :=
  match o.imm28 with
  | some v => bitsOf v.toNat 16 2
  | none => o.modBits 0 2

/-- A control operation's condition holds (R73): always for 0, on bit 0 of `srca` for 1, on its complement for 2. -/
def condHolds (o : Op) (a : Nat) : Bool :=
  match condField o with
  | 0 => true
  | 1 => a % 2 == 1
  | _ => a % 2 == 0

/-- The target of `exit` or `call` (R72, R73). -/
def controlTarget (v : View) (x : Srcs) : Nat :=
  match v.o.imm28 with
  | some i => i.toNat % 2 ^ 16
  | none => x.b % 2 ^ 16

/-- An `exit` row. -/
def isExit (i : Instr) : Bool :=
  match i.row with
  | some .exit | some .exitRegisterTarget => true
  | _ => false

/-- Every `exit` has executed or been predicated off and none has fired (R69). -/
def noExitFired (is : List Instr) (blk : Blk) : Bool :=
  blk.fired.isNone && (withIndex 0 is).all (fun x => !isExit x.2 || opFinished is blk x.1)

/-- A control operation: its predicate, its condition operand, and what firing does to the block. After an `exit` that did
not fire, a block whose exits have all executed without firing faults (R69). -/
def runControl (r : Row) (o : Op) (s : State) (fire : View → Srcs → Except Stop Blk) : State :=
  let v := mkView s r o
  let settle (blk : Blk) : State :=
    let blk1 := { blk with done := mapSet v.cur.op (v.cur.elem + 1) blk.done }
    if (r == .exit || r == .exitRegisterTarget) && noExitFired v.instrs blk1 then stopOp v (faultCode .exit)
    else s.modCtx v.cur.bu v.cur.slot (fun c => { c with blk := blk1 })
  match readPred v.c v.o.pred with
  | .error e => stopOp v e
  | .ok bits =>
    let sel := selBits bits v.o.psense
    if sel % 2 = 0 then settle v.c.blk
    else
      match readSrcs v sel with
      | .error e => stopOp v e
      | .ok x =>
        if condHolds v.o x.a then
          match fire v x with
          | .ok blk => settle blk
          | .error e => stopOp v e
        else settle v.c.blk

/-- An `exit` fires: a second one faults (R69). -/
def fireExit (v : View) (x : Srcs) : Except Stop Blk :=
  match v.c.blk.fired with
  | some _ => .error (faultCode .exit)
  | none => .ok { v.c.blk with fired := some (v.cur.op, controlTarget v x) }

/-- A rider fires: a second one faults (R70). -/
def fireRider (rd : Rider) (v : View) : Except Stop Blk :=
  match v.c.blk.rider with
  | some _ => .error (faultCode .exit)
  | none => .ok { v.c.blk with rider := some rd }

/-- `call` on a full stack faults (R70). -/
def fireCall (v : View) (x : Srcs) : Except Stop Blk :=
  if v.c.blk.rider.isSome then .error (faultCode .exit)
  else if 8 ≤ v.c.regs.depth then .error (faultCode .stack) else fireRider (.call (controlTarget v x)) v

/-- `ret` on an empty stack faults (R70). -/
def fireRet (v : View) (_ : Srcs) : Except Stop Blk :=
  if v.c.blk.rider.isSome then .error (faultCode .exit)
  else if v.c.regs.depth = 0 then .error (faultCode .stack) else fireRider .ret v

/-- `exit` with an immediate target (R69, R73). -/
def execExit (o : Op) (s : State) : Host.Outcome State Fault Refusal := nextState (runControl .exit o s fireExit)
/-- `exit` with a register target: bits [15:0], checked when the successor is fetched (R72). -/
def execExitRegisterTarget (o : Op) (s : State) : Host.Outcome State Fault Refusal :=
  nextState (runControl .exitRegisterTarget o s fireExit)
/-- `call` with an immediate target (R70). -/
def execCall (o : Op) (s : State) : Host.Outcome State Fault Refusal := nextState (runControl .call o s fireCall)
/-- `call` with a register target (R70, R72). -/
def execCallRegisterTarget (o : Op) (s : State) : Host.Outcome State Fault Refusal :=
  nextState (runControl .callRegisterTarget o s fireCall)
/-- `ret` (R70). -/
def execRet (o : Op) (s : State) : Host.Outcome State Fault Refusal := nextState (runControl .ret o s fireRet)
/-- `halt` (R70, R71). -/
def execHalt (o : Op) (s : State) : Host.Outcome State Fault Refusal :=
  nextState (runControl .halt o s (fun v _ => fireRider .halt v))
/-- `yield` is no rider: the commit raises the pass (R74). -/
def execYield (o : Op) (s : State) : Host.Outcome State Fault Refusal :=
  nextState (runControl .yield o s (fun v _ => .ok { v.c.blk with yielded := true }))
/-- `trap` raises TRAP with its code in `extra` (R87). -/
def execTrap (o : Op) (s : State) : Host.Outcome State Fault Refusal :=
  nextState (runControl .trap o s (fun v x => .error (.fault ⟨.trap, 0, controlTarget v x⟩)))
/-- `brk` raises BREAK with its code in `extra` (R87). -/
def execBrk (o : Op) (s : State) : Host.Outcome State Fault Refusal :=
  nextState (runControl .brk o s (fun v x => .error (.fault ⟨.brk, 0, controlTarget v x⟩)))

/-- `eret` fires always: its modifier is an action, not a condition (R73, R89). -/
def runEret (r : Row) (action : Nat) (o : Op) (s : State) : State :=
  let v := mkView s r o
  match readPred v.c v.o.pred with
  | .error e => stopOp v e
  | .ok bits =>
    let settle (blk : Blk) : State := s.modCtx v.cur.bu v.cur.slot (fun c =>
      { c with blk := { blk with done := mapSet v.cur.op (v.cur.elem + 1) blk.done } })
    if selBits bits v.o.psense % 2 = 0 then settle v.c.blk
    else
      match fireRider (.eret action) v with
      | .ok blk => settle blk
      | .error e => stopOp v e

/-- `eret.resume` (R89). -/
def execEretResume (o : Op) (s : State) : Host.Outcome State Fault Refusal := nextState (runEret .eretResume 0 o s)
/-- `eret.poison` (R89). -/
def execEretPoison (o : Op) (s : State) : Host.Outcome State Fault Refusal := nextState (runEret .eretPoison 1 o s)
/-- `eret.esc` (R89). -/
def execEretEsc (o : Op) (s : State) : Host.Outcome State Fault Refusal := nextState (runEret .eretEsc 2 o s)

/-- `nop` occupies a slot and has no effect (R33). -/
def execNop (s : State) : Host.Outcome State Fault Refusal :=
  let cur := s.my.cur
  nextState (s.modCtx cur.bu cur.slot (fun c => { c with blk := { beginBlk c with done := mapSet cur.op 1 (beginBlk c).done } }))

/-- `imm` has no effect by itself: the next operation's immediate takes its value by slot order (R32, R33). -/
def execImm (value : BitVec 32) (s : State) : Host.Outcome State Fault Refusal :=
  let _ := value
  execNop s

/-! ### rep (R75, R76) -/

/-- How many registers of its row begin at an operand (R76); constant 31 is outside its row. -/
def rowRoom (r : Reg) : Nat :=
  match r with
  | .g i => 32 - i.val
  | .t i => 16 - i.val
  | .v i => 8 - i.val
  | .p i => 8 - i.val
  | .c i => 31 - i.val
  | _ => 0

/-- A count keeps every stepped operand of the repeated operation in its row (R76). -/
def stepsFit (rep o : Op) (n : Nat) : Bool :=
  let ok (on : Bool) (x : Opnd) : Bool := !on || n ≤ rowRoom x.reg
  ok (rep.modBit 3) o.dst && ok (rep.modBit 2) o.a && ok (rep.modBit 1) o.b && ok (rep.modBit 0) o.c

/-- The temporaries that a repeated operation leaves without a value (R58, R76): for a count n, those from element n on of the
`most` that it may write and that hold none. -/
def resolveTemps (n most : Nat) (stepped : Bool) (d : Opnd) (blk : Blk) : Blk :=
  match d.reg with
  | .t i =>
    let span := if stepped then most else 1
    (List.range span).foldl (fun b e =>
      if h : i.val + e < 16 then
        if n ≤ e && b.temps[i.val + e] == .unwritten then { b with temps := b.temps.set (i.val + e) .resolved } else b
      else b) blk
  | _ => blk

/-- `rep` gives the operation after it its element count (R75, R76). A register count above 32, one that leaves a row, or one
above 1 with an unstepped temporary destination raises REPEAT before any element executes. A `rep` that its predicate does not
select repeats nothing: the operation executes once (assumption 12, DEDUCED, unsafe). -/
def execRep (o : Op) (s : State) : Host.Outcome State Fault Refusal :=
  let v := mkView s .rep o
  let k := v.cur.op + 1
  let target : Op := match v.instrs[k]? with
    | some i => i.op?.getD { pred := 0, psense := false, dst := Opnd.zero, a := Opnd.zero, tail := .imm 0 }
    | none => { pred := 0, psense := false, dst := Opnd.zero, a := Opnd.zero, tail := .imm 0 }
  let settle (n : Nat) : State :=
    let blk := { v.c.blk with done := mapSet v.cur.op 1 v.c.blk.done, reps := mapSet k n v.c.blk.reps }
    let most := if v.o.modBit 4 then 16 else v.o.modBits 5 6
    s.modCtx v.cur.bu v.cur.slot (fun c => { c with blk := resolveTemps n most (v.o.modBit 3) target.dst blk })
  nextState (
    match readPred v.c v.o.pred with
    | .error e => stopOp v e
    | .ok bits =>
      if selBits bits v.o.psense % 2 = 0 then settle 1
      else if !v.o.modBit 4 then settle (v.o.modBits 5 6)
      else
        match readSrcs v (2 ^ 64 - 1) with
        | .error e => stopOp v e
        | .ok x =>
          let isTemp := match target.dst.reg with | .t _ => true | _ => false
          let n := x.a % 2 ^ 64
          if 32 < n || !stepsFit v.o target n || (1 < n && isTemp && !v.o.modBit 3) then stopOp v (faultCode .repeat_)
          else settle n)

end Sys2Proof.Machine
end

