-- ==== Sys2Proof/Machine/Lanes.lean ====
section
/-!
DEFINITION. The frame of a vector operation: lanes, predicates, merge values, draws and faults (R155, R161 to R163), the residue
arithmetic of an rns lane (R232 to R235), and the roots and logarithms that special functions round (R180 to R182).
-/
namespace Sys2Proof.Machine

/-! ### The lanes of an operation -/

/-- What one lane gives: its bits, its flags, the generator after its draws, and whether it overflows under TRAP. -/
structure LaneRes where
  bits : Nat
  flags : Nat
  rng : Word
  trap : Bool
deriving DecidableEq, Repr

/-- A lane's bits with no flag and no draw. -/
def plain (f : Nat → Nat) (k : Nat) (g : Word) : LaneRes := ⟨f k, 0, g, false⟩

/-- The lanes gathered so far, last first. -/
structure LaneAcc where
  out : List Nat
  flags : Nat
  rng : Word
  trap : Option Nat
deriving DecidableEq, Repr

/-- `zm` of a vector operation (R164). -/
def View.zm (v : View) : Bool := v.o.modBit 10

/-- The predicate bit of lane k (R161). -/
def predBit (t : Ty) (k : Nat) : Nat := if t = .nq4 then k / 2 else k

/-- Lanes 0 to n - 1 of `bits` bits: those that `live` names are computed in ascending order, the others take the merge value
(R155, R163). An overflow under TRAP faults with the lowest such lane (R152). -/
def vecLanes (v : View) (bits n : Nat) (zm : Bool) (live : Nat → Bool) (f : Nat → Word → LaneRes) : Except Stop Res :=
  match readMerge v zm ((List.range n).all live) with
  | .error e => .error e
  | .ok m =>
    let acc := (List.range n).foldl (fun (a : LaneAcc) k =>
      if live k then
        let r := f k a.rng
        { out := r.bits :: a.out, flags := fOr a.flags r.flags, rng := r.rng,
          trap := if a.trap.isNone && r.trap then some k else a.trap }
      else { a with out := laneOf bits m k :: a.out }) { out := [], flags := 0, rng := v.c.blk.rng, trap := none }
    match acc.trap with
    | some k => .error (.fault ⟨.overflow, 0, k⟩)
    | none => .ok { Res.ofVal (packLanes bits acc.out.reverse) with flags := acc.flags, rng := some acc.rng }

/-- The lanes of a destination of type t, selected by the predicate. -/
def tyLanes (v : View) (x : Srcs) (t : Ty) (f : Nat → Word → LaneRes) : Except Stop Res :=
  vecLanes v t.bits t.lanes v.zm (fun k => bitOf x.sel (predBit t k)) f

/-- A draw when the operation rounds stochastically (R155). -/
def drawFor (v : View) (g : Word) : Option Nat × Word :=
  if v.o.sr then let g1 := rngNext g; (some (rngDraw g1), g1) else (none, g)

/-- The rounding of a lane's exact result under the operation's fields (R149, R151, R152). -/
def roundLane (v : View) (t : Ty) (e : Exact) (g : Word) : LaneRes :=
  let (d, g1) := drawFor v g
  let r := round e.val t v.o.rm d (effectivePolicy v.c.regs.ovr v.o.ovf)
  ⟨r.bits, fOr e.flags r.flags, g1, r.trap⟩

/-- The rounding mode is RDN, for the sign of an exact zero sum (R156). -/
def View.rdn (v : View) : Bool := v.o.rm == .rdn

/-- Lane k of a source of type t as a value. -/
def laneVal (t : Ty) (val k : Nat) : Val := valueOf t (laneOf t.bits val k)

/-- A sum of products and addends (R150, R156): NaN when an operand is NaN, and `inv` for an undefined product or sum. -/
def dotVals (ps : List (Val × Val)) (as : List Val) (rdn : Bool) : Exact :=
  if ps.any (fun p => p.1 == .nan || p.2 == .nan) || as.any (· == .nan) then ⟨.nan, 0⟩
  else
    let prods := ps.map (fun p => mulVal p.1 p.2)
    if prods.any (fun e => e.val == .nan) then ⟨.nan, fInv⟩ else sumVals (prods.map (·.val) ++ as) rdn

/-! ### Residues (R232 to R235) -/

/-- The modulus of a channel (R232). -/
def modulus : Nat → Nat
  | 0 => 256 | 1 => 255 | 2 => 253 | 3 => 251 | 4 => 257 | _ => 263

/-- The main product M. -/
def rnsM : Int := 4145475840

/-- x is legitimate (R232). -/
def legitimate (x : Int) : Bool := -2072737920 ≤ x && x ≤ 2072737919

/-- The six residues of a value. -/
def residuesOf (x : Int) : List Nat := (List.range 6).map (fun c => (x % (modulus c : Int)).toNat)

/-- The six residues that a reader takes from a lane (R233). -/
def laneResidues (lane : Nat) : List Nat :=
  [bitsOf lane 0 8 % 256, bitsOf lane 8 8 % 255, bitsOf lane 16 8 % 253, bitsOf lane 24 8 % 251, bitsOf lane 32 9 % 257,
   bitsOf lane 48 9 % 263]

/-- The lane of six residues (R233). -/
def packResidues (r : List Nat) : Nat :=
  r.getD 0 0 + r.getD 1 0 * 2 ^ 8 + r.getD 2 0 * 2 ^ 16 + r.getD 3 0 * 2 ^ 24 + r.getD 4 0 * 2 ^ 32 + r.getD 5 0 * 2 ^ 48

/-- An operation on each channel of two lanes (R168). -/
def rnsLaneOp (f : Int → Int → Int) (a b : Nat) : Nat :=
  let ra := laneResidues a
  let rb := laneResidues b
  packResidues ((List.range 6).map (fun c =>
    (f ((ra.getD c 0 : Nat) : Int) ((rb.getD c 0 : Nat) : Int) % (modulus c : Int)).toNat))

/-- a^n modulo m by n multiplications; n is below a modulus. -/
def powMod (a m : Nat) : Nat → Nat
  | 0 => 1 % m
  | n + 1 => a * powMod a m n % m

/-- The inverse of a modulo m, found by trying each residue; 0 when there is none. -/
def invMod (a m : Nat) : Nat := ((List.range m).find? (fun x => a * x % m = 1)).getD 0

/-- Recon(r, S) (R234): the value nearest zero that agrees with the residues of the channels of S. -/
def recon (r : List Nat) (ch : List Nat) : Int :=
  let p := ch.foldl (fun acc c => acc * modulus c) 1
  let x := (ch.foldl (fun acc c =>
    let m := modulus c
    let q := p / m
    acc + (r.getD c 0 % m) * q * invMod (q % m) m) 0) % p
  if p ≤ 2 * x then (x : Int) - p else (x : Int)

/-- The main set of a mode (R239). -/
def mainSet (mode : Nat) : List Nat :=
  match mode with
  | 1 => [1, 2, 3, 4] | 2 => [0, 2, 3, 4] | 3 => [0, 1, 3, 4] | 4 => [0, 1, 2, 4] | _ => [0, 1, 2, 3]

/-- The check set of a mode (R239). -/
def checkSet (mode : Nat) : List Nat :=
  match mode with
  | 0 => [4, 5] | 6 => [4] | _ => [5]

/-- The outcomes of `Check` (R235). -/
inductive RnsOut where
  | ok (x : Int)
  | corr (c : Nat) (x : Int)
  | bad
deriving DecidableEq, Repr

/-- `Check` under a mode (R235). -/
def rnsCheck (mode : Nat) (r : List Nat) : RnsOut :=
  let x := recon r (mainSet mode)
  let agrees (c : Nat) : Bool := (x % (modulus c : Int)).toNat = r.getD c 0 % modulus c
  if legitimate x && (checkSet mode).all agrees then .ok x
  else if mode ≠ 0 then .bad
  else
    let without (i : Nat) : Int := recon r ((List.range 6).filter (· != i))
    match (List.range 6).filter (fun i => legitimate (without i)) with
    | [i] => .corr i (without i)
    | _ => .bad

/-! ### Roots, powers and logarithms -/

/-- The bits of the integer square root of n, from bit b - 1 down. -/
def isqrtGo (n : Nat) : Nat → Nat → Nat
  | 0, r => r
  | b + 1, r => let t := r + 2 ^ b; isqrtGo n b (if t * t ≤ n then t else r)

/-- floor(√n). -/
def isqrt (n : Nat) : Nat := isqrtGo n (Nat.log2 n / 2 + 1) 0

/-- A value that rounds as √q does, in every type and mode: the exact root, or one between the root's neighbours at 2^-k of
its size. -/
def sqrtQ (q : Q) (k : Nat) : Q :=
  let n := q.num.natAbs
  -- √(n/d) = √(n·d)/d, scaled by 2^k
  let w := n * q.den * 2 ^ (2 * k)
  let r := isqrt w
  if r * r = w then Q.norm (r : Int) (q.den * 2 ^ k) else Q.norm ((2 * r + 1 : Nat) : Int) (q.den * 2 ^ (k + 1))

/-- 2^(j / 2^m) in units of 2^-p: m square roots of 2^j. -/
def pow2Frac (p j : Nat) : Nat → Nat
  | 0 => 2 ^ (j + p)
  | m + 1 => isqrt (pow2Frac p j m * 2 ^ p)

/-- U[j] of R182, as a rational: 2^(j/256) rounded RNE to f32. -/
def tableU (j : Nat) : Q := (valueOf .f32 (round (.fin (Q.norm (pow2Frac 200 j 8 : Nat) (2 ^ 200))) .f32 .rne none .sat).bits).q

/-- W[i] of R182: 2^(i/65536) rounded RNE to f32. -/
def tableW (i : Nat) : Q := (valueOf .f32 (round (.fin (Q.norm (pow2Frac 200 i 16 : Nat) (2 ^ 200))) .f32 .rne none .sat).bits).q

/-- The binary digits of log2(y / 2^p), for y in 2^p..2^(p+1), by repeated squaring: n digits, as a number. -/
def log2Digits (p : Nat) : Nat → Nat → Nat
  | 0, _ => 0
  | n + 1, y =>
    let z := y * y / 2 ^ p
    if 2 ^ (p + 1) ≤ z then 2 ^ n + log2Digits p n (z / 2) else log2Digits p n z

/-- A value that rounds as log2 q does, for a positive q (assumption 20, DEDUCED, unsafe): exact for a power of two. -/
def log2Q (q : Q) : Q :=
  let e := q.log2
  let m := q.scale (-e)
  if m = ⟨1, 1⟩ then Q.ofInt e
  else
    let y := (m.scale 256).floor.toNat
    Q.add (Q.ofInt e) (Q.norm ((2 * log2Digits 256 140 y + 1 : Nat) : Int) (2 ^ 141))

/-- The terms of e^r from the k-th on, in units of 2^-p, given the last term. -/
def expTerms (p r : Nat) : Nat → Nat → Nat → Nat
  | 0, _, _ => 0
  | n + 1, k, last => let t := last * r / 2 ^ p / k; t + expTerms p r n (k + 1) t

/-- A number in units of 2^-p squared n times. -/
def squareTimes (p : Nat) : Nat → Nat → Nat
  | 0, x => x
  | n + 1, x => squareTimes p n (x * x / 2 ^ p)

/-- e^r in units of 2^-400, for r in the same units below 2^407. -/
def expFix (r : Nat) : Nat := squareTimes 400 16 (2 ^ 400 + expTerms 400 (r / 2 ^ 16) 60 1 (2 ^ 400))

/-- A value that rounds as tanh |q| does, for a q that is not zero (assumption 20, DEDUCED, unsafe). -/
def tanhQ (q : Q) : Q :=
  let a := q.abs
  if Q.le ⟨64, 1⟩ a then Q.norm (2 ^ 150 - 1 : Nat) (2 ^ 150)
  else if Q.le a (Q.pow2 (-60)) then Q.mul a (Q.norm (2 ^ 100 - 1 : Nat) (2 ^ 100))
  else
    let e := expFix ((a.scale 401).floor.toNat)
    Q.norm ((e - 2 ^ 400 : Nat) : Int) (e + 2 ^ 400)

end Sys2Proof.Machine
end

