-- ==== Sys2Proof/Machine/Convert.lean ====
section
/-!
DEFINITION. Conversions, quantisation and the special functions (R175 to R182), and the residue vector operations (R247 to R250).
-/
namespace Sys2Proof.Machine

/-! ### Conversions (R175 to R177) -/

/-- The source type of a conversion: `mod`[3:0]. -/
def View.srcTy (v : View) : Ty := Ty.ofCode (v.o.modBits 0 4)

/-- Cvt of lane i of a source (R175). -/
def cvtLane (v : View) (src : Ty) (val i : Nat) (g : Word) : LaneRes := roundLane v v.o.ty ⟨laneVal src val i, 0⟩ g

/-- `vcvt` (R175). -/
def execVcvt (o : Op) (s : State) : Host.Outcome State Fault Refusal :=
  nextState (runVector .vcvt o s always (fun v x =>
    let t := v.o.ty
    let src := v.srcTy
    let n := 64 / max src.bytes t.bytes
    let p := v.o.modBits 4 2
    if src.bytes < t.bytes then tyLanes v x t (fun k g => cvtLane v src x.a (p * n + k) g)
    else
      let base := if t.bytes < src.bytes then p * n else 0
      vecLanes v t.bits t.lanes v.zm (fun k => bitOf x.sel k && base ≤ k && k < base + n)
        (fun k g => cvtLane v src x.a (k - base) g)))

/-- `vpack` (R176). -/
def execVpack (o : Op) (s : State) : Host.Outcome State Fault Refusal :=
  nextState (runVector .vpack o s always (fun v x =>
    let n := v.srcTy.lanes
    tyLanes v x v.o.ty (fun k g => if k < n then cvtLane v v.srcTy x.a k g else cvtLane v v.srcTy x.b (k - n) g)))

/-- An exact conversion of a lane (R176): a NaN becomes the canonical NaN. -/
def exactLane (src dst : Ty) (bits : Nat) : Nat :=
  if dst.isInt then wrapNat dst.bits (if src.isSigned then signedOf src.bits bits else (bits : Int))
  else patternOf dst (valueOf src bits)

/-- `vunpk` (R176). -/
def execVunpk (o : Op) (s : State) : Host.Outcome State Fault Refusal :=
  nextState (runVector .vunpk o s always (fun v x =>
    let t := v.o.ty
    let src := v.srcTy
    let base := if v.o.modBit 4 then t.lanes else 0
    tyLanes v x t (plain (fun k => exactLane src t (laneOf src.bits x.a (base + k))))))

/-- The lane of `vrnd` (R177): rounded to an integral value of its type; `nx` alone when it changes. -/
def rndLane (v : View) (t : Ty) (bits : Nat) (g : Word) : LaneRes :=
  let (d, g1) := drawFor v g
  match valueOf t bits with
  | .nan => ⟨t.nan, 0, g1, false⟩
  | .fin q =>
    if Q.le (Q.pow2 ((t.prec : Int) - 1)) q.abs then ⟨bits, 0, g1, false⟩
    else
      let neg := decide (q.num < 0)
      let n := roundInt q.abs v.o.rm neg d
      let res := if neg then (Q.ofInt n).neg else Q.ofInt n
      ⟨patternOf t (if res.isZero then .zero neg else .fin res), if decide (res = q) then 0 else fNx, g1, false⟩
  | _ => ⟨bits, 0, g1, false⟩

/-- `vrnd` (R177). -/
def execVrnd (o : Op) (s : State) : Host.Outcome State Fault Refusal :=
  nextState (runVector .vrnd o s always (fun v x =>
    let t := v.o.ty
    tyLanes v x t (fun k g => rndLane v t (laneOf t.bits x.a k) g)))

/-- a x 2^j (R177). Beyond 2^8192 either way the scale makes no difference to a rounding, so j is held there. -/
def sclVal (a : Val) (j : Int) : Val :=
  match a with
  | .fin q => .fin (q.scale (satInt j (-8192) 8192))
  | _ => a

/-- `vscl` (R177). -/
def execVscl (o : Op) (s : State) : Host.Outcome State Fault Refusal :=
  nextState (runVector .vscl o s always (fun v x =>
    let t := v.o.ty
    let b := spread v.o.b t.bits t.lanes x.b
    tyLanes v x t (fun k g =>
      roundLane v t ⟨sclVal (laneVal t x.a k) (signedOf t.bits (laneOf t.bits b k)), 0⟩ g)))

/-- The class of a float lane (R177). -/
def classOf (t : Ty) (bits : Nat) : Nat :=
  match valueOf t bits with
  | .nan => 8
  | .inf true => 0
  | .inf false => 7
  | .zero true => 3
  | .zero false => 4
  | .fin q =>
    let sub := Q.lt q.abs (Q.pow2 t.emin)
    if q.num < 0 then (if sub then 2 else 1) else if sub then 5 else 6

/-- `vfclass` (R177). -/
def execVfclass (o : Op) (s : State) : Host.Outcome State Fault Refusal :=
  nextState (runVector .vfclass o s always (fun v x =>
    let t := v.o.ty
    tyLanes v x t (plain (fun k => classOf t (laneOf t.bits x.a k)))))

/-! ### NQ4 (R178, R179) -/

/-- The lowest non-zero byte of a number among bytes lo to lo + n - 1 (R148: the offending byte of reason 4). (assumption 29, DEDUCED, unsafe) -/
def offending (n lo len : Nat) : Nat :=
  (((List.range len).map (fun k => bitsOf n (8 * (lo + k)) 8)).find? (· != 0)).getD 0

/-- The scales of `vqnt` and `vdqnt` (R178): s64 and S256, or the FORMAT fault of a bad scalar. -/
def nqScales (b : Nat) : Except Stop (Q × Val) :=
  match ue4m3 (bitsOf b 0 8) with
  | none => .error (.fault ⟨.format, 0, bitsOf b 0 8 + 2 * 2 ^ 8⟩)
  | some s64 =>
    if bitsOf b 8 24 ≠ 0 then .error (.fault ⟨.format, 0, offending b 1 3 + 4 * 2 ^ 8⟩)
    else .ok (s64, valueOf .f32 (bitsOf b 32 32))

/-- The lane of `vqnt` (R153, R178): code 8 and `inv` where the rounding calls for NaN. -/
def qntLane (v : View) (s64 : Q) (s256 : Val) (a : Val) (g : Word) : LaneRes :=
  let (d, g1) := drawFor v g
  let den := mulVal (Val.ofQ s64) s256
  let u := divVal a den.val
  let r := roundNq4 u.val v.o.rm d (effectivePolicy v.c.regs.ovr v.o.ovf)
  ⟨r.code, fOr (fOr (if a == .nan then 0 else u.flags) r.flags) (if r.nan then fInv else 0), g1, r.trap⟩

/-- `vqnt` (R178). -/
def execVqnt (o : Op) (s : State) : Host.Outcome State Fault Refusal :=
  nextState (runVector .vqnt o s always (fun v x =>
    match nqScales (x.b % 2 ^ 64) with
    | .error e => .error e
    | .ok (s64, s256) =>
      let src := v.srcTy
      let n := src.lanes
      let base := v.o.modBits 4 4 * n
      vecLanes v 4 128 v.zm (fun k => base ≤ k && k < base + n && bitOf x.sel (k - base))
        (fun k g => qntLane v s64 s256 (laneVal src x.a (k - base)) g)))

/-- `vdqnt` (R179). -/
def execVdqnt (o : Op) (s : State) : Host.Outcome State Fault Refusal :=
  nextState (runVector .vdqnt o s always (fun v x =>
    match nqScales (x.b % 2 ^ 64) with
    | .error e => .error e
    | .ok (s64, s256) =>
      let t := v.o.ty
      let base := v.o.modBits 4 4 * t.lanes
      tyLanes v x t (fun k g => roundLane v t (nq4Weight (laneOf 4 x.a (base + k)) s64 s256) g)))

/-! ### Special functions (R180 to R182) -/

/-- 2^y by the table or the cubic path, before the rounding (R182). Beyond 2^4096 either way the value rounds as 2^±4096
does. -/
def exp2Val (table : Bool) (y : Q) : Q :=
  if Q.le ⟨4096, 1⟩ y then Q.pow2 4096
  else if Q.lt y ⟨-4096, 1⟩ then Q.pow2 (-4096)
  else
    let k := y.floor
    let f := Q.add y (Q.ofInt k).neg
    let j := (f.scale 8).floor.toNat
    let c1 := (valueOf .f32 0x3F317218).q
    let one : Q := ⟨1, 1⟩
    if table then
      let i := (f.scale 16).floor.toNat - 256 * j
      let c := Q.add f (Q.norm (256 * j + i : Nat) 65536).neg
      (Q.mul (Q.mul (tableU j) (tableW i)) (Q.add one (Q.mul c c1))).scale k
    else
      let c2 := (valueOf .f32 0x3E75FDF0).q
      let c3 := (valueOf .f32 0x3D635847).q
      let g := Q.add f (Q.norm (j : Nat) 256).neg
      (Q.mul (tableU j) (Q.add one (Q.mul g (Q.add c1 (Q.mul g (Q.add c2 (Q.mul g c3))))))).scale k

/-- e^a or 2^a of a lane (R181, R182): `l` is 1 for `vexp2`. -/
def expVal (l : Q) (table : Bool) (a : Val) : Exact :=
  match a with
  | .nan => ⟨.nan, 0⟩
  | .inf true => ⟨.zero false, 0⟩
  | .inf false => ⟨.inf false, 0⟩
  | .zero _ => ⟨.fin ⟨1, 1⟩, 0⟩
  | .fin q => ⟨.fin (exp2Val table (Q.mul q l)), 0⟩

/-- log2 of a lane (R180, R181). -/
def log2Val (a : Val) : Exact :=
  match a with
  | .nan => ⟨.nan, 0⟩
  | .inf true => ⟨.nan, fInv⟩
  | .inf false => ⟨.inf false, 0⟩
  | .zero _ => ⟨.inf true, fDz⟩
  | .fin q => if q.num < 0 then ⟨.nan, fInv⟩ else ⟨Val.ofQ (log2Q q), 0⟩

/-- 1/a of a lane (R180, R181). -/
def rcpVal (a : Val) : Exact :=
  match a with
  | .nan => ⟨.nan, 0⟩
  | .inf n => ⟨.zero n, 0⟩
  | .zero n => ⟨.inf n, fDz⟩
  | .fin q => ⟨.fin (Q.div ⟨1, 1⟩ q), 0⟩

/-- 1/√a of a lane (R180, R181). -/
def rsqVal (a : Val) : Exact :=
  match a with
  | .nan => ⟨.nan, 0⟩
  | .inf true => ⟨.nan, fInv⟩
  | .inf false => ⟨.zero false, 0⟩
  | .zero n => ⟨.inf n, fDz⟩
  | .fin q => if q.num < 0 then ⟨.nan, fInv⟩ else ⟨.fin (sqrtQ (Q.div ⟨1, 1⟩ q) 160), 0⟩

/-- √a of a lane (R180, R181). -/
def sqrtVal (a : Val) : Exact :=
  match a with
  | .nan => ⟨.nan, 0⟩
  | .inf true => ⟨.nan, fInv⟩
  | .inf false => ⟨.inf false, 0⟩
  | .zero n => ⟨.zero n, 0⟩
  | .fin q => if q.num < 0 then ⟨.nan, fInv⟩ else ⟨.fin (sqrtQ q 160), 0⟩

/-- tanh a of a lane (R180, R181). -/
def tanhVal (a : Val) : Exact :=
  match a with
  | .nan => ⟨.nan, 0⟩
  | .inf n => ⟨.fin (if n then ⟨-1, 1⟩ else ⟨1, 1⟩), 0⟩
  | .zero n => ⟨.zero n, 0⟩
  | .fin q => ⟨.fin (if q.num < 0 then (tanhQ q).neg else tanhQ q), 0⟩

/-- A special function (R180): its lanes, draws and merge values are taken at issue; the request carries the result and the
flags, or its overflow, to its arrival. -/
def specialBody (f : View → Nat → Val → Exact) (v : View) (x : Srcs) : Except Stop Res :=
  let t := v.o.ty
  let q := mkReq v { x with pops := [] }
  match tyLanes v x t (fun k g => roundLane v t (f v k (laneVal t x.a k)) g) with
  | .ok r =>
    .ok { Res.none with rng := r.rng,
                        sent := some { q with flags := r.flags, stage := .replied (BitVec.ofNat 512 (r.val.getD 0)) } }
  | .error (.fault e) =>
    if e.code = .overflow then
      .ok { Res.none with rng := some ((List.range t.lanes).foldl (fun g k =>
                            if v.o.sr && bitOf x.sel k then rngNext g else g) v.c.blk.rng),
                          sent := some { q with stage := .failed Code.overflow.num 0 e.extra } }
    else .error (.fault e)
  | .error .wait => .error .wait

/-- A special function that is the same in every lane. -/
def runSpecial (r : Row) (f : Val → Exact) (o : Op) (s : State) : State :=
  runVector r o s always (specialBody (fun _ _ a => f a))

/-- `vexp` (R180 to R182): lanes below `ctx.expsplit`, 16 of them at most, take the table path. -/
def execVexp (o : Op) (s : State) : Host.Outcome State Fault Refusal :=
  nextState (runVector .vexp o s always (specialBody (fun v k a =>
    expVal (valueOf .f32 0x3FB8AA3B).q (k < 16 && k < v.c.regs.expsplit) a)))
/-- `vexp2` (R180 to R182). -/
def execVexp2 (o : Op) (s : State) : Host.Outcome State Fault Refusal :=
  nextState (runVector .vexp2 o s always (specialBody (fun v k a =>
    expVal ⟨1, 1⟩ (k < 16 && k < v.c.regs.expsplit) a)))
/-- `vlog2` (R180, R181). -/
def execVlog2 (o : Op) (s : State) : Host.Outcome State Fault Refusal := nextState (runSpecial .vlog2 log2Val o s)
/-- `vrcp` (R180, R181). -/
def execVrcp (o : Op) (s : State) : Host.Outcome State Fault Refusal := nextState (runSpecial .vrcp rcpVal o s)
/-- `vrsq` (R180, R181). -/
def execVrsq (o : Op) (s : State) : Host.Outcome State Fault Refusal := nextState (runSpecial .vrsq rsqVal o s)
/-- `vsqrt` (R180, R181). -/
def execVsqrt (o : Op) (s : State) : Host.Outcome State Fault Refusal := nextState (runSpecial .vsqrt sqrtVal o s)
/-- `vtanh` (R180, R181). -/
def execVtanh (o : Op) (s : State) : Host.Outcome State Fault Refusal := nextState (runSpecial .vtanh tanhVal o s)

/-! ### Residue vectors (R247 to R250) -/

/-- `vrns.fwd` (R248). -/
def execVrnsFwd (o : Op) (s : State) : Host.Outcome State Fault Refusal :=
  nextState (runVector .vrnsFwd o s always (fun v x =>
    let src := v.srcTy
    let p := v.o.modBits 4 3
    let pol := effectivePolicy v.c.regs.ovr v.o.ovf
    vecLanes v 64 8 v.zm (fun k => bitOf x.sel k) (fun k g =>
      let bits := laneOf src.bits x.a (8 * p + k)
      let n : Int := if src.isSigned then signedOf src.bits bits else (bits : Int)
      let held := satInt n (-2072737920) 2072737919
      ⟨packResidues (residuesOf held), if legitimate n then 0 else fOf, g, !legitimate n && pol == .trap⟩)))

/-- The outcomes of the lanes of an rns source, under the mode read at issue (R249, R250). -/
def rnsLanes (v : View) (val : Nat) : List RnsOut :=
  (List.range 8).map (fun k => rnsCheck v.b.rns.mode (laneResidues (laneOf 64 val k)))

/-- What a block reports of its corrections: the mask of channels, the count, and the counts by channel (R236). -/
def correctionEff (cs : List Nat) : List Eff :=
  if cs.isEmpty then []
  else [.rnsCorr (bitMapOf cs) cs.length ((List.range 6).map (fun c => (cs.filter (· == c)).length))]
where
  /-- The mask of the channels of a list. -/
  bitMapOf (cs : List Nat) : Nat := ((List.range 6).filter (fun c => cs.contains c)).foldl (fun acc c => acc + 2 ^ c) 0

/-- `vrns.rev` (R249). -/
def execVrnsRev (o : Op) (s : State) : Host.Outcome State Fault Refusal :=
  nextState (runVector .vrnsRev o s always (fun v x =>
    if v.b.rns.mode = 7 then .error (faultCode .rnsRetired)
    else
      let t := v.o.ty
      let base := if v.o.modBit 4 then 8 else 0
      let outs := rnsLanes v x.a
      let sel (i : Nat) : Bool := bitOf x.sel (base + i)
      let out (i : Nat) : RnsOut := outs.getD i .bad
      match (List.range 8).find? (fun i => sel i && out i == .bad) with
      | some i => .error (.fault ⟨if v.o.modBit 8 then .rnsUnc else .rnsRange, 0, i⟩)
      | none =>
        let corrected := ((List.range 8).filter sel).filterMap (fun i => match out i with | .corr c _ => some c | _ => none)
        let val (i : Nat) : Int := match out i with | .ok n => n | .corr _ n => n | .bad => 0
        match vecLanes v t.bits t.lanes v.zm (fun k => base ≤ k && k < base + 8 && bitOf x.sel k)
            (plain (fun k => wrapNat t.bits (val (k - base)))) with
        | .error e => .error e
        | .ok r => .ok { r with effs := correctionEff corrected }))

/-- `vrns.chk` (R250). -/
def execVrnsChk (o : Op) (s : State) : Host.Outcome State Fault Refusal :=
  nextState (runVector .vrnsChk o s always (fun v x =>
    if v.b.rns.mode = 7 then .error (faultCode .rnsRetired)
    else
      let nibble (i : Nat) (r : RnsOut) : Nat :=
        if !bitOf x.sel i then 15 else match r with | .ok _ => 0 | .corr c _ => c + 1 | .bad => 14
      .ok (Res.ofVal (packLanes 4 ((withIndex 0 (rnsLanes v x.a)).map (fun e => nibble e.1 e.2))))))

end Sys2Proof.Machine
end

