-- ==== Sys2Proof/Machine/Fetch.lean ====
section
/-!
DEFINITION. Where the next instruction stands: the word of a running block that a cursor names (R25, R32), and the entry at the
head of the host's command queue (R399, R400), with the completion of a command.
-/
namespace Sys2Proof.Machine

/-! ### Operation words -/

/-- The word of the current block of a slot that a cursor names. -/
def State.wordAt (s : State) (c : Cursor) : Option Word :=
  (s.block c.bu c.slot (s.ctx c.bu c.slot).regs.bc.toNat).bind (fun b => b.words[c.op]?)

/-- The immediate of an `imm` that stands directly before a word (R32). -/
def State.immBefore (s : State) (c : Cursor) : Option (BitVec 32) :=
  match c.op with
  | 0 => none
  | k + 1 =>
    match s.wordAt { c with op := k } with
    | none => none
    | some w => match decodeWord w with | .ok (.imm v) => some v | _ => none

/-- The state in which the operation a cursor names executes. -/
def State.atCursor (s : State) (c : Cursor) (rest : List Cursor) : State :=
  { s with my := { s.my with issueQ := rest, cur := { c with immHi := s.immBefore c } } }

/-! ### The host's memory and its command queue -/

/-- The key of a byte of host memory. -/
def hostKey (a : Nat) : Nat := 2 ^ 60 + a

/-- A number of n bytes at a host bus address, as firmware finds it. -/
def State.hostNat (s : State) (a n : Nat) : Nat := s.ms.mem.readNat (hostKey a) n

/-- A write of firmware to host memory, at the identity of the host (R399). (assumption 38, DEDUCED, unsafe) -/
def State.hostStore (s : State) (a n v : Nat) : State := writeNow s .host (hostKey a) (bytesOfNat n v)

/-- `tail`, `head` and `slots` of the command queue (R399). -/
def State.cmdTail (s : State) : Nat := s.hostNat s.out.qbase 8
/-- Its `head`. -/
def State.cmdHead (s : State) : Nat := s.hostNat (s.out.qbase + 8) 8
/-- Its number of entries. -/
def State.cmdSlots (s : State) : Nat := s.hostNat (s.out.qbase + 16) 4

/-- The entry that a running count names: counts go round the slots of the queue (assumption 14, DEDUCED, unsafe). -/
def cmdIndex (count slots : Nat) : Nat := if slots = 0 then count else count % slots

/-- The 64-byte entry at the head of the queue, as a number. -/
def State.cmdEntry (s : State) : Nat := s.hostNat (s.out.qbase + 64 + 64 * cmdIndex s.cmdHead s.cmdSlots) 64

/-- The host's writes to device memory that were under way when the bell that announced a command was written, and still are (R399). -/
def State.bellWaits (s : State) (count : Nat) : Bool :=
  s.out.bells.any (fun b => b.1 ≤ count && count < b.2.1 && b.2.2.any (fun id => s.ms.pending.any (fun w => w.w.id == id)))

/-- Firmware has a command to serve (R399): it serves nothing while `ready` is 0 or `locked` is 1, reads a command only after the
host's writes to device memory before its bell have performed, and takes nothing but RESET once the link has failed (R396). A write after
the bell may perform before or after firmware reads what it overlaps (R40; assumption 136, DEDUCED, safe). (assumption 118, DEDUCED, unsafe) -/
def State.cmdReady (s : State) : Bool :=
  s.out.ready && !s.out.locked && s.cmdHead != s.out.fwTail && (!s.out.linkFailed || s.cmdEntry % 256 == 9) && !s.bellWaits s.cmdHead

/-- Firmware raises `head` once a command has completed (R399). -/
def State.cmdDone (s : State) : State :=
  let t := s.hostStore (s.out.qbase + 8) 8 (s.cmdHead + 1)
  { t with out := { t.out with cmdBegun := false, cmdMute := false, bells := t.out.bells.filter (fun b => s.cmdHead + 1 < b.2.1) } }

/-- A command that cannot complete yet is in progress (R408). -/
def State.cmdWaits (s : State) : State := { s with out := { s.out with cmdBegun := true } }

/-- What a command writes for the host at its reply address, when it names one; one that an alarm has met writes none (R400, R408). -/
def State.answerHost (s : State) (reply v : Nat) : State := if reply = 0 || s.out.cmdMute then s else s.hostStore reply 16 v

/-- The codes of a completion's status (R400). -/
inductive CmdStatus where
  | ok | badCmd | badArg | denied
deriving DecidableEq, Repr

/-- Their numbers. -/
def CmdStatus.code : CmdStatus → Nat
  | .ok => 0 | .badCmd => 1 | .badArg => 2 | .denied => 3

/-- The completion of the command at the head (R400): two words at its reply address, when it names one; then `head` rises. -/
def State.complete (s : State) (code : Nat) (reply : Nat) (st : CmdStatus) (result result2 : Nat) : State :=
  (s.answerHost reply (st.code + code % 256 * 2 ^ 8 + result % 2 ^ 48 * 2 ^ 16 + result2 % 2 ^ 64 * 2 ^ 64)).cmdDone

/-- What firmware makes of the entry at the head: the command, or the completion that refuses it. -/
def State.fetchCommand (s : State) : Except CmdError Instr := decodeEntry s.cmdEntry

/-- The completion of an entry that is no command (R400). -/
def State.rejectCommand (s : State) (e : CmdError) : State :=
  let n := s.cmdEntry
  s.complete (bitsOf n 0 8) (bitsOf n 64 64) (match e with | CmdError.badCmd => .badCmd | CmdError.badArg => .badArg) 0 0

/-! ### Placing one instruction where the next step fetches -/

/-- An image of one block of one word. -/
def probeImage (w : Word) (handler : Bool) : Image :=
  { job := 1, dies := 1, width := 1, height := 1, words := [], frames := [],
    blocks := [{ die := 0, x := 0, y := 0, slot := 0, handler := handler, id := 0, nonrep := false, words := [w] }] }

/-- The region that holds it on granule 0 of die 0. -/
def probeRegion : Region :=
  { id := 0, image := 0, job := 1, pool := 0, place := some ⟨0, 0, 0⟩, placedAt := 0, waitSince := none, queue := [],
    running := none, started := true, graphDone := false, quantumUsed := 0, expired := false, commits := 0, opened := 0, shown := 0,
    norepRounds := [], dual := false, twins := [],
    primary := true, voting := false, vote := none, rb := 0, rbtotal := 0, hang := 0, map := 0, idle := 0, saved := none,
    rolledBack := false, wantRollback := false, gq := [], placedClock := 0 }

/-- The state with one operation word in a block of bank unit 0, in slot 0, or in slot H for an operation of handler blocks
alone, and that operation issued next. -/
def State.placeWord (s : State) (w : Word) : State :=
  let h := match decodeWord w with
    | .ok i => (match i.row with | some r => r.handlerOnly | none => false)
    | .error _ => false
  let slot := if h then 4 else 0
  let cur : Cursor := { bu := 0, slot := slot, op := 0, elem := 0, immHi := none }
  let s1 := s.modHub (fun g => { g with images := mapSet 0 (probeImage w h) g.images, regions := mapSet 0 probeRegion g.regions })
  let s2 := (s1.modBu 0 (fun b => { b with region := some 0, offDie := 0, offX := 0, offY := 0 })).modCtx 0 slot (fun c =>
    { c with st := .active, regs := { c.regs with bc := 0 }, blk := Blk.idle })
  { s2 with my := { s2.my with issueQ := cur :: s2.my.issueQ } }

/-- The state with one command entry at the head of the host's queue, and firmware about to serve it. -/
def State.placeCommand (s : State) (n : Nat) : State :=
  let a := hostKey (s.out.qbase + 64 + 64 * cmdIndex s.cmdHead s.cmdSlots)
  { s with
    ms := { s.ms with mem := s.ms.mem.writeBytes a (bytesOfNat 64 n) },
    out := { s.out with ready := true, locked := false, linkFailed := false, fwTail := s.cmdHead + 1, bells := [], cmdBegun := false,
                        cmdMute := false },
    my := { s.my with issueQ := [], agenda := .command :: s.my.agenda } }

end Sys2Proof.Machine
end

