-- ==== Sys2Proof/Machine/Issue.lean ====
section
/-!
DEFINITION. A cycle of a bank unit: which operations are ready, the choice of the arbiter and the passes, fetches that complete, and
the start of a handler run (R44, R46, R58, R61, R85, R94 to R97, R183, R375, R376, R379).
-/
namespace Sys2Proof.Machine

/-! ### Readiness (R58, R61) -/

/-- The next element of operation k, when one is left and its `rep` has executed. -/
def nextElem (is : List Instr) (blk : Blk) (k : Nat) : Option Nat :=
  match elemCount is blk k with
  | none => none
  | some n => let d := mapGetD k blk.done 0; if d < n then some d else none

/-- A queue instruction without its trap bit finds its token. -/
def queueReady (v : View) (found : List Token → Bool) : Bool :=
  match v.leftIn (bitsOf (queueImm v.o) 0 4) with
  | none => false
  | some ts => found ts || bitOf (queueImm v.o) 8

/-- What a row waits for beside its predicate and sources. -/
def rowReady (v : View) : Bool :=
  match v.r with
  | .qmark => qmarkReady v
  | .qpeek => queueReady v (fun ts => !ts.isEmpty)
  | .qdrop => queueReady v (fun ts =>
      let n := bitsOf (queueImm v.o) 12 9
      let k := runLength v.round n ts
      !(k < n && ts.length ≤ k))
  | .qwaitr => queueReady v (fun ts => ts.any (fun t => t.kind == .marker && t.round == v.round))
  | .mxWait => mxWaitReady v
  | .evWait => (waitedCounter v.b v.o).rem == 0
  | .fence | .fenceAcq | .fenceRls => fenceReady v
  | r => !isBankLoad r || storesDone v

/-- The merge source of a vector operation can be read (R163); `visect` takes none (R202). (assumption 57, DESIGN CHOICE, safe) -/
def mergeReady (v : View) (sel : Nat) : Bool :=
  !v.r.isVector || v.r == .visect || (match readMerge v (v.o.modBit 10) (sel == 2 ^ 64 - 1) with | .error .wait => false | _ => true)

/-- An operation with operands is ready (R61). -/
def opReadyAt (s : State) (cur : Cursor) (r : Row) (o : Op) : Bool :=
  let v := mkView { s with my := { s.my with cur := cur } } r o
  match readPred v.c v.o.pred with
  | .error .wait => false
  | .error (.fault _) => true
  | .ok bits =>
    let sel := selBits bits v.o.psense
    (match readSrcs v sel with | .error .wait => false | _ => true) &&
      ((sel % 2 = 0 && !r.isVector) || (commonReady v && rowReady v && mergeReady v sel))

/-- The cursor of operation k when its next element is ready. -/
def readyCursor (s : State) (n slot : Nat) (is : List Instr) (blk : Blk) (k : Nat) (i : Instr) : Option Cursor :=
  match nextElem is blk k with
  | none => none
  | some e =>
    let cur : Cursor := { bu := n, slot := slot, op := k, elem := e, immHi := none }
    match i.row, i.op? with
    | some r, some o => if opReadyAt s cur r o then some cur else none
    | _, _ => some cur

/-- An operation of the vector class (R61). -/
def isVectorClass (i : Instr) : Bool := match i.row with | some r => r.isVector | none => false

/-- The lowest ready operation of a class in slot order. -/
def firstReady (s : State) (n slot : Nat) (vec : Bool) : Option Cursor :=
  let is := s.blockInstrs n slot
  let blk := beginBlk (s.ctx n slot)
  (withIndex 0 is).findSome? (fun x => if isVectorClass x.2 = vec then readyCursor s n slot is blk x.1 x.2 else none)

/-- The ready operations that a slot would issue: one of the scalar and control class, one of the vector class unless the vector
unit is busy (R61, R183). -/
def readyOps (s : State) (n slot : Nat) : List Cursor :=
  let c := s.ctx n slot
  if c.st != .active then []
  else
    (firstReady s n slot false).toList ++ (if (s.bu n).vbusy then [] else (firstReady s n slot true).toList)

/-! ### The arbiter (R95 to R97) -/

/-- Pass p is earlier than pass q (R95). -/
def earlierPass (p q : Nat) : Bool := let d := (q + 2 ^ 24 - p) % 2 ^ 24; 1 ≤ d && d ≤ 2 ^ 23 - 1

/-- The contexts that the arbiter may choose (R96). -/
def candidates (s : State) (n : Nat) : List Nat :=
  if !(s.bu n).frozen.isEmpty then []
  else [0, 1, 2, 3].filter (fun k => (s.ctx n k).w != 0 && !(readyOps s n k).isEmpty)

/-- The candidate with the lowest pass, the lowest slot among equals. -/
def lowestPass (s : State) (n : Nat) (cs : List Nat) : Option Nat :=
  cs.foldl (fun best k => match best with
    | none => some k
    | some j => if earlierPass (s.ctx n k).pass (s.ctx n j).pass then some k else some j) none

/-- CatchUp (R97). -/
def catchUp (p : Nat) (b : Bu) : Bu :=
  [0, 1, 2, 3].foldl (fun b k => b.modCtx k (fun c =>
    let d := (p + 2 ^ 24 - c.pass) % 2 ^ 24
    if 65537 ≤ d && d ≤ 2 ^ 23 - 1 then { c with pass := (p + 2 ^ 24 - 65536) % 2 ^ 24 } else c)) b

/-- The pass of an issuing context rises by its stride (R96). -/
def raisePass (slot : Nat) (b : Bu) : Bu :=
  let c := b.ctx slot
  let p := (c.pass + 65536 / c.w) % 2 ^ 24
  catchUp p (b.setCtx slot { c with pass := p })

/-! ### A cycle -/

/-- The controller entries of a bank unit that are active (R100). -/
def State.activeCtls (s : State) (n : Nat) : List Nat :=
  (s.routes n).filterMap (fun e => match e.2 with
    | .recv _ slot q _ _ _ true => some (slot * 16 + q)
    | _ => none)

/-- The occupancy of a queue of a slot (R101). -/
def State.occ (s : State) (n slot qi : Nat) : Nat := match s.qiTokens n slot qi with | some (_, ts) => ts.length | none => 0

/-- The status of a context's weights (R105). -/
def Ctx.pstat (c : Ctx) : Nat := (if c.w = c.wmin then 1 else 0) + (if c.w = c.wmax then 2 else 0)

/-- The send entry of a number at a bank unit. -/
def sendEntAt (rs : List (Nat × Route)) (entry : Nat) : Option (SendEnt × Nat) :=
  rs.findSome? (fun e => match e.2 with
    | .send r d x y toop sl qi form fmt cap _ ps _ => if e.1 = entry then some (⟨e.1, r, d, x, y, toop, sl, qi, form, fmt, cap⟩, ps) else none
    | _ => none)

/-- The producer context of the controlled channel that ends at a QI. -/
def State.producerOf (s : State) (n slot qi : Nat) : Option (Nat × Nat) :=
  match qiOf (s.routes n) slot qi with
  | none => none
  | some e =>
    match s.creditHome n e.route false slot qi with
    | some (m, entry) => (sendEntAt (s.routes m) entry).map (fun x => (m, x.2))
    | none => none

/-- `pstat` of a controller (R105): what was last reported, or the weights themselves when the producer is on its own bank unit. -/
def State.pstatOf (s : State) (n k : Nat) : Nat :=
  match s.producerOf n (k / 16) (k % 16) with
  | some (m, slot) => if m = n then (s.ctx n slot).pstat else ((s.bu n).ctl k).pstat
  | none => ((s.bu n).ctl k).pstat

/-- A period counter counts a cycle; one that reaches its period finds what its step will use: `occ`, the clamp state of the weights,
and `pstat`, at the start of the cycle (R103). -/
def countPeriod (s : State) (n k : Nat) : Ctl :=
  let c := (s.bu n).ctl k
  { c with
    count := c.count + 1,
    sample := if c.sample.isNone && c.running ≤ c.count + 1 then
        some (s.occ n (k / 16) (k % 16), (s.ctx n (k / 16)).pstat, s.pstatOf n k)
      else c.sample }

/-- A cycle of a bank unit begins: it is counted, the period counters of its active entries count while it is placed and not frozen
(R103), and the second cycle of an f64 operation passes (R183). -/
def tickBu (s : State) (n : Nat) : State :=
  let act := s.activeCtls n
  s.modBu n (fun b => { b with
    cycle := b.cycle + 1,
    ctls := if b.frozen.isEmpty then act.foldl (fun m k => mapSet k (countPeriod s n k) m) b.ctls else b.ctls })

/-- The sum of adjustments that take effect together at a context (R104). -/
def applyAdj (s : State) (n slot : Nat) (sum : Int) : State :=
  s.modCtx n slot (fun c =>
    { c with w := (satInt ((c.w : Int) + sum) c.wmin c.wmax).toNat, lastadj := satInt sum (-255) 255 })

/-- The adjustments of a slot take effect, and the bank unit answers each controller on another one (R104, R105). -/
def takeAdjs (n : Nat) (l : List Adj) (s : State) (slot : Nat) : State :=
  let mine := l.filter (fun a => a.slot = slot)
  if mine.isEmpty then s
  else
    let s1 := applyAdj s n slot (mine.map (·.amount)).sum
    let bits := (s1.ctx n slot).pstat
    mine.foldl (fun s a => if a.fromBu = n then s else sendCtl s n a.fromBu (.status a.fromEntry bits)) s1

/-- The adjustments of a cycle take effect, after its commits; those that came in it take effect in the next (R104). -/
def endCycle (s : State) (n : Nat) : State :=
  let l := (s.bu n).adjNow
  ([0, 1, 2, 3].foldl (takeAdjs n l) s).modBu n (fun b => { b with adjNow := b.adjNext, adjNext := [] })

/-- Corrected errors of a bank unit's stores and caches are counted (R41, R189). -/
def countSoft (k : Nat) (b : Bu) : Bu := { b with sec := min (b.sec + k) 0xFFFFFFFF }

/-- The region of a bank unit counts a cycle without firing, at its first bank unit, until it is frozen whole (R390, R391); it fires when a
context issues.
(assumption 51, DEDUCED, unsafe) -/
def countIdle (s : State) (n : Nat) (fired : Bool) : State :=
  match (s.bu n).region, s.regionOf n with
  | some rid, some r =>
    if fired then s.modRegion rid (fun g => { g with idle := 0 })
    else if (s.regionBus r).head? = some n && !s.regionFrozen r then s.modRegion rid (fun g => { g with idle := g.idle + 1 })
    else s
  | _, _ => s

/-- Operations issue: their block begins, and they execute next. -/
def issueOps (s : State) (n slot : Nat) (cs : List Cursor) : State :=
  let s1 := s.modCtx n slot (fun c => { c with blk := beginBlk c })
  let is := s.blockInstrs n slot
  let f64 := cs.any (fun c => match is[c.op]? with
    | some i => isVectorClass i && (match i.op? with | some o => o.ty == .f64 | none => false)
    | none => false)
  let s2 := s1.modBu n (fun b => { b with vbusy := f64 })
  { s2 with my := { s2.my with issueQ := s2.my.issueQ ++ cs } }

/-- The rows that predict the residue of their result, at the types of R375. -/
def predictsResidue (i : Instr) : Bool :=
  match i.row, i.op? with
  | some .add, _ | some .sub, _ | some .mul, _ | some .shadd, _ => true
  | some .vadd, some o | some .vsub, some o | some .vmul, some o | some .vfma, some o | some .vfms, some o | some .vdot, some o =>
    o.ty.isInt || o.ty == .rns
  | _, _ => false

/-- ARITH_CHK at an operation that issues (R375, R376). (assumption 128, DEDUCED, unsafe) -/
def arithCheck (s : State) (n slot : Nat) (c : Cursor) : State :=
  let rd := s.tagRound n slot (s.ctx n slot).regs.round
  let (ok, s1) := callRollback s n rd
  if ok then s1
  else
    let blk := (s.ctx n slot).regs.bc.toNat
    let o := s.originOf n slot blk c.op c.elem
    if slot = 4 then s.faultH n ⟨.arithChk, 0, 0⟩ o
    else s.faultCtx n slot { mkRec s o .arithChk false 0 0 with norep := true } o

/-- The operation of `cs` that fails its check, when one of them predicts a residue. -/
def checkedOp (s : State) (n slot : Nat) (vec : Bool) (cs : List Cursor) : Option Cursor :=
  let is := s.blockInstrs n slot
  cs.find? (fun c => match is[c.op]? with | some i => isVectorClass i == vec && predictsResidue i | none => false)

/-- The tokens that an operation at a cursor pops, as queue entries and places in them: by its sources, or by `qdrop` (R63, R131). -/
def poppedAt (s : State) (cur : Cursor) (i : Instr) : List (Nat × Nat) :=
  match i.row, i.op? with
  | some r, some o =>
    let v := mkView { s with my := { s.my with cur := cur } } r o
    if (opSel v.c v.o).getD 0 % 2 = 0 && !r.isVector then []
    else (List.range 16).flatMap (fun q =>
      let k := if r == .qdrop && bitsOf (queueImm v.o) 0 4 = q then bitsOf (queueImm v.o) 12 9 else popFields r v.o q
      match qiOf v.rts cur.slot q, popsBefore v q with
      | some e, some n => (List.range k).map (fun j => (e.entry, n + j))
      | _, _ => [])
  | _, _ => []

/-- A token that a pop of operations would read and whose residue does not match its payload (R375). -/
def badPop (s : State) (n slot : Nat) (cs : List Cursor) : Option (Nat × Nat) :=
  let is := s.blockInstrs n slot
  cs.findSome? (fun c => (is[c.op]?).bind (fun i => (poppedAt s c i).find? (fun p =>
    match ((s.bu n).queue p.1)[p.2]? with | some t => t.res != residue15 t.payload | none => false)))

/-- TOKEN_CHK is posted for a token whose consumer is a context (R376). -/
def postCtxChk (s : State) (n slot route : Nat) : State :=
  let o := s.originOf n slot (s.ctx n slot).regs.bc.toNat 0 0
  s.post { mkRec s o .tokenChk true 0 route with norep := true } 0 o

/-- The poison token that replaces a failed one (R376). (assumption 52, DEDUCED, unsafe) -/
def poisonOf (t : Token) : Token :=
  { kind := .poison, round := t.round, res := 0, route := t.route, last := t.last, bit31 := false, payload := 0, rel := t.rel }

/-- TOKEN_CHK at a pop (R375, R376): a rollback where the round is replayed; else the token turns to poison, as at a router, and the
report goes to the consumer. -/
def tokenCheckPop (s : State) (n slot : Nat) (p : Nat × Nat) : State :=
  let (ok, s1) := callRollback s n (s.tagRound n slot (s.ctx n slot).regs.round)
  if ok then s1
  else
    let ts := (s.bu n).queue p.1
    let route := match ts[p.2]? with | some t => t.route | none => 0
    (postCtxChk s n slot route).modBu n (fun b => { b with queues := mapSet p.1 (listMod p.2 poisonOf ts) b.queues })

/-- A double-bit error in a cached frame invalidates the block of a slot that would begin: it is fetched again (R46). -/
def refetchBad (s : State) (n slot : Nat) : Option State :=
  let b := s.bu n
  let c := b.ctx slot
  let blk := c.regs.bc.toNat
  if c.st == .active && !c.blk.running && b.badBlocks.contains (slot, blk) then
    some (enterBlock (s.modBu n (fun b => { b with
      badBlocks := b.badBlocks.filter (· != (slot, blk)),
      cache := b.cache.filter (fun k => !(k.image == s.imageId n && k.slot == slot && k.block == blk)) })) n slot)
  else none

/-- A slot issues its ready operations; the turn's flags say that the residue of the scalar or of the vector one mismatches. -/
def issueSlot (s : State) (n slot : Nat) (cs : List Cursor) : State :=
  let bad := (if s.my.arg.flag then checkedOp s n slot false cs else none).orElse (fun _ =>
    if s.my.arg.flag2 then checkedOp s n slot true cs else none)
  match badPop s n slot cs, bad with
  | some p, _ => tokenCheckPop s n slot p
  | none, some c => arithCheck s n slot c
  | none, none => issueOps s n slot cs

/-- ISSUE_CYCLE: one cycle of a bank unit (R61, R86, R96), once the adjustments of the last have taken effect (R104). `m` corrected
errors are counted in it (R41, R189; assumption 151, DEDUCED, safe). A bank unit that a context of it freezes begins no cycle before it is
frozen (R65, R392). -/
def execIssueCycle (s : State) : Host.Outcome State Fault Refusal :=
  let n := s.my.arg.n
  nextState (
    if (s.bu n).stopping then s
    else match [4, 0, 1, 2, 3].findSome? (refetchBad s n) with
    | some t => t
    | none =>
      let s1 := (tickBu (endCycle s n) n).modBu n (countSoft s.my.arg.m)
      let free (t : State) : State := t.modBu n (fun b => { b with vbusy := false })
      let h := readyOps s1 n 4
      if !h.isEmpty then issueSlot (countIdle (free s1) n false) n 4 h
      else
        match lowestPass s1 n (candidates s1 n) with
        | none => countIdle (free s1) n false
        | some k =>
          let cs := readyOps s1 n k
          let s2 := (free s1).modCtx n k (fun c => { c with blk := beginBlk c })
          issueSlot (countIdle (s2.modBu n (raisePass k)) n true) n k cs)

/-! ### Fetches (R43 to R46) -/

/-- A block becomes resident: room is made, and it is pinned while it is the current block of its slot. -/
def fetchBlock (s : State) (n slot : Nat) (b : Block) : State :=
  s.modBu n (fun u =>
    let cache := makeRoom u.cache.length b.frames u.cache
    { u with stamp := u.stamp + 1,
             cache := cache ++ [{ image := s.imageId n, slot := slot, block := b.id, frames := b.frames, stamp := u.stamp, pinned := true }] })

/-- BLOCK_FETCH_COMPLETE: a fetched block is resident and its context ready; a double-bit error in the store raises CFG_ECC (R44,
R46). -/
def execBlockFetchComplete (s : State) : Host.Outcome State Fault Refusal :=
  let n := s.my.arg.n
  let slot := s.my.arg.m
  nextState (
    match (s.bu n).fetches.find? (fun f => f.1 == slot) with
    | none => s
    | some (_, id) =>
      let s1 := s.modBu n (fun b => { b with fetches := b.fetches.filter (fun f => f.1 != slot) })
      let waits := (s.ctx n slot).st == .fetch && (s.ctx n slot).regs.bc.toNat = id
      match s.imageOf n, s.block n slot id with
      | some im, some b =>
        let at_ := (im.blocks.findIdx? (· == b)).getD 0
        if s.hub.badSlots.contains (s.imageId n, at_) then
          (if waits then (s1.modCtx n slot (fun c => { c with st := .active })).raise n slot id 0 0 ⟨.cfgEcc, 0, 0⟩ else s1)
        else
          let s2 := if s.resident n slot id then s1 else fetchBlock s1 n slot b
          if waits then s2.modCtx n slot (fun c => { c with st := .active }) else s2
      | _, _ => s1)

/-! ### Handler runs (R85, R379) -/

/-- HANDLER_RUN_START: slot H takes the first record of its queue and runs handler block 0. A fault starts no run in the cycle in which
it came, since one of a lower slot may still come before it (R85; assumption 150, DEDUCED, safe). -/
def execHandlerRunStart (s : State) : Host.Outcome State Fault Refusal :=
  let n := s.my.arg.n
  nextState (
    match (s.bu n).hrun, (s.bu n).hq with
    | none, q :: rest =>
      if !s.hasHandler n || (!q.record.async && q.cycle == (s.bu n).cycle) then s
      else
        let s1 := (s.modBu n (fun b => { b with
          hrun := some { record := q.record, slot := q.slot, async := q.record.async }, hq := rest }.fillHq)).modCtx n 4
          (fun c => { c with regs := { c.regs with bc := 0 }, blk := Blk.idle })
        enterBlock s1 n 4
    | _, _ => s)

end Sys2Proof.Machine
end

