-- ==== Sys2Proof/Machine/Network.lean ====
section
/-!
DEFINITION. The network: the hops of token flits with the checks of each router, die edges and their grants, credits, the rate
controllers and their flits, and the route operators (R100 to R106, R122 to R125, R133 to R135, R376).
-/
namespace Sys2Proof.Machine

/-! ### Die edges (R124, R135) -/

/-- The key of the grants of an edge, a row, a direction and a class. -/
def grantKey (edge row : Nat) (east rate : Bool) : Nat :=
  ((edge * 64 + row) * 2 + (if east then 1 else 0)) * 2 + (if rate then 1 else 0)

/-- The grants of a receiver at placement: 32 flits for tokens, 8 for rate and credit flits. -/
def grantCap (rate : Bool) : Nat := if rate then 8 else 32

/-- The flits that a sender may still send across. (assumption 93, DEDUCED, safe) -/
def Net.granted (net : Net) (edge row : Nat) (east rate : Bool) : Nat :=
  mapGetD (grantKey edge row east rate) net.grants (grantCap rate)

/-- The shared edges between two global columns, and whether they are crossed eastward. -/
def edgesBetween (from_ to_ : Nat) : List Nat × Bool :=
  let a := from_ / 96
  let b := to_ / 96
  if a ≤ b then ((List.range (b - a)).map (· + a), true) else ((List.range (a - b)).map (· + b), false)

/-- A flit of a class crosses edges in a row: a grant of each is spent. -/
def Net.spend (net : Net) (edges : List Nat) (row : Nat) (east rate : Bool) : Net :=
  edges.foldl (fun net e =>
    { net with grants := mapSet (grantKey e row east rate) (net.granted e row east rate - 1) net.grants }) net

/-- The bank unit whose router receives what crosses an edge in a row and a direction. -/
def edgeReceiver (edge row : Nat) (east : Bool) : Nat := if east then buNum (edge + 1) 0 row else buNum edge 95 row

/-- The flits that stand in the buffer of a receiver at an edge; those of the rate class go on at once. -/
def Net.buffered (net : Net) (edge row : Nat) (east rate : Bool) : Nat :=
  if rate then 0 else (net.flits.filter (fun f => f.crossed && f.at_ == edgeReceiver edge row east)).length

/-- BOUNDARY_GRANT: a receiver at a die edge grants eight more flits of a class, once its buffer has drained so far that it has room for
all that it has granted (R135). -/
def execBoundaryGrant (s : State) : Host.Outcome State Fault Refusal :=
  let a := s.my.arg
  let g := s.net.granted a.n a.m a.flag a.flag2
  nextState (
    if a.n < 3 && a.m < 64 && g + 8 + s.net.buffered a.n a.m a.flag a.flag2 ≤ grantCap a.flag2 then
      s.modNet (fun net => { net with grants := mapSet (grantKey a.n a.m a.flag a.flag2) (g + 8) net.grants })
    else s)

/-! ### Token hops (R123, R124, R376) -/

/-- The bank unit that a flit moves to next: along the global column first, then along y. -/
def nextHop (at_ dest : Nat) : Nat :=
  if buCol at_ < buCol dest then buAt (buCol at_ + 1) (buY at_)
  else if buCol dest < buCol at_ then buAt (buCol at_ - 1) (buY at_)
  else if buY at_ < buY dest then buAt (buCol at_) (buY at_ + 1)
  else if buY dest < buY at_ then buAt (buCol at_) (buY at_ - 1)
  else at_

/-- The flits before one in the order of sending. -/
def flitsBefore (id : Nat) : List Flit → List Flit
  | [] => []
  | f :: rest => if f.id = id then [] else f :: flitsBefore id rest

/-- A flit can move: what it waits for has happened, the flits of its route ahead of it have left its router, and it has a grant
where it crosses an edge. -/
def canHop (s : State) (f : Flit) : Bool :=
  let next := nextHop f.at_ f.dest
  let (edges, east) := edgesBetween (buCol f.at_) (buCol next)
  s.mayLeave f.after f.hold &&
    (flitsBefore f.id s.net.flits).all (fun g => !(g.tok.route == f.tok.route && g.at_ == f.at_ && g.dest == f.dest && g.entry == f.entry)) &&
    edges.all (fun e => 0 < s.net.granted e (buY f.at_) east false)

/-- A flit goes before another where they contend for a port: the older first, then the lower route (R124). -/
def Flit.precedes (g f : Flit) : Bool :=
  g.age < f.age || (g.age = f.age && (g.tok.route < f.tok.route || (g.tok.route = f.tok.route && g.id < f.id)))

/-- A flit may move: it can, and no flit that goes before it can move through the same port of its router (R124). -/
def mayHop (s : State) (f : Flit) : Bool :=
  canHop s f && s.net.flits.all (fun g =>
    !(g.at_ == f.at_ && nextHop g.at_ g.dest == nextHop f.at_ f.dest && g.precedes f && canHop s g))

/-- What an operator holds at placement (R133). -/
def Oper.placed (op : Nat) : Oper :=
  { st := if op = 5 then .init else if op = 6 then .empty else .loop, held := none, a := [], b := [], c := [] }

/-- The operator kind of a route entry. -/
def operKind (rs : List (Nat × Route)) (entry : Nat) : Nat :=
  (rs.findSome? (fun e => match e.2 with | .oper op .. => if e.1 = entry then some op else none | _ => none)).getD 0

/-- The operator of a route entry of a bank unit. -/
def State.oper (s : State) (n entry : Nat) : Oper := mapGetD entry (s.bu n).opers (Oper.placed (operKind (s.routes n) entry))

/-- A token enters a queue, or an input of an operator. -/
def deliver (s : State) (f : Flit) : State :=
  match f.input with
  | none => s.modBu f.dest (fun b => { b with queues := mapSet f.entry (b.queue f.entry ++ [f.tok]) b.queues })
  | some k =>
    let o := s.oper f.dest f.entry
    let o1 := match k with
      | 0 => { o with a := o.a ++ [f.tok] }
      | 1 => { o with b := o.b ++ [f.tok] }
      | _ => { o with c := o.c ++ [f.tok] }
    s.modBu f.dest (fun b => { b with opers := mapSet f.entry o1 b.opers })

/-- The route of a token names the receive entry or the operator input where its flit ends (R123). -/
def routeNamed (s : State) (f : Flit) : Bool :=
  (s.routes f.dest).any (fun e => match e.2 with
    | .recv r .. => f.input.isNone && r == f.tok.route
    | .oper _ ina inb ctl _ _ => f.input.isSome && (ina == f.tok.route || inb == f.tok.route || ctl == f.tok.route)
    | _ => false)

/-- The checks of a router that receives a token; the flag says that the token reaches it damaged (R123). -/
def tokenBad (s : State) (damaged : Bool) (f : Flit) (there : Nat) : Bool :=
  damaged || f.tok.res != residue15 f.tok.payload || f.tok.bit31 || (there == f.dest && !routeNamed s f)

/-- The slot of the context that a flit ends at, when it ends at a queue. -/
def flitSlot (s : State) (f : Flit) : Option Nat :=
  (s.routes f.dest).findSome? (fun e => match e.2 with
    | .recv _ sl .. => if e.1 = f.entry && f.input.isNone then some sl else none
    | _ => none)

/-- TOKEN_CHK is posted for a token that cannot be recovered by a rollback (R376). (assumption 53, DEDUCED, unsafe) -/
def postTokenChk (s : State) (f : Flit) : State :=
  match flitSlot s f with
  | some slot => postCtxChk s f.dest slot f.tok.route
  | none =>
    let o := { s.originOf f.dest 7 0 0 0 with round := f.tok.round, launch := ((s.regionOf f.dest).bind (·.running)).getD 0 }
    s.post { mkRec s o .tokenChk true 0 f.tok.route with norep := true } 1 o

/-- TOKEN_HOP: a router moves a flit one hop, or delivers its token (R123, R124, R376). -/
def execTokenHop (s : State) : Host.Outcome State Fault Refusal :=
  nextState (
    match s.net.flits.find? (fun f => f.id == s.my.arg.n) with
    | none => s
    | some f =>
      if !mayHop s f then s
      else
        let next := nextHop f.at_ f.dest
        let (edges, east) := edgesBetween (buCol f.at_) (buCol next)
        let move (s : State) (f : Flit) : State :=
          let s1 := s.modNet (fun net => net.spend edges (buY f.at_) east false)
          if next = f.at_ then deliver (s1.modNet (fun net => { net with flits := net.flits.filter (fun g => g.id != f.id) })) f
          else
            s1.modNet (fun net => { net with flits := net.flits.map (fun g =>
              if g.id == f.id then { f with at_ := next, after := [], hold := [], crossed := !edges.isEmpty } else g) })
        if tokenBad s s.my.arg.flag f next then
          let rd := s.tagRound f.dest 0 f.tok.round
          let (ok, s1) := callRollback s f.dest rd
          if ok then s1 else move (postTokenChk s f) { f with tok := poisonOf f.tok }
        else move s f)

/-! ### Rate-class flits (R104, R105, R125) -/

/-- A rate-class flit takes its way: the edges it crosses in the row of its sender. -/
def ctlPath (f : CtlFlit) : List Nat × Bool := edgesBetween (buCol f.src) (buCol f.dest)

/-- A rate-class flit arrives, when every edge on its way grants it. -/
def takeCtl (s : State) (f : CtlFlit) : Option State :=
  let (edges, east) := ctlPath f
  if edges.all (fun e => 0 < s.net.granted e (buY f.src) east true) then
    some (s.modNet (fun net =>
      { (net.spend edges (buY f.src) east true) with ctl := net.ctl.filter (fun g => g.id != f.id) }))
  else none

/-- CREDIT_FLIT_ARRIVAL: credits return to a producer end (R125). -/
def execCreditFlitArrival (s : State) : Host.Outcome State Fault Refusal :=
  nextState (
    match s.net.ctl.find? (fun f => f.id == s.my.arg.n) with
    | some f =>
      match f.msg, takeCtl s f with
      | .credit entry k, some s1 =>
        match sendEntAt (s1.routes f.dest) entry with
        | some (e, _) => s1.modBu f.dest (fun b => { b with credits := mapSet entry (min e.cap (b.credit e + k)) b.credits })
        | none => s1
      | _, _ => s
    | none => s)

/-- RATE_FLIT_ARRIVAL: an adjustment arrives at the bank unit of its context, and takes effect in the next cycle (R104). -/
def execRateFlitArrival (s : State) : Host.Outcome State Fault Refusal :=
  nextState (
    match s.net.ctl.find? (fun f => f.id == s.my.arg.n) with
    | some f =>
      match f.msg, takeCtl s f with
      | .rate slot adj bu entry, some s1 => s1.modBu f.dest (fun b => { b with adjNext := b.adjNext ++ [⟨slot, adj, bu, entry⟩] })
      | _, _ => s
    | none => s)

/-- STATUS_FLIT_ARRIVAL: a controller stores what a producer reports (R105). -/
def execStatusFlitArrival (s : State) : Host.Outcome State Fault Refusal :=
  nextState (
    match s.net.ctl.find? (fun f => f.id == s.my.arg.n) with
    | some f =>
      match f.msg, takeCtl s f with
      | .status entry bits, some s1 => s1.modBu f.dest (fun b => { b with ctls := mapSet entry { b.ctl entry with pstat := bits } b.ctls })
      | _, _ => s
    | none => s)

/-! ### Controller steps (R103) -/

/-- One step of a controller: its new fields and its adjustment (R103). `clamp` is the clamp state of the consumer's weights, in the bits
of `pstat`. -/
def stepCtl (c : Ctl) (occ clamp pstat : Nat) : Ctl :=
  let e : Int := (occ : Int) - c.set
  let acc1 := satInt (c.acc + e) (-(c.imax : Int)) c.imax
  let adj1 := ((c.kp : Int) * e + (c.ki : Int) * acc1) / 16
  let held := (0 < adj1 && (bitOf clamp 1 || bitOf pstat 0)) || (adj1 < 0 && (bitOf clamp 0 || bitOf pstat 1))
  let c1 := { c with count := c.count - c.running, running := c.period, sample := none }
  if held then { c1 with adj := satInt (((c.kp : Int) * e + (c.ki : Int) * c.acc) / 16) (-255) 255 }
  else { c1 with acc := acc1, adj := satInt adj1 (-255) 255 }

/-- An adjustment of controller k of a bank unit for a slot: on its own bank unit it takes effect in the next cycle, to another it goes
by a rate flit (R104). -/
def sendAdj (s : State) (n k m slot : Nat) (adj : Int) : State :=
  if m = n then s.modBu n (fun b => { b with adjNext := b.adjNext ++ [⟨slot, adj, n, k⟩] }) else sendCtl s n m (.rate slot adj n k)

/-- RATE_STEP: an active controller whose period has passed steps on what it found at the start of the cycle, and sends its adjustments
(R103, R104). -/
def execRateStep (s : State) : Host.Outcome State Fault Refusal :=
  let n := s.my.arg.n
  let k := s.my.arg.m
  let b := s.bu n
  nextState (
    match (b.ctl k).sample with
    | some (occ, clamp, pstat) =>
      if !(s.activeCtls n).contains k || !b.frozen.isEmpty then s
      else
        let slot := k / 16
        let c := stepCtl (b.ctl k) occ clamp pstat
        let s1 := sendAdj (s.modBu n (fun b => { b with ctls := mapSet k c b.ctls })) n k n slot c.adj
        (match s.producerOf n slot (k % 16) with
          | some (m, ps) => sendAdj s1 n k m ps (-c.adj)
          | none => s1)
    | none => s)

/-- A field of a controller as `rate.rd` reads it (R100, R113): on an uncontrolled channel, only `occ` and `cap` are valid. -/
def ctlRead (s : State) (n slot qi cap : Nat) (controlled : Bool) (sel : Nat) : Nat :=
  let k := slot * 16 + qi
  let c := (s.bu n).ctl k
  match sel with
  | 0 => s.occ n slot qi
  | 8 => cap
  | _ =>
    if !controlled then 0
    else
      match sel with
      | 1 => wrapNat 64 c.acc
      | 2 => wrapNat 64 c.adj
      | 3 => c.set
      | 4 => c.kp
      | 5 => c.ki
      | 6 => c.period
      | 7 => c.imax
      | 9 => s.pstatOf n k
      | 10 => c.kpArm
      | 11 => c.periodMin
      | _ => 0

/-- The answer to a `rate.rd` of a slot (R113). -/
def rateAnswer (s : State) (n slot q sel : Nat) : Nat :=
  if q < 16 then
    match qiOf (s.routes n) slot q with
    | some e => ctlRead s n slot q e.cap e.rate sel
    | none => 0
  else
    match s.qoConsumer n slot (q - 16) with
    | some (m, e, k) => ctlRead s m (k / 16) (k % 16) e.cap e.rate sel
    | none => 0

/-! ### Route operators (R133, R134) -/

/-- An operator entry. -/
structure OperEnt where
  op : Nat
  ina : Nat
  inb : Nat
  ctl : Nat
  outt : Nat
  outf : Nat
deriving DecidableEq, Repr

/-- The operator entry of a number at a bank unit. -/
def State.operEnt (s : State) (n entry : Nat) : Option OperEnt :=
  (s.routes n).findSome? (fun e => match e.2 with
    | .oper op ina inb ctl outt outf => if e.1 = entry then some ⟨op, ina, inb, ctl, outt, outf⟩ else none
    | _ => none)

/-- What a firing consumes, emits and leaves. -/
structure Firing where
  takeA : Bool
  takeB : Bool
  takeC : Bool
  outs : List (Nat × Token)
  st : OpState
  held : Option Token

/-- The next tokens on the inputs that an operator has. -/
def operHeads (e : OperEnt) (o : Oper) : List (Option Token) :=
  [(e.ina, o.a), (e.inb, o.b), (e.ctl, o.c)].filterMap (fun x => if x.1 = 0 then none else some x.2.head?)

/-- A round marker stands next on some input. -/
def markerNext (e : OperEnt) (o : Oper) : Bool :=
  (operHeads e o).any (fun h => match h with | some t => t.kind == .marker | none => false)

/-- A firing of an operator of a bank unit: it takes place when every channel it writes has room (R125, R133); credits of what it
consumes return, and its region has fired (R390). -/
def fireOper (s : State) (n entry : Nat) (e : OperEnt) (o : Oper) (f : Firing) : State :=
  let rs := s.routes n
  let b := s.bu n
  if !f.outs.all (fun x => 1 ≤ b.room (outOf rs x.1)) then s
  else
    let take (t : Bool) (l : List Token) : List Token := if t then l.drop 1 else l
    let o1 : Oper := { st := f.st, held := f.held, a := take f.takeA o.a, b := take f.takeB o.b, c := take f.takeC o.c }
    let s1 := s.modBu n (fun b => { b with opers := mapSet entry o1 b.opers })
    let s2 := [(f.takeA, e.ina), (f.takeB, e.inb), (f.takeC, e.ctl)].foldl (fun s x =>
      if x.1 then returnCredits s n x.2 true 0 0 1 else s) s1
    let s3 := f.outs.foldl (fun s x => sendAll s n (outOf rs x.1) [] [] x.2) s2
    match (s.bu n).region with
    | some rid => s3.modRegion rid (fun g => { g with idle := 0 })
    | none => s3

/-- A firing event of an operator entry: nothing while its bank unit is frozen. -/
def runOper (s : State) (fire : OperEnt → Oper → Option Firing) : State :=
  let n := s.my.arg.n
  let entry := s.my.arg.m
  match s.operEnt n entry with
  | none => s
  | some e =>
    let o := s.oper n entry
    if !(s.bu n).frozen.isEmpty then s
    else match fire e o with | some f => fireOper s n entry e o f | none => s

/-- A firing of one kind on data and control tokens. -/
def runKind (s : State) (op : Nat) (fire : OperEnt → Oper → Option Firing) : State :=
  runOper s (fun e o => if e.op = op && !markerNext e o then fire e o else none)

/-- The next control token, unless it is poison: its value. -/
def ctlValue (o : Oper) : Option Bool :=
  match o.c with
  | t :: _ => if t.kind == .poison then none else some (t.payload.toNat % 2 == 1)
  | [] => none

/-- PASS_FIRING. -/
def execPassFiring (s : State) : Host.Outcome State Fault Refusal :=
  nextState (runKind s 1 (fun e o => o.a.head?.map (fun t => ⟨true, false, false, [(e.outt, t)], o.st, o.held⟩)))

/-- FORK_FIRING. -/
def execForkFiring (s : State) : Host.Outcome State Fault Refusal :=
  nextState (runKind s 2 (fun e o => o.a.head?.map (fun t => ⟨true, false, false, [(e.outt, t), (e.outf, t)], o.st, o.held⟩)))

/-- STEER_FIRING. -/
def execSteerFiring (s : State) : Host.Outcome State Fault Refusal :=
  nextState (runKind s 3 (fun e o =>
    match ctlValue o, o.a.head? with
    | some c, some t => some ⟨true, false, true, [(if c then e.outt else e.outf, t)], o.st, o.held⟩
    | _, _ => none))

/-- MERGE_FIRING. -/
def execMergeFiring (s : State) : Host.Outcome State Fault Refusal :=
  nextState (runKind s 4 (fun e o =>
    match ctlValue o with
    | some true => o.a.head?.map (fun t => ⟨true, false, true, [(e.outt, t)], o.st, o.held⟩)
    | some false => o.b.head?.map (fun t => ⟨false, true, true, [(e.outt, t)], o.st, o.held⟩)
    | none => none))

/-- CARRY_FIRING. -/
def execCarryFiring (s : State) : Host.Outcome State Fault Refusal :=
  nextState (runKind s 5 (fun e o =>
    if o.st == .init then o.a.head?.map (fun t => ⟨true, false, false, [(e.outt, t)], .loop, none⟩)
    else
      match ctlValue o with
      | some true => o.b.head?.map (fun t => ⟨false, true, true, [(e.outt, t)], .loop, none⟩)
      | some false => some ⟨false, false, true, [], .init, none⟩
      | none => none))

/-- INVARIANT_FIRING. -/
def execInvariantFiring (s : State) : Host.Outcome State Fault Refusal :=
  nextState (runKind s 6 (fun e o =>
    match o.held with
    | none => o.a.head?.map (fun t => ⟨true, false, false, [], .hold, some t⟩)
    | some v =>
      match ctlValue o with
      | some true => some ⟨false, false, true, [(e.outt, v)], .hold, some v⟩
      | some false => some ⟨false, false, true, [], .empty, none⟩
      | none => none))

/-- DROP_FIRING. -/
def execDropFiring (s : State) : Host.Outcome State Fault Refusal :=
  nextState (runKind s 7 (fun e o =>
    match ctlValue o, o.a.head? with
    | some c, some t => some ⟨true, false, true, if c then [(e.outt, t)] else [], o.st, o.held⟩
    | _, _ => none))

/-- The state of an operator that has returned to its start. -/
def restState (op : Nat) : OpState := if op = 5 then .init else if op = 6 then .empty else .loop

/-- MARKER_FIRING: markers of one round stand next on every input; one is emitted on each output, and the operator returns to its
start (R134). -/
def execMarkerFiring (s : State) : Host.Outcome State Fault Refusal :=
  nextState (runOper s (fun e o =>
    match (operHeads e o).head? with
    | some (some t) =>
      if t.kind == .marker && (operHeads e o).all (fun h => match h with | some u => u.kind == .marker && u.round == t.round | none => false) then
        some { takeA := e.ina ≠ 0, takeB := e.inb ≠ 0, takeC := e.ctl ≠ 0,
               outs := ([e.outt, e.outf].filter (· ≠ 0)).map (fun r => (r, mkToken .marker t.round r 0 t.last)),
               st := restState e.op, held := none }
      else none
    | _ => none))

/-- POISON_CONTROL_FIRING: a poison token stands where the firing would take a control token (R134). -/
def execPoisonControlFiring (s : State) : Host.Outcome State Fault Refusal :=
  nextState (runOper s (fun e o =>
    match o.c with
    | t :: _ =>
      if t.kind != .poison || markerNext e o then none
      else
        let p (r : Nat) : Nat × Token := (r, { mkToken .poison t.round r 0 t.last with rel := t.rel })
        match e.op with
        | 3 => o.a.head?.map (fun _ => ⟨true, false, true, [p e.outt, p e.outf], o.st, o.held⟩)
        | 4 => match o.a, o.b with
          | _ :: _, _ :: _ => some ⟨true, true, true, [p e.outt], o.st, o.held⟩
          | _, _ => none
        | 5 => if o.st == .loop then o.b.head?.map (fun _ => ⟨false, true, true, [p e.outt], .init, none⟩) else none
        | 6 => if o.held.isSome then some ⟨false, false, true, [p e.outt], .empty, none⟩ else none
        | 7 => o.a.head?.map (fun _ => ⟨true, false, true, [p e.outt], o.st, o.held⟩)
        | _ => none
    | [] => none))

end Sys2Proof.Machine
end

