-- ==== Sys2Proof/Machine/Translate.lean ====
section
/-!
DEFINITION. Virtual addresses: the walk of page tables, the entry of an address generator's stream, and accesses to memory outside
the banks at its homes (R254 to R258, R282, R285, R345).
-/
namespace Sys2Proof.Machine

/-! ### The walk (R254 to R256) -/

/-- The levels of a walk: the lowest VA bit and the width of each index. -/
def walkLevels : List (Nat × Nat) := [(55, 2), (42, 13), (29, 13), (16, 13)]

/-- The key of a physical address of a kind and module: device, host, peer. (assumption 8, DESIGN CHOICE, unsafe) -/
def physKey (kind module pa : Nat) : Nat :=
  match kind with
  | 0 => pa
  | 1 => hostKey pa
  | _ => 2 ^ 61 + module * 2 ^ 52 + pa

/-- A valid entry that breaks the layout at a level (0 the root): XLATE_BAD (R255, R256). -/
def entryBad (own : Option Nat) (level e : Nat) : Bool :=
  let leaf := bitOf e 1
  let kind := bitsOf e 2 2
  let pa := bitsOf e 16 36 * 2 ^ 16
  let module := bitsOf e 52 12
  (leaf && level < 2) || (!leaf && level = 3) || (!leaf && kind != 0) || kind = 3 || bitsOf e 5 11 != 0 ||
    (!leaf && bitOf e 4) || (kind != 2 && module != 0) || (leaf && level = 2 && pa % 2 ^ 29 != 0) ||
    (kind = 0 && Config.deviceBytes ≤ pa) || (kind = 2 && !(own.any (· != module)))

/-- The walk from a table: levels left, in order (R254). `word` reads a table entry. -/
def walkFrom (s : State) (word : Nat → Nat) (job : Nat) (va : Nat) : Nat → List (Nat × Nat) → Nat → Except Code Trans
  | _, [], _ => .error .xlateBad
  | level, (lo, len) :: rest, table =>
    let e := word (table + 8 * bitsOf va lo len)
    if !bitOf e 0 then .error .xlateMiss
    else if entryBad s.out.moduleId level e then .error .xlateBad
    else if bitOf e 1 then
      .ok { job := job, vpage := va / 2 ^ lo, big := level = 2, pa := bitsOf e 16 36 * 2 ^ 16, kind := bitsOf e 2 2,
            module := bitsOf e 52 12, writable := bitOf e 4, handle := 0 }
    else walkFrom s word job va (level + 1) rest (bitsOf e 16 36 * 2 ^ 16)

/-- A walk of a VA in a job's space, with a reader of table entries. -/
def State.walkBy (s : State) (word : Nat → Nat) (job va : Nat) : Except Code Trans :=
  if 2 ^ 57 ≤ va then .error .xlateBad
  else match mapGet job s.hub.jobs with
    | some j => walkFrom s word job va 0 walkLevels j.root
    | none => .error .xlateMiss

/-- A table entry as the memory holds it. -/
def State.tableWord (s : State) (addr : Nat) : Nat := s.ms.mem.readNat addr 8

/-- A walk of a VA in a job's space by a unit of the hub, which has no walk cache. (assumption 49, DESIGN CHOICE, unsafe) -/
def State.walk (s : State) (job va : Nat) : Except Code Trans := s.walkBy s.tableWord job va

/-- A table entry as a walk cache shows it: the one it holds under the job and the entry's address, else the memory's (R257, R258). -/
def State.cachedWord (s : State) (cache : List WalkEnt) (job addr : Nat) : Nat :=
  match cache.find? (fun e => e.job == job && e.addr == addr) with
  | some e => e.word
  | none => s.tableWord addr

/-- The valid table entries that a walk meets, as its cache will hold them. -/
def walkMeets (word : Nat → Nat) (job va : Nat) : List (Nat × Nat) → Nat → List WalkEnt
  | [], _ => []
  | (lo, len) :: rest, table =>
    let addr := table + 8 * bitsOf va lo len
    let w := word addr
    if !bitOf w 0 then []
    else { job := job, addr := addr, lo := lo, vpage := va / 2 ^ lo, word := w } ::
      (if bitOf w 1 then [] else walkMeets word job va rest (bitsOf w 16 36 * 2 ^ 16))

/-- An entry put into a walk cache of 16K entries; a full one loses an entry that the free value `drop` names. -/
def cacheWalk (drop : Nat) (cache : List WalkEnt) (e : WalkEnt) : List WalkEnt :=
  if cache.any (fun x => x.job == e.job && x.addr == e.addr) then cache
  else (if cache.length < 16384 then cache else cache.eraseIdx (drop % cache.length)) ++ [e]

/-- The walk cache of a die after a walk of its walkers: the walk's valid entries are in it (R257). (assumption 49, DESIGN CHOICE,
unsafe) -/
def State.walked (s : State) (die job va : Nat) : State :=
  match mapGet job s.hub.jobs with
  | none => s
  | some j =>
    let cache := mapGetD die s.hub.walkCaches []
    let es := walkMeets (s.cachedWord cache job) job va walkLevels j.root
    { s with
      hub := { s.hub with walkCaches := mapSet die (es.foldl (cacheWalk (Config.choice s.my.freeCtr)) cache) s.hub.walkCaches },
      my := { s.my with freeCtr := s.my.freeCtr + 1 } }

/-- A walk by a walker of a die, through its walk cache (R257, R258). -/
def State.dieWalk (s : State) (die job va : Nat) : Except Code Trans :=
  s.walkBy (s.cachedWord (mapGetD die s.hub.walkCaches []) job) job va

/-- Bytes of the page of a translation. -/
def Trans.size (t : Trans) : Nat := if t.big then 2 ^ 29 else 2 ^ 16
/-- A translation covers a VA of a job. -/
def Trans.covers (t : Trans) (job va : Nat) : Bool := t.job == job && t.vpage == va / t.size
/-- The key of a VA that a translation covers. -/
def Trans.keyOf (t : Trans) (va : Nat) : Nat := physKey t.kind t.module (t.pa + va % t.size)

/-- The entry of an attention page in the ladder engine's table, by its owner and VA. -/
def pageKey (job va : Nat) : Nat := job * 2 ^ 57 + va / 2 ^ 16

/-- The page that a VA of a job lies in is dying (R345). -/
def State.dying (s : State) (job va : Nat) : Bool :=
  match mapGet (pageKey job va) s.hub.pages with | some p => p.dying | none => false

/-- A VA of a job translated by a walk, for a read or a write (R256, R345). -/
def State.place (s : State) (job va : Nat) (write : Bool) : Except Code Trans :=
  match s.walk job va with
  | .error c => .error c
  | .ok t => if s.dying job va then .error .pageDying else if write && !t.writable then .error .xlatePerm else .ok t

/-- The parts of an access, cut at every 64-byte line. -/
def lineChunks (va len : Nat) : List (Nat × Nat) :=
  if len = 0 then []
  else (List.range ((va + len + 63) / 64 - va / 64)).map (fun i =>
    let lo := max va ((va / 64 + i) * 64)
    (lo, min (va + len) ((va / 64 + i + 1) * 64) - lo))

/-- The places of the parts of an access by the hub: key, offset in the access, bytes. -/
def State.places (s : State) (job va len : Nat) (write : Bool) : Except (Code × Nat) (List (Nat × Nat × Nat)) :=
  (lineChunks va len).foldl (fun acc c =>
    match acc with
    | .error e => .error e
    | .ok l => match s.place job c.1 write with
      | .error e => .error (e, c.1)
      | .ok t => .ok (l ++ [(t.keyOf c.1, c.1 - va, c.2)])) (.ok [])

/-- An uncorrectable word of memory in a range of keys. (assumption 50, DEDUCED, unsafe) -/
def MemSys.bad (m : MemSys) (key len : Nat) : Bool := m.badWords.any (fun w => w < key + len && key < w + 8)

/-- Bytes at places read by a party, part by part (R286, R289). -/
def readPlaces (s : State) (p : Party) (ps : List (Nat × Nat × Nat)) : List Byte × State :=
  ps.foldl (fun acc c => let (bs, s1) := readMem acc.2 p c.1 c.2.2; (acc.1 ++ bs, s1)) ([], s)

/-- Bytes at a VA read by an engine of the hub: an uncorrectable word fails the access. -/
def readVa (s : State) (job : Nat) (p : Party) (va len : Nat) : Except (Code × Nat) (List Byte × State) :=
  match s.places job va len false with
  | .error e => .error e
  | .ok ps => if ps.any (fun c => s.ms.bad c.1 c.2.2) then .error (.bankEcc, va) else .ok (readPlaces s p ps)

/-- Bytes at a VA written by an engine of the hub: they perform at once, or none does. -/
def writeVa (s : State) (job : Nat) (p : Party) (va : Nat) (bytes : List Byte) : Except (Code × Nat) State :=
  match s.places job va bytes.length true with
  | .error e => .error e
  | .ok ps => .ok (ps.foldl (fun s c => writeNow s p c.1 ((bytes.drop c.2.1).take c.2.2)) s)

/-! ### Address generators (R257, R258) -/

/-- Stream k of a bank unit. -/
def State.strm (s : State) (n k : Nat) : Strm := (s.bu n).strms[Fin.ofNat 16 k]
/-- The state with a stream changed. -/
def State.modStrm (s : State) (n k : Nat) (f : Strm → Strm) : State :=
  s.modBu n (fun b => { b with strms := b.strms.set (Fin.ofNat 16 k) (f b.strms[Fin.ofNat 16 k]) })

/-- A stream's entry covers a VA. -/
def State.strmCovers (s : State) (n k job va : Nat) : Bool :=
  match (s.strm n k).trans with | some t => t.covers job va | none => false

/-- A stream's entry is filled for a VA by a walk of a walker of its die (R257); a new translation to a dying page fails (R345). -/
def refill (s : State) (n k job va handle : Nat) : Except Code Unit × State :=
  let s1 := s.walked (buDie n) job va
  match s.dieWalk (buDie n) job va with
  | .error c => (.error c, s1)
  | .ok t =>
    if s.dying job va then (.error .pageDying, s1)
    else (.ok (), s1.modStrm n k (fun x => { x with trans := some { t with handle := handle } }))

/-- The refills of a die's streams that wait, by their numbers. -/
def State.refills (s : State) (die : Nat) : List Nat :=
  s.bus.flatMap (fun x => if buDie x.1 = die then x.2.strms.toList.filterMap (fun t => t.run.bind (fun r => r.refill.map (·.2.2))) else [])

/-- A refill is at one of the 64 walkers of its die, where refills come in arrival order (R257). -/
def State.atWalker (s : State) (n num : Nat) : Bool := ((s.refills (buDie n)).filter (· < num)).length < 64

/-- The key of a VA through a stream's entry, which must cover it (R256, R345). -/
def strmKey (s : State) (n k job va : Nat) (write : Bool) : Except Code Nat :=
  match (s.strm n k).trans with
  | some t =>
    if write && !t.writable then .error .xlatePerm
    else if write && s.dying job va then .error .pageDying
    else .ok (t.keyOf va)
  | none => .error .xlateMiss

/-- An access through a stream's entry, filled when it does not cover it. -/
def strmAccess (s : State) (n k job va handle : Nat) (write : Bool) : Except Code Nat × State :=
  match (if s.strmCovers n k job va then (.ok (), s) else refill s n k job va handle) with
  | (.error c, s1) => (.error c, s1)
  | (.ok _, s1) => (strmKey s1 n k job va write, s1)

/-- A bank unit's entries that a test takes are emptied. -/
def Bu.dropTrans (hit : Trans → Bool) (b : Bu) : Bu :=
  { b with strms := b.strms.map (fun t => match t.trans with | some e => if hit e then { t with trans := none } else t | none => t) }

/-- Entries of address generators that a test takes are emptied, those of saved regions among them (R258, R262, R393). -/
def dropTrans (s : State) (hit : Trans → Bool) : State :=
  let s1 := s.modHub (fun h => { h with regions := h.regions.map (fun e =>
    (e.1, { e.2 with saved := e.2.saved.map (fun v => { v with bus := v.bus.map (Bu.dropTrans hit) }) })) })
  { s1 with bus := s1.bus.map (fun x => (x.1, x.2.dropTrans hit)) }

/-- Entries of the walk caches that a test takes are invalidated (R258). -/
def dropWalks (s : State) (hit : WalkEnt → Bool) : State :=
  s.modHub (fun h => { h with walkCaches := h.walkCaches.map (fun c => (c.1, c.2.filter (fun e => !hit e))) })

/-- A bank unit's entry covers a page of a job. -/
def Bu.covers (b : Bu) (job va : Nat) : Bool :=
  b.strms.toList.any (fun t => match t.trans with | some e => e.covers job va | none => false)

/-- An address generator's entry covers a page of a job. -/
def State.agCovers (s : State) (job va : Nat) : Bool :=
  s.bus.any (fun x => x.2.covers job va) ||
    s.hub.regions.any (fun e => match e.2.saved with | some v => v.bus.any (fun b => b.covers job va) | none => false)

/-- DYING_PAGE_FREE: a dying page that no entry covers is freed to its heap (R345). (assumption 126, DEDUCED, safe) -/
def execDyingPageFree (s : State) : Host.Outcome State Fault Refusal :=
  nextState (
    match mapGet s.my.arg.n s.hub.pages with
    | some p =>
      if p.dying && !s.agCovers p.owner p.va then
        s.modHub (fun h => { h with
          pages := mapDel s.my.arg.n h.pages,
          jobs := mapMod p.owner (fun j => { j with heapUsed := j.heapUsed.filter (· != p.va / 2 ^ 16) }) h.jobs })
      else s
    | none => s)

end Sys2Proof.Machine
end

