-- ==== Sys2Proof/Machine/Handles.lean ====
section
/-!
DEFINITION. The handle unit: handle entries, the order of their requests, buffer states, shadows and publishes; and the writes that
perform at their homes (R259 to R265, R282, R285, R290, R322).
-/
namespace Sys2Proof.Machine

/-! ### Entries (R259, R322) -/

/-- A handle's entry. -/
structure HEnt where
  state : Nat
  kind : Nat
  shadowed : Bool
  gen : Nat
  writers : Nat
  readers : Nat
  pub : Bool
  base : Nat
  size : Nat
  shadow : Nat
deriving DecidableEq, Repr

/-- Word 0 of an entry. -/
def HEnt.word0 (e : HEnt) : Nat :=
  e.state + e.kind * 2 ^ 4 + (if e.shadowed then 2 ^ 7 else 0) + e.gen * 2 ^ 8 + e.writers * 2 ^ 20 + e.readers * 2 ^ 28 +
    (if e.pub then 2 ^ 36 else 0)

/-- The 32 bytes of an entry. -/
def HEnt.bytes (e : HEnt) : List Byte := [e.word0, e.base, e.size, e.shadow].flatMap (bytesOfNat 8)

/-- The entry of 32 bytes. -/
def entOfBytes (bs : List Byte) : HEnt :=
  let n := natOfBytes bs
  { state := bitsOf n 0 2, kind := bitsOf n 4 3, shadowed := bitOf n 7, gen := bitsOf n 8 12, writers := bitsOf n 20 8,
    readers := bitsOf n 28 8, pub := bitOf n 36, base := bitsOf n 64 64, size := bitsOf n 128 64, shadow := bitsOf n 192 64 }

/-- The entry of a rung handle (R322). -/
def Rung.ent (r : Rung) : HEnt :=
  { state := r.state, kind := 3, shadowed := false, gen := r.gen, writers := r.writers, readers := r.readers, pub := false,
    base := r.base, size := r.size, shadow := 0 }

/-- The slot of a handle. -/
def hSlot (h : Nat) : Nat := bitsOf h 12 20
/-- A rung handle. -/
def isRungHandle (h : Nat) : Bool := bitOf h 31
/-- What the handle unit keys a handle by: its job, 0 for a rung, and its slot. -/
def hKey (job h : Nat) : Nat × Nat := (if isRungHandle h then 0 else job, hSlot h)

/-- The key of a slot's entry in a job's handle table. -/
def State.entPlace (s : State) (job slot : Nat) (write : Bool) : Except Code Nat :=
  match mapGet job s.hub.jobs with
  | none => .error .handle
  | some j => match s.place job (j.htab + 32 * slot) write with
    | .error c => .error c
    | .ok t => .ok (t.keyOf (j.htab + 32 * slot))

/-- The entry of a slot as it stands. -/
def State.slotEnt (s : State) (job slot : Nat) : Except Code HEnt :=
  match s.entPlace job slot false with
  | .error c => .error c
  | .ok key => .ok (entOfBytes (lastBytes s key 32))

/-- The checks of R260 on a handle of a job: its entry, or HANDLE. -/
def State.hent (s : State) (job h : Nat) : Except Code HEnt :=
  if h % 2 ^ 32 = 0 then .error .handle
  else if isRungHandle h then
    match mapGet (hSlot h) s.hub.rungs with
    | some r => if r.used && r.gen = h % 2 ^ 12 then .ok r.ent else .error .handle
    | none => .error .handle
  else
    match mapGet job s.hub.jobs with
    | none => .error .handle
    | some j =>
      if j.hslots ≤ hSlot h then .error .handle
      else match s.slotEnt job (hSlot h) with
        | .error c => .error c
        | .ok e => if e.kind = 0 || e.gen ≠ h % 2 ^ 12 then .error .handle else .ok e

/-- The checks of R260, kinds included; an empty list takes every kind. -/
def State.hentKind (s : State) (job h : Nat) (kinds : List Nat) : Except Code HEnt :=
  match s.hent job h with
  | .error c => .error c
  | .ok e => if kinds.isEmpty || kinds.contains e.kind then .ok e else .error .handleKind

/-- The job whose tables translate a handle's buffer (R327). -/
def State.hJob (s : State) (job h : Nat) : Nat :=
  if isRungHandle h then (match mapGet (hSlot h) s.hub.rungs with | some r => r.owner | none => job) else job

/-- What the handle unit keeps of a handle. -/
def State.hq (s : State) (k : Nat × Nat) : HandleQ :=
  (s.hub.handleQs.find? (fun q => q.job == k.1 && q.slot == k.2)).getD { job := k.1, slot := k.2, queue := [], rel := none }

/-- What the handle unit keeps of a handle changed. -/
def State.modHq (s : State) (k : Nat × Nat) (f : HandleQ → HandleQ) : State :=
  let q := f (s.hq k)
  s.modHub (fun h => { h with handleQs := h.handleQs.filter (fun x => !(x.job == k.1 && x.slot == k.2)) ++ [q] })

/-- An `hb.wait` is due when its state stands: it takes word 0 and the release that the state carries, and is answered later (R261,
R290). `c` = 1 marks it. -/
def wakeWaits (s : State) (k : Nat × Nat) (e : HEnt) : State :=
  s.modHub (fun h => { h with reqs := h.reqs.map (fun r =>
    if r.row == .hbWait && r.stage == .waiting && r.c == 0 && hKey r.org.job r.a == k && r.a % 2 ^ 12 == e.gen && r.mod % 4 == e.state then
      { r with b := e.word0, c := 1, obs := (s.hq k).rel.toList }
    else r) })

/-- The entry of a handle changed, with the release that its state now carries. -/
def State.putHent (s : State) (job h : Nat) (e : HEnt) (rel : Option (Party × Nat × List Nat)) : State :=
  let k := hKey job h
  let s1 := s.modHq k (fun q => { q with rel := rel })
  let s2 := if isRungHandle h then
      s1.modHub (fun g => { g with rungs := mapMod (hSlot h) (fun r =>
        { r with state := e.state, base := e.base, size := e.size, writers := e.writers, readers := e.readers }) g.rungs })
    else match s1.entPlace job (hSlot h) true with
      | .ok key => writeNow s1 .handleUnit key e.bytes
      | .error _ => s1
  wakeWaits s2 k e

/-! ### Counts (R261) -/

/-- A count that sticks at 255 rises. -/
def stickUp (n : Nat) : Nat := min 255 (n + 1)
/-- A count that sticks at 255 falls. -/
def stickDown (n : Nat) : Nat := if n = 255 then 255 else n - 1

/-- The shadow bookkeeping of a job's slot: written since publish, shadow writers (R264). -/
def State.shadowOf (s : State) (job slot : Nat) : Bool × Nat :=
  match mapGet job s.hub.jobs with | some j => mapGetD slot j.shadows (false, 0) | none => (false, 0)
/-- It changed. -/
def State.setShadow (s : State) (job slot : Nat) (v : Bool × Nat) : State :=
  s.modHub (fun h => { h with jobs := mapMod job (fun j => { j with shadows := mapSet slot v j.shadows }) h.jobs })

/-- A role at a handle may start: 0 writer, 1 writer through the shadow, 2 draining reader. -/
def roleReady (role : Nat) (e : HEnt) : Bool :=
  match role with
  | 0 => e.state < 2
  | 1 => true
  | _ => 2 ≤ e.state

/-- A role starts at a handle. The release that set a state stays with it while the role leaves that state as it is (R290), and a rung that
drains keeps the release that set it FULL (R333). -/
def startRole (s : State) (job h role : Nat) (e : HEnt) : State :=
  let rel := (s.hq (hKey job h)).rel
  match role with
  | 0 => s.putHent job h { e with state := 1, writers := stickUp e.writers } (if e.state = 1 then rel else none)
  | 1 =>
    let v := s.shadowOf job (hSlot h)
    (s.putHent job h { e with writers := stickUp e.writers } rel).setShadow job (hSlot h) (v.1, v.2 + 1)
  | _ => s.putHent job h { e with state := 3, readers := stickUp e.readers } (if e.kind = 3 || e.state = 3 then rel else none)

/-- A role ends at a handle, with the end-of-run change of `fin` or `consume` (R261). A rung that `consume` has drained returns to
FULL, and `fin` does not end its build (R329). (assumption 54, DEDUCED, unsafe) -/
def endRole (s : State) (job h role : Nat) (fin consume : Bool) : State :=
  match s.hent job h with
  | .error _ => s
  | .ok e =>
    match role with
    | 0 =>
      let w := stickDown e.writers
      if fin && w = 0 && e.kind ≠ 3 then s.putHent job h { e with writers := w, state := 2 } none
      else s.putHent job h { e with writers := w } (s.hq (hKey job h)).rel
    | 1 =>
      let v := s.shadowOf job (hSlot h)
      (s.putHent job h { e with writers := stickDown e.writers } (s.hq (hKey job h)).rel).setShadow job (hSlot h) (v.1, v.2 - 1)
    | _ =>
      let r := stickDown e.readers
      if r = 0 then s.putHent job h { e with readers := 0, state := if consume && e.kind ≠ 3 then 0 else 2 }
          (if e.kind = 3 then (s.hq (hKey job h)).rel else none)
      else s.putHent job h { e with readers := r } (s.hq (hKey job h)).rel

/-! ### Order of requests (R260, R261) -/

/-- A number takes its place in a handle's order, once. -/
def takePlace (s : State) (k : Nat × Nat) (id : Nat) : State :=
  if (s.hq k).queue.contains id then s else s.modHq k (fun q => { q with queue := q.queue ++ [id] })
/-- A number is first in a handle's order. -/
def atHead (s : State) (k : Nat × Nat) (id : Nat) : Bool := (s.hq k).queue.head? == some id
/-- A number leaves a handle's order. -/
def leavePlace (s : State) (k : Nat × Nat) (id : Nat) : State := s.modHq k (fun q => { q with queue := q.queue.filter (· != id) })

/-! ### Answers -/

/-- The requests that take the answer of a request: itself, and its mirrors (R388). -/
def Req.takes (id : Nat) (r : Req) : Bool := r.id == id || r.stage == .mirror id

/-- A request is answered with a value. -/
def State.reply (s : State) (id val : Nat) : State :=
  s.modHub (fun h => { h with reqs := h.reqs.map (fun r => if r.takes id then { r with stage := .replied (BitVec.ofNat 512 val) } else r) })
/-- A request fails; `hold` then names its record, once that is under delivery. -/
def State.failReq (s : State) (id : Nat) (c : Code) (address extra : Nat) : State :=
  s.modHub (fun h => { h with reqs := h.reqs.map (fun r =>
    if r.takes id then { r with stage := .failed c.num address extra, hold := [], after := [] } else r) })

/-- The first of the numbers that stand for peer modules where an origin names a bank unit: a request of module m comes from this plus m. -/
def peerBase : Nat := 2 ^ 40

/-- The party that issued a request. -/
def Req.party (r : Req) : Party := if peerBase ≤ r.org.bu then .peer (r.org.bu - peerBase) else .ctx r.org.bu r.org.slot
/-- The release of a request with a `sync` (R287, R298): what the entry of its handle or its engine observes. -/
def Req.release (r : Req) : Option (Party × Nat × List Nat) := if r.sync = 0 then none else some (r.party, r.sync - 1, r.past)

/-- A location or a handle that a request touches, for the order of its party's accesses of one location (R295). -/
inductive Place' where
  | bytes (key len : Nat)
  | handle (k : Nat × Nat)
deriving DecidableEq, Repr

/-- Two places overlap. -/
def Place'.meets (a b : Place') : Bool :=
  match a, b with
  | .bytes k n, .bytes j m => k < j + m && j < k + n
  | .handle k, .handle j => k == j
  | _, _ => false

/-- The stream number of the buffer that a request reaches memory through: `mod`[9:8] of `ldm`, `stm` and `prf`, [8:7] of the
requests of R298. -/
def Req.stream (r : Req) : Nat :=
  4 * r.org.slot + (match r.row with | .ldm | .stm | .prf => bitsOf r.mod 8 2 | _ => bitsOf r.mod 7 2)

/-- The width in bytes of the access of a request (R275, R301). -/
def Req.width (r : Req) : Nat :=
  match r.row with
  | .ldm | .stm | .atom | .cas | .red => r.ty.bytes
  | .cas2 => 16
  | .barInit | .barArrive | .barDrop | .barWait => 64
  | _ => 1

/-- A request that reaches device memory through a stream's buffer. -/
def Req.onDevice (r : Req) : Bool :=
  match r.row with
  | .ldm | .stm | .prf => true
  | .atom | .cas | .cas2 | .red | .barInit | .barArrive | .barDrop | .barWait => bitOf r.mod 9
  | _ => false

/-- The handle of the stream that a request uses. -/
def State.reqHandle (s : State) (r : Req) : Nat := (s.strm r.org.bu r.stream).handle

/-- What a request touches. -/
def State.reqPlace (s : State) (r : Req) : Option Place' :=
  match r.row with
  | .hbState | .hbWait | .hbSet | .hbPub | .hbFree | .shRd | .shChk => some (.handle (hKey r.org.job r.a))
  | _ =>
    if !r.onDevice then none
    else
      match s.hent r.org.job (s.reqHandle r) with
      | .error _ => none
      | .ok e =>
        let base := if r.row == .stm && (s.strmProg r.org.bu r.stream).shadow then e.shadow else e.base
        match s.place (s.hJob r.org.job (s.reqHandle r)) (base + r.a) false with
        | .ok t => some (.bytes (t.keyOf (base + r.a)) r.width)
        | .error _ => none

/-- The older requests of a party that have not been served; a load whose result nobody takes is none of them. -/
def State.olderReqs (s : State) (r : Req) : List Req :=
  s.hub.reqs.filter (fun q => q.org.bu == r.org.bu && q.org.slot == r.org.slot && q.id < r.id && !(q.dead && q.row == .ldm) &&
    (match q.stage with | .held | .queued | .sent => true | _ => false))

/-- The engine that owns a key of device or peer memory: while lines move, those below the watermark use the new striping (R279). -/
def State.owner (s : State) (key : Nat) : Nat :=
  let e := match s.hub.watermark with | some w => if key < w then s.hub.epoch + 1 else s.hub.epoch | none => s.hub.epoch
  Config.stripe e (key / 1024) % Config.engines

/-- A host page, where no operation of the engines runs (R296). -/
def onHost (key : Nat) : Bool := 2 ^ 60 ≤ key && key < 2 ^ 61

/-! ### The ways out of the module (R396, R404) -/

/-- The flits that the receiver of a link still lets its sender send: link k for flits that come in, 16 + k for those that go out. -/
def Outside.window (o : Outside) (link : Nat) : Nat := mapGetD link o.peerWindows 32

/-- The link towards a module, by firmware's route table (R404). -/
def State.linkTo (s : State) (module : Nat) : Option Nat := mapGet module s.out.routeTable

/-- A flit may leave towards a module: it has a route, and its link's receiver has granted a window (R404). -/
def State.maySend (s : State) (module : Nat) : Bool := match s.linkTo module with | some l => 0 < s.out.window (16 + l) | none => false

/-- A flit leaves towards a module. -/
def State.sendPeer (s : State) (module : Nat) : State :=
  match s.linkTo module with
  | some l => { s with out := { s.out with peerWindows := mapSet (16 + l) (s.out.window (16 + l) - 1) s.out.peerWindows } }
  | none => s

/-- The module of a key of peer memory. -/
def keyModule (key : Nat) : Option Nat := if 2 ^ 61 ≤ key then some ((key - 2 ^ 61) / 2 ^ 52) else none

/-- A request of a context or stream to a key may leave now: to a host page while the link is up (R396), to a peer page over a link that
lets it (R404). -/
def State.mayReach (s : State) (key : Nat) : Bool :=
  !(s.out.linkFailed && onHost key) && (match keyModule key with | some m => s.maySend m | none => true)

/-- It leaves. -/
def State.reach (s : State) (key : Nat) : State := match keyModule key with | some m => s.sendPeer m | none => s

/-- The engine that owns the first byte of a handle's buffer. -/
def State.handleHome (s : State) (job h : Nat) : Option Nat :=
  match s.hent job h with
  | .error _ => none
  | .ok e => match s.place (s.hJob job h) e.base false with
    | .ok t => some (s.owner (t.keyOf e.base))
    | .error _ => none

/-- The home at which a request arrives in the order in which its source sends (R302, R326, R355): an engine, a bank port from 2^62, a
counter from 2^63, the ladder engine for a span from 2^64, or the launch unit. -/
def State.reqHome (s : State) (r : Req) : Option Nat :=
  match r.row with
  | .msg => s.handleHome r.org.job r.a
  | .ceRed => s.handleHome r.org.job (bitsOf r.a 32 32)
  | .atom | .cas | .cas2 | .red | .barInit | .barArrive | .barDrop | .barWait =>
    if !r.onDevice then some (2 ^ 62 + r.org.bu)
    else (match s.reqPlace r with | some (.bytes key _) => if onHost key then none else some (s.owner key) | _ => none)
  | .cntAdd | .cntRd | .cntWait => some (2 ^ 63 + r.a)
  | .spFree | .lift | .lower | .recall | .probe | .drop | .spPin | .spUnpin | .kvApp => some (2 ^ 64 + bitsOf r.a 28 24)
  | .glLaunch => some (2 ^ 65)
  | _ => none

/-- A request has arrived at its home and waits there for its handles. -/
def State.arrived (s : State) (r : Req) : Bool := s.hub.handleQs.any (fun q => q.queue.contains r.id)

/-- An older request of the same source comes before a request: to the same location or the same handle (R295), or sent to the same home,
where it has not arrived (R302). -/
def State.comesFirst (s : State) (q r : Req) : Bool :=
  (match s.reqPlace q, s.reqPlace r with | some x, some p => p.meets x | _, _ => false) ||
    (q.stage != .held && !s.arrived q && (match s.reqHome q, s.reqHome r with | some h, some k => h == k | _, _ => false))

/-- No older request of its source comes before a request. -/
def State.inOrder (s : State) (r : Req) : Bool := (s.olderReqs r).all (fun q => !s.comesFirst q r)

/-- A request reaches a host page. -/
def State.onHostPage (s : State) (r : Req) : Bool :=
  match s.reqPlace r with | some (.bytes k _) => onHost k | _ => false

/-- A request may be served now: it has left its bank unit and stands in order; those to host pages stay pending while the link is
down (R396), and those to peer pages need a way (R404). -/
def State.mayServe (s : State) (r : Req) : Bool :=
  (match r.stage with | .queued | .sent => s.hasLeft r | _ => false) && s.inOrder r &&
    (match s.reqPlace r with | some (.bytes key _) => s.mayReach key | _ => true)

/-! ### Handle requests (R264) -/

/-- The lowest unused slot of a job's table from `k` on. -/
def freeSlot (s : State) (job : Nat) : Nat → Nat → Except Code Nat
  | 0, _ => .error .handleFull
  | n + 1, k => match s.slotEnt job k with
    | .error c => .error c
    | .ok e => if e.kind = 0 then .ok k else freeSlot s job n (k + 1)

/-- `hb.alloc` (R264). -/
def serveAlloc (s : State) (q : Req) : State :=
  let shadowed := q.c ≠ 2 ^ 64
  let shadow := if shadowed then q.c else 0
  if q.a % 64 ≠ 0 || shadow % 64 ≠ 0 || q.b = 0 || 2 ^ 48 < q.b then s.failReq q.id .handleArg 0 0
  else
    match mapGet q.org.job s.hub.jobs with
    | none => s.failReq q.id .handle 0 0
    | some j => match freeSlot s q.org.job (j.hslots - 1) 1 with
      | .error c => s.failReq q.id c 0 0
      | .ok k => match s.slotEnt q.org.job k with
        | .error c => s.failReq q.id c 0 0
        | .ok old =>
          let h := k * 2 ^ 12 + old.gen
          let e : HEnt := { state := 0, kind := bitsOf q.mod 0 3, shadowed := shadowed, gen := old.gen, writers := 0, readers := 0,
                            pub := false, base := q.a, size := q.b, shadow := shadow }
          ((s.putHent q.org.job h e none).setShadow q.org.job k (false, 0)).reply q.id h

/-- The pending `hb.wait`s of a freed handle fail (R264). -/
def failWaits (s : State) (k : Nat × Nat) : State :=
  s.modHub (fun h => { h with reqs := h.reqs.map (fun r =>
    if r.row == .hbWait && r.stage == .waiting && r.c == 0 && hKey r.org.job r.a == k then { r with stage := .failed Code.handle.num 0 0, hold := [] } else r) })

/-- A publish (R262): the entries of address generators that hold the handle are emptied, the copies swap, and the buffer is FULL. -/
def publish (s : State) (job h : Nat) (e : HEnt) (rel : Option (Party × Nat × List Nat)) : State :=
  let s1 := dropTrans s (fun t => t.job == job && t.handle == h % 2 ^ 32)
  let v := s1.shadowOf job (hSlot h)
  (s1.putHent job h { e with base := e.shadow, shadow := e.base, state := 2, pub := false } rel).setShadow job (hSlot h) (false, v.2)

/-- The kinds that a handle request takes (R260, R264). (assumption 58, DEDUCED, unsafe) -/
def handleKinds (r : Row) : List Nat :=
  match r with
  | .hbSet | .hbFree => [1, 2, 4]
  | .hbPub => [1]
  | _ => []

/-- A handle request that holds a place is ready. -/
def handleReady (q : Req) (e : HEnt) : Bool :=
  match q.row with
  | .hbSet => e.writers = 0 && e.readers = 0
  | .hbPub => !e.shadowed || (e.writers = 0 && e.readers = 0 && !e.pub)
  | .hbFree => e.writers = 0 && e.readers = 0 && !e.pub
  | _ => true

/-- The effect of a handle request whose handle has been checked (R264). (assumption 55, DEDUCED, unsafe) -/
def serveHandle (s : State) (q : Req) (e : HEnt) : State :=
  let job := q.org.job
  match q.row with
  | .hbState => s.reply q.id e.word0
  | .shRd => s.reply q.id e.shadow
  | .shChk =>
    let v := s.shadowOf job (hSlot q.a)
    s.reply q.id ((if e.pub then 1 else 0) + (if v.1 then 2 else 0) + min v.2 255 * 2 ^ 8)
  | .hbWait =>
    let s1 := s.modReq q.id (fun r => { r with stage := .waiting, c := 0 })
    wakeWaits s1 (hKey job q.a) e
  | .hbSet => (s.putHent job q.a { e with state := bitsOf q.mod 0 2 } q.release).dropReq q.id
  | .hbPub =>
    if !e.shadowed then s.failReq q.id .handleKind 0 0
    else (publish s job q.a e q.release).reply q.id (q.a % 2 ^ 32)
  | .hbFree =>
    let k := hKey job q.a
    ((failWaits (s.putHent job q.a { e with kind := 0, state := 0, shadowed := false, shadow := 0, gen := (e.gen + 1) % 4096 } none) k).dropReq q.id)
  | _ => s

/-- A request of the handle unit that holds no place (R261). -/
def holdsNoPlace (r : Row) : Bool := match r with | .hbState | .hbWait | .shRd | .shChk => true | _ => false

/-- A request is at the handle unit: it is served when it is first in its handle's order and ready, else it waits there. -/
def serveInOrder (s : State) (q : Req) (h : Nat) (kinds : List Nat) (ready : HEnt → Bool) (fail : Code → State → State)
    (serve : HEnt → State → State) : State :=
  let k := hKey q.org.job h
  match s.hentKind q.org.job h kinds with
  | .error c => fail c (leavePlace s k q.id)
  | .ok e =>
    let s1 := takePlace s k q.id
    if atHead s1 k q.id && ready e then serve e (leavePlace s1 k q.id) else s1

/-! ### The port of an address generator (R257, R273) -/

/-- A walker is free for a scalar access, and no run of its stream waits for a refill (R257). -/
def State.walkerFree (s : State) (n k : Nat) : Bool :=
  s.atWalker n s.hub.nextId && ((s.strm n k).run.bind (·.refill)).isNone

/-- A run can make a request: it has its handles and its translation, no failure, and its bank unit is not frozen (R257, R391). -/
def requestReady (b : Bu) (r : Run) : Bool := b.frozen.isEmpty && r.waitH.isEmpty && r.refill.isNone && r.err.isNone

/-- A run's next request is one to memory: nothing is to be redelivered, delivered or taken first. -/
def Strm.wantsMemory (t : Strm) (p : StrmProg) : Bool :=
  match t.run with
  | some r => t.redo.isEmpty && !r.ended && (if p.dir = 0 then r.todo.isEmpty else !r.got.isEmpty)
  | none => false

/-- A scalar access of a stream waits for the port. -/
def State.scalarWaits (s : State) (n k : Nat) : Bool :=
  s.hub.reqs.any (fun q => q.org.bu == n && q.stream == k && s.mayServe q && (match q.row, s.hent q.org.job (s.reqHandle q) with
    | .ldm, .ok e => 2 ≤ e.state
    | .prf, .ok _ => true
    | .stm, .ok e => atHead s (hKey q.org.job (s.reqHandle q)) q.id && roleReady (if (s.strmProg n k).shadow then 1 else 0) e
    | _, _ => false))

/-- A stream has a request waiting for the port. -/
def State.wantsPort (s : State) (n k : Nat) : Bool :=
  s.scalarWaits n k || ((s.strm n k).wantsMemory (s.strmProg n k) && (match (s.strm n k).run with
    | some r => requestReady (s.bu n) r
    | none => false))

/-- The stream whose word 15 owns a slot of the port, 0 for an unowned one (R273). -/
def State.slotOwner (s : State) (n slot : Nat) : Nat :=
  ((List.range 16).find? (fun k => bitOf (s.strmWord n (k / 4) (k % 4) 15) slot)).getD 0

/-- The stream that the present cycle's slot goes to: its owner, or the next after it, cyclically, with a request waiting (R273). -/
def State.portStream (s : State) (n : Nat) : Option Nat :=
  ((List.range 16).map (fun i => (s.slotOwner n ((s.bu n).cycle % 64) + i) % 16)).find? (s.wantsPort n)

/-- A stream may make a request in this cycle: the port has taken none, and the slot is the stream's (R273). -/
def State.portTurn (s : State) (n k : Nat) : Bool := (s.bu n).port != some (s.bu n).cycle && s.portStream n == some k

/-- The port takes a request. -/
def State.usePort (s : State) (n : Nat) : State := s.modBu n (fun b => { b with port := some b.cycle })

/-- The value of an `stm` as bytes. -/
def Req.bytes (r : Req) : List Byte := bytesOfNat r.width r.c

/-- An `stm` at the handle unit (R261, R275): it starts as a writer and its write waits to perform; when it fails, its writer ends. -/
def serveStm (t : State) (q : Req) : State :=
  let h := t.reqHandle q
  let s := takePlace t (hKey q.org.job h) q.id
  let shadow := (s.strmProg q.org.bu q.stream).shadow
  let role := if shadow then 1 else 0
  let start (e : HEnt) : Nat := (if shadow then e.shadow else e.base) + q.a
  let turn (e : HEnt) : Bool := e.size < q.a + q.width || ((s.strmCovers q.org.bu q.stream (s.hJob q.org.job h) (start e) ||
    s.walkerFree q.org.bu q.stream) && s.portTurn q.org.bu q.stream)
  serveInOrder s q h [] (fun e => roleReady role e && turn e) (fun c s => s.failReq q.id c 0 0) (fun e s =>
    let s1 := startRole s q.org.job h role e
    let bad (c : Code) (va : Nat) (s : State) : State := (endRole s q.org.job h role false false).failReq q.id c va 0
    if e.size < q.a + q.width then bad .handleRange q.a s1
    else
      match strmAccess (s1.usePort q.org.bu) q.org.bu q.stream (s1.hJob q.org.job h) (start e) h true with
      | (.error c, s2) => bad c (start e) s2
      | (.ok key, s2) =>
        let w : PWrite := { w := { id := q.id, key := key, bytes := q.bytes, party := q.party, past := q.past, rel := q.rel },
                            org := some q.org, after := [], ends := some (q.org.job, h, role, false), logged := false,
                            shadow := if shadow then some (q.org.job, hSlot h) else none }
        { (s2.dropReq q.id) with ms := { s2.ms with pending := s2.ms.pending ++ [w] } })

/-- The stream that waits for a handle request of a number: bank unit, stream, handle and role. -/
def State.strmTicket (s : State) (id : Nat) : Option (Nat × Nat × Nat × Nat) :=
  s.bus.findSome? (fun x => (withIndex 0 x.2.strms.toList).findSome? (fun t => match t.2.run with
    | some r => (r.waitH.find? (fun w => w.1 = id)).map (fun w => (x.1, t.1, w.2.1, w.2.2))
    | none => none))

/-- The job of the region of a bank unit's stream runs. -/
def serveTicket (s : State) (id n k h role : Nat) : State :=
  let job := s.jobOf n
  let key := hKey job h
  match s.hent job h with
  | .error c =>
    (leavePlace s key id).modStrm n k (fun t => { t with run := t.run.map (fun r =>
      { r with waitH := r.waitH.filter (fun w => w.1 != id), err := some (c.num, 0, 0) }) })
  | .ok e =>
    let s1 := takePlace s key id
    if atHead s1 key id && roleReady role e then
      (startRole (leavePlace s1 key id) job h role e).modStrm n k (fun t => { t with run := t.run.map (fun r =>
        { r with waitH := r.waitH.filter (fun w => w.1 != id), held := r.held ++ [(h, role)] }) })
    else s1

/-- HANDLE_REQUEST_SERVICE: the handle unit serves a request, or a stream's start, of a number; one that must wait keeps its place
(R260 to R264). -/
def execHandleRequestService (s : State) : Host.Outcome State Fault Refusal :=
  let id := s.my.arg.n
  nextState (
    match s.req id with
    | some q =>
      if !s.mayServe q then s
      else
        let fail (c : Code) (s : State) : State := s.failReq id c 0 0
        match q.row with
        | .stm => serveStm s q
        | .hbAlloc => serveAlloc s q
        | .hbState | .hbWait | .shRd | .shChk =>
          (match s.hent q.org.job q.a with
            | .error c => fail c s
            | .ok e => serveHandle s q e)
        | .hbSet | .hbPub | .hbFree =>
          serveInOrder s q q.a (handleKinds q.row) (handleReady q) fail (fun e s => serveHandle s q e)
        | _ => s
    | none => match s.strmTicket id with
      | some (n, k, h, role) => serveTicket s id n k h role
      | none => s)

/-- HB_WAIT_ANSWER: a due `hb.wait` is answered with word 0 (R261, R264). -/
def execHbWaitAnswer (s : State) : Host.Outcome State Fault Refusal :=
  let id := s.my.arg.n
  nextState (
    match s.req id with
    | some q => if q.row == .hbWait && q.stage == .waiting && q.c == 1 then s.reply id q.b else s
    | none => s)

/-! ### Stores perform (R282, R285, R295) -/

/-- A write to a host page performs after the stores to host pages that its party issued before it (R295, R397) and the bells that it rang
before it (R406). -/
def hostMayPerform (s : State) (w : Write) : Bool :=
  !onHost w.key ||
    (s.ms.pending.all (fun p => !(p.w.party == w.party && p.w.id < w.id && onHost p.w.key)) &&
      s.hub.reqs.all (fun q => !(q.party == w.party && q.id < w.id && (match q.row, q.stage with
        | .fwcallBell, _ => !q.dead
        | .stm, .held | .stm, .queued | .stm, .sent => s.onHostPage q
        | _, _ => false))))

/-- A write is after another one at a byte that both cover: its past holds the other's number there (R285). -/
def Write.after (w q : Write) : Bool :=
  (List.range w.bytes.length).any (fun i => q.covers (w.key + i) && w.past.contains (q.idAt (w.key + i)))

/-- A write may perform: what it waits for has performed, no write to the same bytes that it is after is pending, and stores to host
pages keep their order. -/
def mayPerform (s : State) (p : PWrite) : Bool :=
  !p.logged && s.mayReach p.w.key && hostMayPerform s p.w && p.after.all (fun id => !s.outstanding id) && s.ms.pending.all (fun q => !p.w.after q.w)

/-- A handle's shadow has been written since the last publish (R264). -/
def shadowWritten (s : State) (at_ : Option (Nat × Nat)) : State :=
  match at_ with
  | some (job, slot) => s.setShadow job slot (true, (s.shadowOf job slot).2)
  | none => s

/-- STORE_PERFORM: a write performs at its home, and ends its writer (R261, R282). -/
def execStorePerform (s : State) : Host.Outcome State Fault Refusal :=
  nextState (
    match s.ms.pending.find? (fun p => p.w.id == s.my.arg.n) with
    | none => s
    | some p =>
      if !mayPerform s p then s
      else
        let s1 := shadowWritten (performWrite { s with ms := { s.ms with pending := s.ms.pending.filter (fun q => q.w.id != p.w.id) } } p.w)
          p.shadow |>.reach p.w.key
        match p.ends with | some (job, h, role, fin) => endRole s1 job h role fin false | none => s1)

/-! ### Results (R67, R68, R180, R287, R292, R383) -/

/-- The answer of an acquire brings its context, and all that has waited for it, the pasts of the releases that it observed (R287). -/
def acquireAnswer (s : State) (q : Req) : State :=
  let scope := match q.row with | .hbWait | .barWait | .cntWait => q.sync - 1 | _ => 3
  s.learn q.party q.id (acquired s q.party scope q.obs)

/-- A request no longer holds the accesses that wait for its answer (R292, R294). -/
def State.unhold (s : State) (q : Req) : State :=
  s.modCtx q.org.bu q.org.slot (fun c => { c with acquires := c.acquires.filter (· != q.id) })

/-- The register of a request takes its value, when it still waits for it. -/
def fillDest (r : Regs) (d : Dest) (id : Nat) (v : Line) (flags : Nat) : Regs :=
  let r1 := if pendingOn r d = some id then writeDest r d v else r
  { r1 with flags := joinFlags r1.flags flags }

/-- A committed request's result arrives (R67): its destination is written, its flags are ORed in, a reply to a detached read is
logged, and an ENDING context may enter IDLE. -/
def arriveResult (s : State) (q : Req) (v : Line) : State :=
  let n := q.org.bu
  let slot := q.org.slot
  let s1 := s.modRegs n slot (fun r => fillDest r q.dst q.id v q.flags)
  let s2 := if isLoggedRead q.row && !q.begun then logReplay s1 n (s1.tagRound n slot q.org.round) 1 (.reply slot q.id v) else s1
  let s3 := if isAnsweredAcquire q.row q.sync then acquireAnswer s2 q else s2
  settleEnding ((s3.unhold q).dropReq q.id) n slot

/-- The flags of a special function that a mask traps: the lowest. -/
def trapOf (s : State) (q : Req) : Option Nat := flagTrap (s.ctx q.org.bu q.org.slot).regs.fmask q.flags

/-- A special function fails before its block commits: the fault is synchronous (R180). -/
def earlyTrap (s : State) (q : Req) (code : Code) (extra : Nat) : State :=
  (s.dropReq q.id).raise q.org.bu q.org.slot q.org.block q.org.op q.org.elem ⟨code, 0, extra⟩

/-- An `ldm` is served (R275): it waits for a FULL or DRAINING buffer, and reads the visible copy. -/
def serveLdm (s : State) (q : Req) : State :=
  let h := s.reqHandle q
  match s.hent q.org.job h with
  | .error c => s.failReq q.id c 0 0
  | .ok e =>
    if e.state < 2 then s
    else if e.size < q.a + q.width then s.failReq q.id .handleRange q.a 0
    else
      let va := e.base + q.a
      let n := q.org.bu
      let k := q.stream
      let job := s.hJob q.org.job h
      if !s.portTurn n k || !(s.strmCovers n k job va || s.walkerFree n k) then s
      else match strmAccess (s.usePort n) n k job va h false with
      | (.error c, s1) => s1.failReq q.id c va 0
      | (.ok key, s1) =>
        if s1.ms.bad key q.width then s1.failReq q.id .bankEcc va 0
        else if !s1.ms.readable q.party key q.width then s
        else
          let (bs, s2) := readMem (s1.reach key) q.party key q.width
          s2.reply q.id (extendLoad q.ty q.width (natOfBytes bs))

/-- A `prf` refills its stream's entry, and never faults (R275). -/
def servePrf (s : State) (q : Req) : State :=
  let h := s.reqHandle q
  match s.hent q.org.job h with
  | .error _ => s.dropReq q.id
  | .ok e =>
    if !s.portTurn q.org.bu q.stream || !s.walkerFree q.org.bu q.stream then s
    else (refill (s.usePort q.org.bu) q.org.bu q.stream (s.hJob q.org.job h) (e.base + q.a) h).2.dropReq q.id

/-- `cstate` (R277): the counter of the launch and its copy entries. -/
def cstateWord (s : State) (launch : Nat) : Nat :=
  match mapGet launch s.hub.launches with
  | some l => l.stage + min (l.copies.filter (·.released)).length 255 * 2 ^ 8 + min (l.copies.filter (·.ended)).length 255 * 2 ^ 16 +
      min l.copies.length 255 * 2 ^ 24
  | none => 0

/-- The detached reads that this step serves where they arrive: `ldm`, `prf`, `rate.rd` and `cstate`. -/
def serveRead (s : State) (q : Req) : State :=
  match q.row with
  | .ldm => serveLdm s q
  | .prf => servePrf s q
  | .rateRd => s.reply q.id (rateAnswer s q.org.bu q.org.slot q.a q.b)
  | .cstate => s.reply q.id (cstateWord s q.org.launch)
  | _ => s

/-- The answer of a peer's request, or its failure, leaves over the link towards it (R319, R404). -/
def answerPeer (s : State) (q : Req) : State :=
  let m := q.org.bu - peerBase
  match q.stage with
  | .replied _ | .failed .. => if s.maySend m then (s.sendPeer m).dropReq q.id else s
  | _ => s

/-- DETACHED_RESULT: a detached operation is served, or its result arrives and is written, held for the commit, or discarded (R66,
R67, R180). -/
def execDetachedResult (s : State) : Host.Outcome State Fault Refusal :=
  nextState (
    match s.req s.my.arg.n with
    | none => s
    | some q =>
      if peerBase ≤ q.org.bu then answerPeer s q
      else if Config.bankUnits ≤ q.org.bu && !q.dead then s
      else match q.stage with
      | .queued | .sent => if s.mayServe q then serveRead s q else s
      | .replied v =>
        if q.dead then s.dropReq q.id
        else if !q.committed then
          match (if q.row.isVector then trapOf s q else none) with
          | some k => earlyTrap s q .flag k
          | none => s.modBlk q.org.bu q.org.slot (fun b => if b.early.contains q.id then b else { b with early := b.early ++ [q.id] })
        else match (if q.row.isVector then trapOf s q else none) with
          | some k => s.failReq q.id .flag 0 k
          | none => arriveResult s q v
      | .failed _ _ extra =>
        if q.dead then s.dropReq q.id
        else if !q.committed && q.row.isVector then earlyTrap s q .overflow extra
        else s
      | .waiting => if q.forgotten then s.dropReq q.id else s
      | _ => s)

/-- A record of an asynchronous failure by its code's number (R373). -/
def failRec (s : State) (q : Req) (code address extra : Nat) : FaultRec :=
  { mkRec s q.org .empty true address extra with code := code }

/-- The destination of a failed request turns failed (R68). -/
def failDest (r : Regs) (d : Dest) (id : Nat) : Regs :=
  if pendingOn r d = some id then
    match d with
    | .none => r
    | .g i => { r with g := r.g.set i { r.g[i] with st := .failed } }
    | .v i => { r with v := r.v.set i { r.v[i] with st := .failed } }
  else r

/-- The ladder and work requests that wait at the hub are known by no other list; a failed one leaves the parked list. -/
def unpark (s : State) (id : Nat) : State := s.modHub (fun h => { h with parked := h.parked.filter (· != id) })

/-- DETACHED_FAILURE: a committed request's failure is reported, and once its record is posted its destination turns failed (R68,
R265). `hold` names the record. (assumption 56, DEDUCED, unsafe) -/
def execDetachedFailure (s : State) : Host.Outcome State Fault Refusal :=
  nextState (
    match s.req s.my.arg.n with
    | none => s
    | some q =>
      if Config.bankUnits ≤ q.org.bu && !q.dead then s
      else match q.stage with
      | .failed code address extra =>
        if q.dead then s.dropReq q.id
        else if !q.committed then s
        else match q.hold with
          | [] =>
            let id := s.hub.nextId
            (unpark (s.post (failRec s q code address extra) 0 q.org) q.id).modReq q.id (fun r => { r with hold := [id], after := [] })
          | rec_ :: _ =>
            if s.hub.recs.any (fun r => r.id == rec_) then s
            else
              settleEnding (((s.modRegs q.org.bu q.org.slot (fun r => failDest r q.dst q.id)).unhold q).dropReq q.id) q.org.bu q.org.slot
      | _ => s)

end Sys2Proof.Machine
end

