-- ==== Sys2Proof/Machine/Vector.lean ====
section
/-!
DEFINITION. Element-wise arithmetic, shifts, compares, selects, dot products, reductions and lane movers (R165 to R174).
-/
namespace Sys2Proof.Machine

/-! ### Element-wise operations -/

/-- The three sources of a lane operation, broadcasts repeated in every lane (R162). -/
structure LaneSrc where
  a : Nat
  b : Nat
  c : Nat
deriving DecidableEq, Repr

/-- The sources of an element-wise operation of type t. -/
def laneSrc (v : View) (x : Srcs) (t : Ty) : LaneSrc :=
  { a := x.a, b := spread v.o.b t.bits t.lanes x.b, c := spread v.o.c t.bits t.lanes x.c }

/-- An integer lane operation (R166): `f` on the exact integers the lanes read as, the result modulo 2^w. -/
def intLane (t : Ty) (f : Int → Int → Int → Int) (q : LaneSrc) (k : Nat) : Nat :=
  let w := t.bits
  let rd (n : Nat) : Int := if t.isSigned then signedOf w (laneOf w n k) else ((laneOf w n k : Nat) : Int)
  wrapNat w (f (rd q.a) (rd q.b) (rd q.c))

/-- A float lane operation that rounds once (R167). -/
def floatLane (v : View) (t : Ty) (f : Val → Val → Val → Exact) (q : LaneSrc) (k : Nat) (g : Word) : LaneRes :=
  roundLane v t (f (laneVal t q.a k) (laneVal t q.b k) (laneVal t q.c k)) g

/-- An operation with an integer and a float reading (R166, R167). -/
def arithBody (fi : Int → Int → Int → Int) (ff : Bool → Val → Val → Val → Exact) (v : View) (x : Srcs) : Except Stop Res :=
  let t := v.o.ty
  let q := laneSrc v x t
  tyLanes v x t (fun k g => if t.isInt then plain (intLane t fi q) k g else floatLane v t (ff v.rdn) q k g)

/-- An operation with a third reading, on the residues of rns lanes (R168). -/
def ringBody (fi : Int → Int → Int → Int) (ff : Bool → Val → Val → Val → Exact) (v : View) (x : Srcs) : Except Stop Res :=
  if v.o.ty = .rns then
    let q := laneSrc v x .rns
    tyLanes v x .rns (plain (fun k => rnsLaneOp (fun a b => fi a b 0) (laneOf 64 q.a k) (laneOf 64 q.b k)))
  else arithBody fi ff v x

/-- An exact operation on bits or values: no rounding, no flag (R166, R167). -/
def exactBody (f : Ty → Nat → Nat → Nat → Nat) (v : View) (x : Srcs) : Except Stop Res :=
  let t := v.o.ty
  let q := laneSrc v x t
  tyLanes v x t (plain (fun k => f t (laneOf t.bits q.a k) (laneOf t.bits q.b k) (laneOf t.bits q.c k)))

/-- Lane a is not above lane b: integers by their reading, floats with -0 below +0. -/
def laneLe (t : Ty) (a b : Nat) : Bool := leVal true (valueOf t a) (valueOf t b)

/-- A float lane is NaN. -/
def laneNan (t : Ty) (a : Nat) : Bool := !t.isInt && valueOf t a == .nan

/-- min of two lanes (R166, R167). -/
def laneMin (t : Ty) (a b : Nat) : Nat := if laneNan t a || laneNan t b then t.nan else if laneLe t a b then a else b

/-- max of two lanes (R166, R167). -/
def laneMax (t : Ty) (a b : Nat) : Nat := if laneNan t a || laneNan t b then t.nan else if laneLe t b a then a else b

/-- |a| of a lane (R166, R167). -/
def laneAbs (t : Ty) (a : Nat) : Nat :=
  if t.isInt then (if t.isSigned then wrapNat t.bits (signedOf t.bits a).natAbs else a)
  else if laneNan t a then t.nan else a % 2 ^ (t.bits - 1)

/-- -a of a lane (R166, R167). -/
def laneNeg (t : Ty) (a : Nat) : Nat :=
  if t.isInt then wrapNat t.bits (-(a : Int))
  else if laneNan t a then t.nan else if a < 2 ^ (t.bits - 1) then a + 2 ^ (t.bits - 1) else a - 2 ^ (t.bits - 1)

/-- A product and an addend, rounded once (R167). -/
def fmaVal (neg : Bool) (rdn : Bool) (a b c : Val) : Exact := dotVals [(a, b)] [if neg then c.neg else c] rdn

/-- The mean of two values (R167): half of their exact sum. -/
def avgVal (rdn : Bool) (a b : Val) : Exact :=
  let e := addVal a b rdn
  match e.val with
  | .fin q => ⟨.fin (q.scale (-1)), e.flags⟩
  | _ => e

/-- A product. -/
def mulExact (_ : Bool) (a b _c : Val) : Exact := mulVal a b

/-- An arithmetic operation that may be on rns lanes. -/
def runRing (r : Row) (fi : Int → Int → Int → Int) (ff : Bool → Val → Val → Val → Exact) (o : Op) (s : State) : State :=
  runVector r o s always (ringBody fi ff)

/-- An exact lane operation. -/
def runExact (r : Row) (f : Ty → Nat → Nat → Nat → Nat) (o : Op) (s : State) : State := runVector r o s always (exactBody f)

/-- `vadd` (R165 to R168). -/
def execVadd (o : Op) (s : State) : Host.Outcome State Fault Refusal :=
  nextState (runRing .vadd (fun a b _ => a + b) (fun rdn a b _ => addVal a b rdn) o s)
/-- `vsub` (R165 to R168): the addends are a and -b (R156). -/
def execVsub (o : Op) (s : State) : Host.Outcome State Fault Refusal :=
  nextState (runRing .vsub (fun a b _ => a - b) (fun rdn a b _ => addVal a b.neg rdn) o s)
/-- `vmul` (R165 to R168). -/
def execVmul (o : Op) (s : State) : Host.Outcome State Fault Refusal :=
  nextState (runRing .vmul (fun a b _ => a * b) mulExact o s)
/-- `vfma` (R165 to R167). -/
def execVfma (o : Op) (s : State) : Host.Outcome State Fault Refusal :=
  nextState (runVector .vfma o s always (arithBody (fun a b c => a * b + c) (fmaVal false)))
/-- `vfms` (R165 to R167). -/
def execVfms (o : Op) (s : State) : Host.Outcome State Fault Refusal :=
  nextState (runVector .vfms o s always (arithBody (fun a b c => a * b - c) (fmaVal true)))
/-- `vmin` (R166, R167). -/
def execVmin (o : Op) (s : State) : Host.Outcome State Fault Refusal :=
  nextState (runExact .vmin (fun t a b _ => laneMin t a b) o s)
/-- `vmax` (R166, R167). -/
def execVmax (o : Op) (s : State) : Host.Outcome State Fault Refusal :=
  nextState (runExact .vmax (fun t a b _ => laneMax t a b) o s)
/-- `vabs` (R166, R167). -/
def execVabs (o : Op) (s : State) : Host.Outcome State Fault Refusal :=
  nextState (runExact .vabs (fun t a _ _ => laneAbs t a) o s)
/-- `vneg` (R166, R167). -/
def execVneg (o : Op) (s : State) : Host.Outcome State Fault Refusal :=
  nextState (runExact .vneg (fun t a _ _ => laneNeg t a) o s)
/-- `vand` (R165, R166). -/
def execVand (o : Op) (s : State) : Host.Outcome State Fault Refusal :=
  nextState (runExact .vand (fun _ a b _ => a &&& b) o s)
/-- `vor` (R165, R166). -/
def execVor (o : Op) (s : State) : Host.Outcome State Fault Refusal :=
  nextState (runExact .vor (fun _ a b _ => a ||| b) o s)
/-- `vxor` (R165, R166). -/
def execVxor (o : Op) (s : State) : Host.Outcome State Fault Refusal :=
  nextState (runExact .vxor (fun _ a b _ => a ^^^ b) o s)
/-- `vmov` (R165, R166). -/
def execVmov (o : Op) (s : State) : Host.Outcome State Fault Refusal :=
  nextState (runExact .vmov (fun _ a _ _ => a) o s)
/-- `vclamp` (R166, R167): min(max(a, b), c). -/
def execVclamp (o : Op) (s : State) : Host.Outcome State Fault Refusal :=
  nextState (runExact .vclamp (fun t a b c => laneMin t (laneMax t a b) c) o s)
/-- `vmulh` (R166): the high half of the product. -/
def execVmulh (o : Op) (s : State) : Host.Outcome State Fault Refusal :=
  nextState (runVector .vmulh o s always (fun v x =>
    let t := v.o.ty
    let q := laneSrc v x t
    tyLanes v x t (plain (intLane t (fun a b _ => a * b / ((2 ^ t.bits : Nat) : Int)) q))))

/-- A saturating lane (R166): `of` when it saturates. -/
def satBody (f : Int → Int → Int) (v : View) (x : Srcs) : Except Stop Res :=
  let t := v.o.ty
  let q := laneSrc v x t
  let rd (n k : Nat) : Int := if t.isSigned then signedOf t.bits (laneOf t.bits n k) else ((laneOf t.bits n k : Nat) : Int)
  tyLanes v x t (fun k g =>
    let r := f (rd q.a k) (rd q.b k)
    ⟨wrapNat t.bits (satInt r t.range.1 t.range.2), satFlags t r, g, false⟩)

/-- `vsadd` (R166). -/
def execVsadd (o : Op) (s : State) : Host.Outcome State Fault Refusal :=
  nextState (runVector .vsadd o s always (satBody (fun a b => a + b)))
/-- `vssub` (R166). -/
def execVssub (o : Op) (s : State) : Host.Outcome State Fault Refusal :=
  nextState (runVector .vssub o s always (satBody (fun a b => a - b)))
/-- `vavg` (R166, R167). -/
def execVavg (o : Op) (s : State) : Host.Outcome State Fault Refusal :=
  nextState (runVector .vavg o s always (arithBody (fun a b _ => (a + b + 1) / 2) (fun rdn a b _ => avgVal rdn a b)))

/-! ### Shifts (R169) -/

/-- The count of a lane's shift: `mod`[5:0] with `ic`, else lane b, modulo the width. -/
def shiftCount (v : View) (t : Ty) (b : Nat) : Nat := (if v.o.modBit 9 then v.o.modBits 0 6 else b) % t.bits

/-- A shift of each lane by its count. -/
def shiftBody (f : Int → Nat → Int) (signed : Bool) (v : View) (x : Srcs) : Except Stop Res :=
  let t := v.o.ty
  let q := laneSrc v x t
  tyLanes v x t (plain (fun k =>
    let a := laneOf t.bits q.a k
    let n := shiftCount v t (laneOf t.bits q.b k)
    wrapNat t.bits (f (if signed then signedOf t.bits a else (a : Int)) n)))

/-- `vshl` (R169). -/
def execVshl (o : Op) (s : State) : Host.Outcome State Fault Refusal :=
  nextState (runVector .vshl o s always (shiftBody (fun a n => a * ((2 ^ n : Nat) : Int)) false))
/-- `vshr` (R169). -/
def execVshr (o : Op) (s : State) : Host.Outcome State Fault Refusal :=
  nextState (runVector .vshr o s always (shiftBody (fun a n => a / ((2 ^ n : Nat) : Int)) false))
/-- `vsar` (R169). -/
def execVsar (o : Op) (s : State) : Host.Outcome State Fault Refusal :=
  nextState (runVector .vsar o s always (shiftBody (fun a n => a / ((2 ^ n : Nat) : Int)) true))

/-! ### Compare and select (R170, R171) -/

/-- The condition of a `vcmp` lane: a NaN makes all false but `ne` and `un`. -/
def vcmpCond (t : Ty) (cond a b : Nat) : Bool :=
  let un := laneNan t a || laneNan t b
  let le := leVal false (valueOf t a) (valueOf t b)
  let ge := leVal false (valueOf t b) (valueOf t a)
  match cond with
  | 0 => !un && le && ge
  | 1 => un || !(le && ge)
  | 2 => !un && !ge
  | 3 => !un && le
  | 4 => !un && !le
  | 5 => !un && ge
  | _ => un

/-- `vcmp` (R170): all ones or zeros in a lane, or bit k of a P register. -/
def execVcmp (o : Op) (s : State) : Host.Outcome State Fault Refusal :=
  nextState (runVector .vcmp o s always (fun v x =>
    let t := v.o.ty
    let q := laneSrc v x t
    let cond := v.o.modBits 0 3
    let holds (k : Nat) : Bool := vcmpCond t cond (laneOf t.bits q.a k) (laneOf t.bits q.b k)
    match v.o.dst.reg with
    | .p _ => vecLanes v 1 t.lanes v.zm (fun k => bitOf x.sel k) (plain (fun k => if holds k then 1 else 0))
    | _ => tyLanes v x t (plain (fun k => if holds k then 2 ^ t.bits - 1 else 0))))

/-- `vsel` (R171). -/
def execVsel (o : Op) (s : State) : Host.Outcome State Fault Refusal :=
  nextState (runVector .vsel o s always (fun v x =>
    let t := v.o.ty
    let b := spread v.o.b t.bits t.lanes x.b
    tyLanes v x t (plain (fun k => if bitOf x.c (predBit t k) then laneOf t.bits x.a k else laneOf t.bits b k))))

/-! ### Dot products and reductions (R172, R173) -/

/-- `vdot` (R172): sixteen 4-byte results. -/
def execVdot (o : Op) (s : State) : Host.Outcome State Fault Refusal :=
  nextState (runVector .vdot o s always (fun v x =>
    let t := v.o.ty
    let m := 32 / t.bits
    let acc := v.o.modBit 0
    let c := spread v.o.c 32 16 x.c
    let live (k : Nat) : Bool := bitOf x.sel k
    if t.isInt then
      let rd (n k : Nat) : Int := if t.isSigned then signedOf t.bits (laneOf t.bits n k) else ((laneOf t.bits n k : Nat) : Int)
      vecLanes v 32 16 v.zm live (plain (fun k =>
        let dot := ((List.range m).map (fun j => rd x.a (m * k + j) * rd x.b (m * k + j))).foldl (· + ·) 0
        wrapNat 32 (dot + if acc then ((laneOf 32 c k : Nat) : Int) else 0)))
    else
      vecLanes v 32 16 v.zm live (fun k g =>
        let ps := (List.range m).map (fun j => (laneVal t x.a (m * k + j), laneVal t x.b (m * k + j)))
        roundLane v .f32 (dotVals ps (if acc then [laneVal .f32 c k] else []) v.rdn) g)))

/-- One level of the tree of R158: pairs of neighbours combined, with the flags, the generator and the first trap so far: the lowest pair
of the first level that has one.
(assumption 35, DEDUCED, unsafe) -/
def treeLevel (f : Nat → Nat → Word → LaneRes) : Nat → List Nat → LaneAcc → LaneAcc
  | i, a :: b :: rest, acc =>
    let r := f a b acc.rng
    treeLevel f (i + 1) rest
      { out := r.bits :: acc.out, flags := fOr acc.flags r.flags, rng := r.rng,
        trap := acc.trap.orElse (fun _ => if r.trap then some i else none) }
  | _, _, acc => acc

/-- The tree of R158 over the levels that halve the lanes. -/
def tree (f : Nat → Nat → Word → LaneRes) : Nat → LaneAcc → LaneAcc
  | 0, acc => acc
  | n + 1, acc => tree f n (let r := treeLevel f 0 acc.out { acc with out := [] }; { r with out := r.out.reverse })

/-- What a reduction writes (R173): lane 0 of a V register, or 64 bits elsewhere. -/
def reduceVal (d : Opnd) (t : Ty) (bits : Nat) : Nat :=
  match d.reg with
  | .v _ => bits
  | _ => if t.isSigned then wrapNat 64 (signedOf t.bits bits) else bits

/-- A reduction (R158, R173): masked lanes enter as the identity. -/
def reduceBody (ident : Ty → Nat) (f : View → Ty → Nat → Nat → Word → LaneRes) (v : View) (x : Srcs) : Except Stop Res :=
  let t := v.o.ty
  let ls := (List.range t.lanes).map (fun k => if bitOf x.sel k then laneOf t.bits x.a k else ident t)
  let r := tree (f v t) (Nat.log2 t.lanes) { out := ls, flags := 0, rng := v.c.blk.rng, trap := none }
  match r.trap with
  | some k => .error (.fault ⟨.overflow, 0, k⟩)
  | none => .ok { Res.ofVal (reduceVal v.o.dst t (r.out.getD 0 0)) with flags := r.flags, rng := some r.rng }

/-- One step of a sum: modulo 2^w, or rounded. -/
def sumStep (v : View) (t : Ty) (a b : Nat) (g : Word) : LaneRes :=
  if t.isInt then ⟨(a + b) % 2 ^ t.bits, 0, g, false⟩ else roundLane v t (addVal (valueOf t a) (valueOf t b) v.rdn) g

/-- `vsum` (R173); with `w`, the exact sum as i64 or n64. -/
def execVsum (o : Op) (s : State) : Host.Outcome State Fault Refusal :=
  nextState (runVector .vsum o s always (fun v x =>
    let t := v.o.ty
    if v.o.modBit 0 then
      let rd (k : Nat) : Int := if t.isSigned then signedOf t.bits (laneOf t.bits x.a k) else ((laneOf t.bits x.a k : Nat) : Int)
      let total := ((List.range t.lanes).map (fun k => if bitOf x.sel k then rd k else 0)).foldl (· + ·) 0
      .ok (Res.ofVal (wrapNat 64 total))
    else
      reduceBody (fun t => if t.isInt then 0 else 2 ^ (t.bits - 1)) sumStep v x))

/-- `vrmin` (R173): the identity is the largest value, or +∞. -/
def execVrmin (o : Op) (s : State) : Host.Outcome State Fault Refusal :=
  nextState (runVector .vrmin o s always
    (reduceBody (fun t => if t.isInt then wrapNat t.bits t.range.2 else patternOf t (.inf false))
      (fun _ t a b g => ⟨laneMin t a b, 0, g, false⟩)))

/-- `vrmax` (R173): the identity is the smallest value, or -∞. -/
def execVrmax (o : Op) (s : State) : Host.Outcome State Fault Refusal :=
  nextState (runVector .vrmax o s always
    (reduceBody (fun t => if t.isInt then wrapNat t.bits t.range.1 else patternOf t (.inf true))
      (fun _ t a b g => ⟨laneMax t a b, 0, g, false⟩)))

/-! ### Movers (R174) -/

/-- `vbcast` (R174): a lane of vector a, or the low bits of scalar a. -/
def execVbcast (o : Op) (s : State) : Host.Outcome State Fault Refusal :=
  nextState (runVector .vbcast o s always (fun v x =>
    let t := v.o.ty
    let val := if v.o.modBit 9 then laneOf t.bits x.a (v.o.modBits 0 7) else x.a % 2 ^ t.bits
    tyLanes v x t (plain (fun _ => val))))

/-- `vperm` (R174). -/
def execVperm (o : Op) (s : State) : Host.Outcome State Fault Refusal :=
  nextState (runVector .vperm o s always (fun v x =>
    let t := v.o.ty
    tyLanes v x t (plain (fun k =>
      let i := laneOf t.bits x.b k
      if i < t.lanes then laneOf t.bits x.a i else 0))))

/-- `vrot` (R174). -/
def execVrot (o : Op) (s : State) : Host.Outcome State Fault Refusal :=
  nextState (runVector .vrot o s always (fun v x =>
    let t := v.o.ty
    let j := if v.o.modBit 9 then v.o.modBits 0 7 else x.b % 2 ^ 64 % t.lanes
    tyLanes v x t (plain (fun k => laneOf t.bits x.a ((k + j) % t.lanes)))))

/-- `vcompress` (R174). -/
def execVcompress (o : Op) (s : State) : Host.Outcome State Fault Refusal :=
  nextState (runVector .vcompress o s always (fun v x =>
    let t := v.o.ty
    let taken := ((List.range t.lanes).filter (fun k => bitOf x.b k)).map (fun k => laneOf t.bits x.a k)
    .ok (Res.ofVal (packLanes t.bits taken))))

/-- `vexpand` (R174). -/
def execVexpand (o : Op) (s : State) : Host.Outcome State Fault Refusal :=
  nextState (runVector .vexpand o s always (fun v x =>
    let t := v.o.ty
    let below (k : Nat) : Nat := ((List.range k).filter (fun j => bitOf x.b j)).length
    .ok (Res.ofVal (packLanes t.bits ((List.range t.lanes).map (fun k =>
      if bitOf x.b k then laneOf t.bits x.a (below k) else 0))))))

end Sys2Proof.Machine
end

