-- ==== Sys2Proof/Machine/Engines.lean ====
section
/-!
DEFINITION. The channel engines and the bank ports: atomics, mailboxes, barriers, indexed reductions and microprograms (R296 to
R316).
-/
namespace Sys2Proof.Machine

/-! ### Homes (R279, R282, R296, R301, R302) -/

/-- The write last performed to a byte: what a read side at the home returns there (R302). -/
def lastWrite (s : State) (key : Nat) : Option Write := s.ms.done.reverse.find? (fun w => w.covers key)

/-- A party's read side at a home: what it returned of each byte joins its past (R286, R302). -/
def takeLast (s : State) (p : Party) (key len : Nat) : State :=
  (List.range len).foldl (fun t i => takeCand t p (key + i) 1 (lastWrite s (key + i))) s

/-- Where the target of a request stands: a byte of its bank unit's bank, or a key. -/
inductive Home where
  | bank (addr : Nat)
  | dev (key : Nat)
deriving DecidableEq, Repr

/-- The number of a home among all. -/
def Home.num (n : Nat) : Home → Nat
  | .bank a => 2 ^ 62 + n * 2 ^ 20 + a
  | .dev k => k

/-- The home of a number. -/
def homeOf (n k : Nat) : Home := if 2 ^ 62 ≤ k then .bank (k - 2 ^ 62 - n * 2 ^ 20) else .dev k

/-- The target of a memory operation, after the checks of R296 and R301; a failure has its code and address. (assumption 67, DEDUCED, unsafe)
(assumption 68, DEDUCED, unsafe) -/
def requestHome (s : State) (q : Req) (write : Bool) : Except (Code × Nat) (Home × State) :=
  if !q.onDevice then
    match badWordIn (s.bu q.org.bu) noneOwn q.a q.width with
    | some w => .error (.bankEcc, 8 * w)
    | none => .ok (.bank q.a, s)
  else
    let h := s.reqHandle q
    match s.hent q.org.job h with
    | .error c => .error (c, 0)
    | .ok e =>
      if e.size < q.a + q.width then .error (.handleRange, q.a)
      else
        let va := e.base + q.a
        match strmAccess s q.org.bu q.stream (s.hJob q.org.job h) va h write with
        | (.error c, _) => .error (c, va)
        | (.ok key, s1) =>
          if onHost key then .error (.atomKind, 0) else if s1.ms.bad key q.width then .error (.bankEcc, va) else .ok (.dev key, s1.reach key)

/-- The bytes at a home. -/
def homeBytes (s : State) (n : Nat) (h : Home) (len : Nat) : List Byte :=
  match h with
  | .bank a => (s.bu n).bank.readBytes a len
  | .dev k => lastBytes s k len

/-- A write side at a home: it performs at once, after every write already performed there (R302). -/
def performAfter (s : State) (q : Req) (id key : Nat) (bytes : List Byte) : State :=
  let before := (List.range bytes.length).flatMap (fun i =>
    (s.ms.done.filter (fun w => w.covers (key + i))).map (fun w => w.idAt (key + i)))
  performWrite s { id := id, key := key, bytes := bytes, party := q.party, past := joinNats q.past before, rel := q.rel }

/-- Bytes written at a home by a request: in a bank, with an undo entry while the request's round is open (R383). (assumption 75, DEDUCED, unsafe) -/
def homeWrite (s : State) (q : Req) (h : Home) (bytes : List Byte) : State :=
  match h with
  | .bank a =>
    match (s.regionOf q.org.bu).bind (fun r => r.absRound q.org.round) with
    | some rd => bankWrite s q.org.bu rd a bytes
    | none => bankPut s q.org.bu a bytes
  | .dev k => performAfter s q q.id k bytes

/-- A request has read its home: what its read side returned joins its past. -/
def homeSeen (s : State) (q : Req) (h : Home) : State :=
  match h with
  | .bank _ => s
  | .dev k => takeLast s q.party k q.width

/-- A request fails with a code and an address. -/
def failAt (s : State) (q : Req) (e : Code × Nat) : State :=
  let s1 := if e.1 = .bankEcc && !q.onDevice then s.modBu q.org.bu (fun b => { b with eccLine := some (e.2 / 64) }) else s
  s1.failReq q.id e.1 e.2 0

/-! ### Atomics (R303, R304) -/

/-- f(old, v) of R303 for an atomic operation of a type. -/
def atomOp (aop : Nat) (t : Ty) (rm : Rm) (ovf : Ovf) (old v : Nat) : Nat :=
  match aop with
  | 0 => v
  | 1 => if t.isInt then (old + v) % 2 ^ t.bits else (round (addVal (valueOf t old) (valueOf t v) (rm == .rdn)).val t rm none ovf).bits
  | 2 => old &&& v
  | 3 => old ||| v
  | 4 => old ^^^ v
  | 5 => if t.isSigned then (if signedOf t.bits old ≤ signedOf t.bits v then old else v) else if t.isInt then min old v else laneMin t old v
  | _ => if t.isSigned then (if signedOf t.bits v ≤ signedOf t.bits old then old else v) else if t.isInt then max old v else laneMax t old v

/-- What an atomic writes, when it writes (R303, R304). -/
def atomNew (q : Req) (old : Nat) : Option Nat :=
  match q.row with
  | .atom | .red => some (atomOp (bitsOf q.mod 3 4) q.ty q.rm q.ovf old (q.c % 2 ^ (8 * q.width)))
  | _ => if old = q.b % 2 ^ (8 * q.width) then some (q.c % 2 ^ (8 * q.width)) else none

/-- What it replies: old, extended as a load, a float zero-extended (R303, R304). -/
def atomReply (q : Req) (old : Nat) : Nat :=
  match q.row with
  | .cas2 => old
  | _ => if q.ty.isInt then extendLoad q.ty q.width old else old

/-- An atomic runs at its home in one step. -/
def serveAtomic (s : State) (q : Req) : State :=
  match requestHome s q true with
  | .error e => failAt s q e
  | .ok (h, s1) =>
    let old := natOfBytes (homeBytes s1 q.org.bu h q.width)
    let s2 := if q.row = .red then s1 else homeSeen s1 q h
    let s3 := match atomNew q old with
      | some v => homeWrite s2 q h (bytesOfNat q.width v)
      | none => s2
    if q.row = .red then s3.dropReq q.id else s3.reply q.id (atomReply q old)

/-- The rows that ATOMIC_EXECUTE serves. -/
def isAtomic (r : Row) : Bool := match r with | .atom | .cas | .cas2 | .red => true | _ => false

/-- ATOMIC_EXECUTE: an atomic runs at the bank port or at the engine that owns its line (R296, R302). -/
def execAtomicExecute (s : State) : Host.Outcome State Fault Refusal :=
  nextState (
    match s.req s.my.arg.n with
    | some q => if isAtomic q.row && s.mayServe q then serveAtomic s q else s
    | none => s)

/-! ### Barriers (R314 to R316) -/

/-- The fields of a barrier's line. -/
structure Bar where
  expected : Nat
  arrived : Nat
  phase : Nat
deriving DecidableEq, Repr

/-- A barrier of its bytes. (assumption 76, DEDUCED, unsafe) -/
def barOf (bs : List Byte) : Bar :=
  let n := natOfBytes bs
  { expected := bitsOf n 0 32, arrived := bitsOf n 32 32, phase := bitsOf n 64 16 }
/-- The 10 bytes of a barrier's fields. -/
def Bar.bytes (b : Bar) : List Byte := bytesOfNat 4 b.expected ++ bytesOfNat 4 b.arrived ++ bytesOfNat 2 b.phase

/-- Settle of R315. -/
def Bar.settle (b : Bar) : Bar :=
  if b.expected ≤ b.arrived then { b with arrived := 0, phase := (b.phase + 1) % 65536 } else b

/-- A `bar.wait` for a phase is answered (R315). -/
def barDue (phase c : Nat) : Bool := let d := (phase + 65536 - c % 65536) % 65536; 1 ≤ d && d ≤ 32767

/-- The waiting `bar.wait`s of a barrier that its phase answers are marked with that phase, above 2^64 in `c`, and take the releases of the
arrivals and drops of the phase they waited for (R305, R316). -/
def wakeBars (s : State) (num phase : Nat) : State :=
  s.modHub (fun h => { h with reqs := h.reqs.map (fun r =>
    if r.row == .barWait && r.stage == .waiting && r.b == num && r.c < 2 ^ 64 && barDue phase r.c then
      { r with c := 2 ^ 64 + phase, obs := (s.ms.bars.filter (fun x => x.key = num && x.phase = r.c % 65536)).map (·.rel) }
    else r) })

/-- Releases kept of a barrier: those of a phase dropped, and one more kept. -/
def noteBar (s : State) (num : Nat) (drop : Option Nat) (add : List BarRel) : State :=
  { s with ms := { s.ms with bars := s.ms.bars.filter (fun x => !(x.key = num && drop = some x.phase)) ++ add } }

/-- `bar.arrive` and `bar.drop` at the home (R315), but for the answers of `bar.wait`s. -/
def serveArrive (s : State) (q : Req) (h : Home) (drop : Bool) : State :=
  let n := q.org.bu
  let b := barOf (homeBytes s n h 10)
  if b.expected = 0 then failAt s q (.barState, 0)
  else
    let b1 := if drop then { b with expected := b.expected - 1 } else { b with arrived := (b.arrived + 1) % 2 ^ 32 }
    let b2 := b1.settle
    let num := h.num n
    let rel := q.release.toList.map (fun r => { key := num, phase := b.phase, rel := r : BarRel })
    let s1 := noteBar (homeWrite (homeSeen s q h) q h b2.bytes) num (if b2.phase = b.phase then none else some b2.phase) rel
    s1.reply q.id b.phase

/-- `bar.init` at the home: the phase is kept, and the rest of the line is zero (R314, R315). -/
def serveInit (s : State) (q : Req) (h : Home) : State :=
  let b := barOf (homeBytes s q.org.bu h 10)
  let s1 := homeWrite s q h (({ b with expected := q.c % 2 ^ 32, arrived := 0 } : Bar).bytes ++ List.replicate 54 0)
  (noteBar s1 (h.num q.org.bu) (some b.phase) []).dropReq q.id

/-- A barrier operation at its home, but for the answers of `bar.wait`s. -/
def serveBarrier (s : State) (q : Req) : State :=
  match requestHome s q (q.row != .barWait) with
  | .error e => failAt s q e
  | .ok (h, s1) =>
    match q.row with
    | .barInit => serveInit s1 q h
    | .barArrive => serveArrive s1 q h false
    | .barDrop => serveArrive s1 q h true
    | _ => s1.modReq q.id (fun r => { r with stage := .waiting, b := h.num q.org.bu })

/-- The rows that BARRIER_OP serves. -/
def isBarrier (r : Row) : Bool := match r with | .barInit | .barArrive | .barDrop | .barWait => true | _ => false

/-- The order in which the operations of one cycle on a barrier run: drops, arrivals, the arming of waits, then `bar.init`; each group by
die, y, x and slot (R302, R316). -/
def barRank (q : Req) : Nat :=
  (match q.row with | .barDrop => 0 | .barArrive => 1 | .barInit => 3 | _ => 2) * 2 ^ 32 + 8 * q.org.bu + q.org.slot

/-- A request put into a list in the order of `barRank`, after those of its rank. -/
def insertBar (q : Req) : List Req → List Req
  | [] => [q]
  | x :: rest => if barRank q < barRank x then q :: x :: rest else x :: insertBar q rest

/-- The numbers of the requests that reach a barrier in the cycle of a BARRIER_OP: `n`, and those that its bytes list, 8 bytes each. -/
def barGroup (a : Arg) : List Nat :=
  a.n :: ((List.range (a.bytes.length / 8)).map (fun i => natOfBytes ((a.bytes.drop (8 * i)).take 8))).filter (· != a.n)

/-- The home of a request, when its checks pass. -/
def State.barHome (s : State) (q : Req) : Option Nat :=
  match requestHome s q (q.row != .barWait) with
  | .ok (h, _) => some (h.num q.org.bu)
  | .error _ => none

/-- The barrier at a home stands where its operations have left it: `bar.wait`s that its phase answers are marked (R316). -/
def settleBar (s : State) (n num : Nat) : State := wakeBars s num (barOf (homeBytes s n (homeOf n num) 10)).phase

/-- BARRIER_OP: the barrier operations that reach one barrier in a cycle run one after the other at its home, and then its waits are
answered (R315, R316). A request that does not reach that barrier is none of them; one that fails is served alone. -/
def execBarrierOp (s : State) : Host.Outcome State Fault Refusal :=
  nextState (
    match s.req s.my.arg.n with
    | none => s
    | some q =>
      if !(isBarrier q.row && s.mayServe q) then s
      else match s.barHome q with
      | none => serveBarrier s q
      | some num =>
        let group := ((barGroup s.my.arg).filterMap s.req).filter (fun r => isBarrier r.row && s.mayServe r && s.barHome r == some num)
        settleBar ((group.foldr insertBar []).foldl serveBarrier s) q.org.bu num)

/-- BAR_WAIT_ANSWER: a `bar.wait` whose phase has come is answered with the barrier's phase (R315, R316). -/
def execBarWaitAnswer (s : State) : Host.Outcome State Fault Refusal :=
  let id := s.my.arg.n
  nextState (
    match s.req id with
    | some q =>
      if q.row != .barWait || q.stage != .waiting then s
      else
        let h := homeOf q.org.bu q.b
        let s1 := wakeBars s q.b (barOf (homeBytes s q.org.bu h 10)).phase
        (match s1.req id with
          | some r => if 2 ^ 64 ≤ r.c then (homeSeen s1 r h).reply id (r.c % 2 ^ 64) else s1
          | none => s1)
    | none => s)

/-! ### Accesses of an engine for a request -/

/-- The parts of an access of an engine, none of which may lie in a host page (R296). -/
def enginePlaces (s : State) (job va len : Nat) (write : Bool) : Except (Code × Nat) (List (Nat × Nat × Nat)) :=
  match s.places job va len write with
  | .error e => .error e
  | .ok ps => if ps.any (fun p => onHost p.1) then .error (.atomKind, 0) else .ok ps

/-- Bytes read by an engine. -/
def engineRead (s : State) (p : Party) (job va len : Nat) : Except (Code × Nat) (List Byte × State) :=
  match enginePlaces s job va len false with
  | .error e => .error e
  | .ok ps => if ps.any (fun c => s.ms.bad c.1 c.2.2) then .error (.bankEcc, va) else .ok (readPlaces s p ps)

/-- Bytes written by an engine: they perform at once. -/
def engineWrite (s : State) (p : Party) (job va : Nat) (bytes : List Byte) : Except (Code × Nat) State :=
  match enginePlaces s job va bytes.length true with
  | .error e => .error e
  | .ok ps => .ok (ps.foldl (fun s c => writeNow s p c.1 ((bytes.drop c.2.1).take c.2.2)) s)

/-- The engine that owns the first line of an access. -/
def engineOf (s : State) (job va : Nat) : Except (Code × Nat) Nat :=
  match enginePlaces s job va 1 false with
  | .error e => .error e
  | .ok ps => .ok (match ps with | p :: _ => s.owner p.1 | [] => 0)

/-- The engines' accesses for a message sent with `.rel` are ordered after the release (R290, R305). -/
def engineAcquire (s : State) (q : Req) : State :=
  match q.release with
  | some (p, scope, past) => (List.range Config.engines).foldl (fun s k => synchronise s (.engine k) 4 p scope past) s
  | none => s

/-- A step for each item of a list, until one fails. -/
def eachOk {α β : Type} (f : β → State → Except (Code × Nat) (α × State)) : List β → State → Except (Code × Nat) (List α × State)
  | [], s => .ok ([], s)
  | x :: rest, s => match f x s with
    | .error e => .error e
    | .ok (a, s1) => match eachOk f rest s1 with
      | .error e => .error e
      | .ok (as_, s2) => .ok (a :: as_, s2)

/-- Words of 4 bytes. -/
def words32 (bs : List Byte) : List Nat := (List.range (bs.length / 4)).map (fun i => natOfBytes ((bs.drop (4 * i)).take 4))

/-! ### Mailboxes (R306) -/

/-- The append of a `msg` (R306): its reply, or its failure. (assumption 74, DEDUCED, unsafe) (assumption 77, DEDUCED, unsafe) -/
def appendMail (s : State) (q : Req) : Except (Code × Nat) (Nat × State) :=
  match s.hentKind q.org.job q.a [1] with
  | .error c => .error (c, 0)
  | .ok e =>
    if e.size < 64 then .error (.ceArg, 0)
    else match enginePlaces s q.org.job e.base 20 true with
      | .error x => .error x
      | .ok ps =>
        let key := match ps with | p :: _ => p.1 | [] => 0
        if s.ms.bad key 24 then .error (.bankEcc, e.base)
        else
          let n := natOfBytes (lastBytes s key 20)
          let tail := bitsOf n 0 64
          let head := bitsOf n 64 64
          let slots := bitsOf n 128 32
          let s1 := takeLast s q.party key 20
          if slots = 0 || e.size < 64 * (slots + 1) then .error (.ceArg, 0)
          else if head + slots ≤ tail then .ok (2 ^ 64 - 1, s1)
          else
            let va := e.base + 64 * (1 + tail % slots)
            match enginePlaces s1 q.org.job va 64 true with
            | .error x => .error x
            | .ok es =>
              let bytes := bytesOfNat 64 q.b
              let (s2, ids) := es.foldl (fun (x : State × List Nat) c =>
                let (id, s') := x.1.freshFor c.2.2
                (performAfter s' q id c.1 ((bytes.drop c.2.1).take c.2.2), x.2 ++ idSpan id c.2.2)) (s1, [])
              .ok (tail, performAfter s2 { q with past := joinNats q.past ids } q.id key (bytesOfNat 8 ((tail + 1) % 2 ^ 64)))

/-- MAILBOX_APPEND: a `msg` is appended at the engine that owns the mailbox's first byte (R306). -/
def execMailboxAppend (s : State) : Host.Outcome State Fault Refusal :=
  nextState (
    match s.req s.my.arg.n with
    | some q =>
      if q.row == .msg && s.mayServe q then
        (match appendMail s q with
          | .error e => failAt s q e
          | .ok (d, s1) => s1.reply q.id d)
      else s
    | none => s)

/-! ### Indexed reduce (R307 to R309) -/

/-- A descriptor of R307. -/
structure RedDesc where
  table : Nat
  out : Nat
  idx : Nat
  offs : Nat
  bags : Nat
  elems : Nat
  tt : Nat
  rest : Nat
deriving DecidableEq, Repr

/-- The descriptor of 64 bytes. -/
def redDesc (n : Nat) : RedDesc :=
  { table := bitsOf n 0 32, out := bitsOf n 32 32, idx := bitsOf n 64 32, offs := bitsOf n 96 32, bags := bitsOf n 128 32,
    elems := bitsOf n 160 16, tt := bitsOf n 176 8, rest := bitsOf n 184 328 }

/-- A descriptor keeps R307. -/
def RedDesc.fits (d : RedDesc) : Bool :=
  1 ≤ d.bags && d.bags ≤ 2 ^ 24 && 1 ≤ d.elems && d.elems ≤ 4096 && 10 ≤ d.tt && d.tt ≤ 12 && d.rest = 0

/-- Rows added element by element: f32, RNE under SAT (R308). -/
def addRows (p r : List Nat) : List Nat :=
  List.zipWith (fun x y => (round (addVal (valueOf .f32 x) (valueOf .f32 y) false).val .f32 .rne none .sat).bits) p r

/-- A bag's row: the fold by engine, then over the engines in order (R308). -/
def foldBag (elems : Nat) (rows : List (Nat × List Nat)) : List Nat :=
  let parts := (List.range Config.engines).filterMap (fun c => match rows.filter (fun r => r.1 = c) with
    | [] => none
    | r :: rest => some (rest.foldl (fun p x => addRows p x.2) r.2))
  match parts with
  | [] => List.replicate elems 0
  | p :: rest => rest.foldl addRows p

/-- The entries of the four handles of a descriptor. -/
structure RedEnts where
  table : HEnt
  out : HEnt
  idx : HEnt
  offs : HEnt

/-- The entries of a descriptor's handles, each of kind 1. (assumption 78, DEDUCED, unsafe) -/
def redEnts (s : State) (job : Nat) (d : RedDesc) : Except (Code × Nat) RedEnts :=
  match s.hentKind job d.table [1], s.hentKind job d.out [1], s.hentKind job d.idx [1], s.hentKind job d.offs [1] with
  | .ok t, .ok o, .ok i, .ok f => .ok ⟨t, o, i, f⟩
  | .error c, _, _, _ | _, .error c, _, _ | _, _, .error c, _ | _, _, _, .error c => .error (c, 0)

/-- Row x of the table, read by the engine that owns its first line, each element converted exactly to f32 (R308). -/
def redRow (job : Nat) (d : RedDesc) (e : RedEnts) (x : Nat) (s : State) : Except (Code × Nat) ((Nat × List Nat) × State) :=
  let t := Ty.ofCode d.tt
  let va := e.table.base + x * d.elems * t.bytes
  match engineOf s job va with
  | .error c => .error c
  | .ok c => match engineRead s (.engine c) job va (d.elems * t.bytes) with
    | .error c => .error c
    | .ok (bs, s1) =>
      let n := natOfBytes bs
      .ok ((c, (List.range d.elems).map (fun i => (round (valueOf t (bitsOf n (i * t.bits) t.bits)) .f32 .rne none .sat).bits)), s1)

/-- The rows of `out`, and the state after the engines' reads (R308, R309). -/
def redRows (s : State) (job leader : Nat) (d : RedDesc) (e : RedEnts) : Except (Code × Nat) (List (List Nat) × State) :=
  match engineRead s (.engine leader) job e.offs.base (4 * (d.bags + 1)) with
  | .error c => .error c
  | .ok (ob, s1) =>
    let offs := words32 ob
    if (offs.zip (offs.drop 1)).any (fun p => p.2 < p.1) || offs.any (fun o => e.idx.size / 4 < o) then .error (.ceArg, 0)
    else match engineRead s1 (.engine leader) job e.idx.base (4 * offs.getLastD 0) with
      | .error c => .error c
      | .ok (ib, s2) =>
        let ids := words32 ib
        let rows := e.table.size / (d.elems * (Ty.ofCode d.tt).bytes)
        let bag (b : Nat) : List Nat := ((ids.take (offs.getD (b + 1) 0)).drop (offs.getD b 0)).filter (· != 0xFFFFFFFF)
        if (List.range d.bags).any (fun b => (bag b).any (fun x => rows ≤ x)) then .error (.devRange, 0)
        else eachOk (fun b s => match eachOk (redRow job d e) (bag b) s with
          | .error c => .error c
          | .ok (rs, s') => .ok (foldBag d.elems rs, s')) (List.range d.bags) s2

/-- The handles whose orders a `ce.red` stands in. -/
def redPlaces (job : Nat) (d : RedDesc) : List (Nat × Nat) := [d.idx, d.offs, d.out].map (hKey job)

/-- A reduce whose handles are ready: rows, shadow and publish, in one step; `idx` and `offs` are held as draining readers (R308).
(assumption 73, DESIGN CHOICE, unsafe) -/
def runRed (s : State) (q : Req) (d : RedDesc) (e : RedEnts) : State :=
  let job := q.org.job
  match engineOf s job e.out.base with
  | .error x => failAt s q x
  | .ok leader =>
    let s0 := startRole (engineAcquire s q) job d.idx 2 e.idx
    let s1 := match s0.hent job d.offs with | .ok f => startRole s0 job d.offs 2 f | .error _ => s0
    let release (s : State) : State := endRole (endRole s job d.idx 2 false false) job d.offs 2 false false
    match redRows s1 job leader d e with
    | .error x => failAt (release s1) q x
    | .ok (rows, s2) =>
      match engineWrite s2 (.engine leader) job e.out.shadow (rows.flatMap (fun r => r.flatMap (bytesOfNat 4))) with
      | .error x => failAt (release s2) q x
      | .ok s3 =>
        let s4 := release s3
        match s4.hent job d.out with
        | .error c => failAt s4 q (c, 0)
        | .ok o => (publish s4 job d.out o (some (.engine leader, 3, s4.ms.past (.engine leader)))).reply q.id d.out

/-- A `ce.red` at its leader: the checks of R309, then its run once `idx` and `offs` are FULL or DRAINING and `out` may publish. -/
def serveRed (s : State) (q : Req) : State :=
  let d := redDesc q.a
  let leave (s : State) : State := (redPlaces q.org.job d).foldl (fun s k => leavePlace s k q.id) s
  match redEnts s q.org.job d with
  | .error x => failAt (leave s) q x
  | .ok e =>
    if !d.fits || !e.out.shadowed || e.out.size < 4 * d.bags * d.elems || e.offs.size < 4 * (d.bags + 1) then failAt (leave s) q (.ceArg, 0)
    else
      let s1 := (redPlaces q.org.job d).foldl (fun s k => takePlace s k q.id) s
      if (redPlaces q.org.job d).all (fun k => atHead s1 k q.id) && 2 ≤ e.idx.state && 2 ≤ e.offs.state &&
          e.out.writers = 0 && e.out.readers = 0 && !e.out.pub then runRed (leave s1) q d e
      else s1

/-- CE_RED_RUN: an indexed reduce (R308). -/
def execCeRedRun (s : State) : Host.Outcome State Fault Refusal :=
  nextState (
    match s.req s.my.arg.n with
    | some q => if q.row == .ceRed && s.mayServe q then serveRed s q else s
    | none => s)

/-! ### Microprograms (R310 to R313) -/

/-- The micro-op of a word. -/
def uopOf (w : Nat) : Nat := bitsOf w 28 4
/-- Its handle or scalar. -/
def uopN (w : Nat) : Nat := bitsOf w 16 3

/-- The bits of a micro-op that its operation uses (R311). -/
def uopMask (u : Nat) : Nat :=
  match u with
  | 0 => 0xFE070000
  | 1 => 0xF1C70000
  | 2 | 3 => 0xFFF80000
  | 4 => 0xFFC70000
  | 5 => 0xFE000000
  | _ => 0xF0000000

/-- A program keeps R311. -/
def programFits (ws : List Nat) : Bool :=
  let us := ws.map uopOf
  ws.all (fun w => uopOf w < 8 && w &&& uopMask (uopOf w) == w) && us.count 6 = 1 && us.count 7 = 1 && us.getLast? = some 7 &&
    (us.takeWhile (· != 6)).all (fun u => 2 ≤ u)

/-- The preamble: the micro-ops before `loop`. -/
def preamble (ws : List Nat) : List Nat := ws.takeWhile (fun w => uopOf w != 6)
/-- The body: the micro-ops between `loop` and `end`. -/
def progBody (ws : List Nat) : List Nat := ((ws.dropWhile (fun w => uopOf w != 6)).drop 1).filter (fun w => uopOf w != 7)

/-- Handle n of the parameters. -/
def progH (params n : Nat) : Nat := bitsOf params (32 * n) 32
/-- Scalar n of the parameters. -/
def progF (params n : Nat) : Nat := bitsOf params (256 + 32 * n) 32

/-- The accumulators and flags of an engine's part. -/
structure Acc where
  xs : List (List Word)
  flags : Nat

/-- One accumulator set lane by lane from rounded sums, with their flags (R311). -/
def Acc.lanes (a : Acc) (d : Nat) (f : Nat → Exact) : Acc :=
  let rs := (List.range 256).map (fun k => let e := f k; let r := round e.val .f32 .rne none .sat; (r.bits, fOr e.flags r.flags))
  { xs := listMod d (fun _ => rs.map (fun r => BitVec.ofNat 64 r.1)) a.xs, flags := rs.foldl (fun x r => fOr x r.2) a.flags }

/-- Lane k of accumulator i. -/
def Acc.val (a : Acc) (i k : Nat) : Val := valueOf .f32 (((a.xs.getD i []).getD k 0).toNat % 2 ^ 32)

/-- A micro-op that touches accumulators alone (R311). -/
def Acc.step (a : Acc) (params w : Nat) : Acc :=
  let d := bitsOf w 25 3
  let i := bitsOf w 22 3
  let j := bitsOf w 19 3
  match uopOf w with
  | 2 => a.lanes d (fun k => dotVals [(a.val i k, a.val j k)] [a.val d k] false)
  | 3 => a.lanes d (fun k => addVal (a.val i k) (a.val j k) false)
  | 4 => a.lanes d (fun k => mulVal (a.val i k) (valueOf .f32 (progF params (uopN w))))
  | 5 => { a with xs := listMod d (fun _ => List.replicate 256 0) a.xs }
  | _ => a

/-- One micro-op of a row step on segment i (R311, R312). -/
def progStep (q : Req) (c i w : Nat) (a : Acc) (s : State) : Except (Code × Nat) (Acc × State) :=
  let job := q.org.job
  let seg (f : Nat → Except (Code × Nat) (Acc × State)) : Except (Code × Nat) (Acc × State) :=
    match s.hentKind job (progH q.b (uopN w)) [1] with
    | .error x => .error (x, 0)
    | .ok e => f (e.base + 1024 * i)
  match uopOf w with
  | 0 => seg (fun va => match engineRead s (.engine c) job va 1024 with
    | .error x => .error x
    | .ok (bs, s1) => .ok ({ a with xs := listMod (bitsOf w 25 3) (fun _ => (words32 bs).map (BitVec.ofNat 64)) a.xs }, s1))
  | 1 => seg (fun va =>
    match engineWrite s (.engine c) job va ((a.xs.getD (bitsOf w 22 3) []).flatMap (fun x => bytesOfNat 4 x.toNat)) with
    | .error x => .error x
    | .ok s1 => .ok (a, s1))
  | _ => .ok (a.step q.b w, s)

/-- The micro-ops of a row step, in order; a failure keeps the segments already written. -/
def progRow (q : Req) (c i : Nat) : List Nat → Acc → State → Option (Code × Nat) × Acc × State
  | [], a, s => (none, a, s)
  | w :: rest, a, s => match progStep q c i w a s with
    | .error x => (some x, a, s)
    | .ok (a1, s1) => progRow q c i rest a1 s1

/-- A run ends: the writers it holds end, and its request is answered or fails (R312, R313). -/
def endProg (s : State) (q : Req) (p : Prog) (fail : Option (Code × Nat)) : State :=
  let s1 := p.held.foldl (fun s h => endRole s q.org.job h 0 false false)
    (s.modHub (fun h => { h with progs := h.progs.filter (fun x => x.req != p.req) }))
  match fail with
  | some x => failAt s1 q x
  | none =>
    s1.reply q.id ((p.parts.map (·.steps)).sum % 2 ^ 32 + (p.parts.foldl (fun f x => fOr f x.flags) 0) % 2 ^ 6 * 2 ^ 32)

/-- The accumulators of an engine before its preamble: the manual gives them no value. (assumption 62, DESIGN CHOICE, safe) -/
def openAcc (s : State) : Acc × State :=
  ({ xs := (List.range 8).map (fun i => (List.range 256).map (fun k => Config.freeWord (s.my.freeCtr + 256 * i + k))), flags := 0 },
   { s with my := { s.my with freeCtr := s.my.freeCtr + 2048 } })

/-- An engine's part as it starts: the preamble has run (R312). -/
def startPart (q : Req) (ws : List Nat) (c : Nat) (todo : List Nat) (s : State) : ProgPart × State :=
  let (a0, s1) := openAcc s
  let a := (preamble ws).foldl (fun a w => a.step q.b w) a0
  ({ engine := c, todo := todo, xs := a.xs, steps := 0, flags := a.flags, window := none }, s1)

/-- The engines' parts, for the segments each owns, in order. -/
def startParts (q : Req) (ws : List Nat) (owners : List Nat) : List Nat → State → List ProgPart × State
  | [], s => ([], s)
  | c :: rest, s =>
    let todo := (withIndex 0 owners).filterMap (fun x => if x.2 = c then some x.1 else none)
    if todo.isEmpty then startParts q ws owners rest s
    else
      let (p, s1) := startPart q ws c todo s
      let (ps, s2) := startParts q ws owners rest s1
      (p :: ps, s2)

/-- What a `ce.prog` needs before any engine runs: its program, and the entries of the handles it names, each with its number (R310,
R312). -/
def progCheck (s : State) (q : Req) : Except (Code × Nat) (List Nat × List (Nat × HEnt) × State) :=
  let job := q.org.job
  match s.hentKind job q.a [1] with
  | .error c => .error (c, 0)
  | .ok pe =>
    let sized := pe.size % 4 = 0 && 4 ≤ pe.size && pe.size ≤ 128
    match engineOf s job pe.base with
    | .error x => .error x
    | .ok c => match engineRead s (.engine c) job pe.base (if sized then pe.size else 0) with
      | .error x => .error x
      | .ok (bs, s1) =>
        let ws := words32 bs
        let named := (0 :: (ws.filter (fun w => uopOf w < 2)).map uopN).eraseDups
        match eachOk (fun n s => match s.hentKind job (progH q.b n) [1] with
            | .error c => .error (c, 0)
            | .ok e => .ok ((n, e), s)) named s1 with
        | .error x => .error x
        | .ok (es, s2) =>
          let size0 := match es with | x :: _ => x.2.size | [] => 0
          if size0 % 1024 ≠ 0 || es.any (fun x => x.2.size < size0) then .error (.ceArg, 0)
          else if !sized || !programFits ws then .error (.ceProg, 0)
          else .ok (ws, es, s2)

/-- A `ce.prog` starts when its writers may (R261, R312). -/
def serveProg (s : State) (q : Req) : State :=
  let job := q.org.job
  match progCheck (engineAcquire s q) q with
  | .error x => failAt (s.modHub (fun h => { h with handleQs := h.handleQs.map (fun k => { k with queue := k.queue.filter (· != q.id) }) })) q x
  | .ok (ws, es, s1) =>
    let held := ((ws.filter (fun w => uopOf w = 1)).map (fun w => progH q.b (uopN w))).eraseDups
    let s2 := held.foldl (fun s h => takePlace s (hKey job h) q.id) s1
    let ready (h : Nat) : Bool := atHead s2 (hKey job h) q.id && (match s2.hent job h with | .ok e => roleReady 0 e | .error _ => false)
    if !held.all ready then s2
    else
      let base := match es with | x :: _ => x.2 | [] => { state := 0, kind := 0, shadowed := false, gen := 0, writers := 0, readers := 0,
                                                          pub := false, base := 0, size := 0, shadow := 0 }
      match eachOk (fun i s => match engineOf s job (base.base + 1024 * i) with | .error x => .error x | .ok c => .ok (c, s))
          (List.range (base.size / 1024)) s2 with
      | .error x => failAt (held.foldl (fun s h => leavePlace s (hKey job h) q.id) s2) q x
      | .ok (owners, s3) =>
        let s4 := held.foldl (fun s h => match s.hent job h with
          | .ok e => startRole (leavePlace s (hKey job h) q.id) job h 0 e
          | .error _ => s) s3
        let (parts, s5) := startParts q ws owners (List.range Config.engines) s4
        let p : Prog := { req := q.id, code := ws, held := held, parts := parts }
        if parts.isEmpty then endProg s5 q p none
        else (s5.modHub (fun h => { h with progs := h.progs ++ [p] })).modReq q.id (fun r => { r with stage := .waiting })

/-- CE_PROG_START: a microprogram is checked, takes its writers and starts on every engine that owns a segment (R312). -/
def execCeProgStart (s : State) : Host.Outcome State Fault Refusal :=
  nextState (
    match s.req s.my.arg.n with
    | some q => if q.row == .ceProg && s.mayServe q then serveProg s q else s
    | none => s)

/-- An ordinary request to an engine's channel waits (R313). -/
def channelBusy (s : State) (c : Nat) : Bool :=
  s.ms.pending.any (fun w => w.w.key < 2 ^ 60 && s.owner w.w.key = c) ||
    s.hub.reqs.any (fun r => s.mayServe r && (match s.reqPlace r with
      | some (.bytes key _) => key < 2 ^ 60 && s.owner key = c
      | _ => false))

/-- A run's part of an engine changed. -/
def Prog.modPart (p : Prog) (c : Nat) (f : ProgPart → ProgPart) : Prog :=
  { p with parts := p.parts.map (fun x => if x.engine = c then f x else x) }

/-- CE_PROG_ROW_STEP: one body pass of an engine over its next segment. A failure stops every engine; the last segment's step ends the
run (R312, R313). -/
def execCeProgRowStep (s : State) : Host.Outcome State Fault Refusal :=
  let c := s.my.arg.m
  nextState (
    match s.hub.progs.find? (fun p => p.req == s.my.arg.n), s.req s.my.arg.n with
    | some p, some q => match p.parts.find? (fun x => x.engine == c) with
      | some x => match x.todo with
        | i :: rest =>
          if x.window.isSome then s
          else
            let (fail, a, s1) := progRow q c i (progBody p.code) { xs := x.xs, flags := x.flags } s
            let p1 := p.modPart c (fun x => { x with todo := rest, xs := a.xs, flags := a.flags, steps := x.steps + 1,
                                                     window := if channelBusy s1 c then some s1.out.tick else none })
            if fail.isSome || p1.parts.all (fun x => x.todo.isEmpty) then endProg s1 q p1 fail
            else s1.modHub (fun h => { h with progs := h.progs.map (fun y => if y.req == p.req then p1 else y) })
        | [] => s
      | none => s
    | _, _ => s)

/-- `ce.win` cycles of the main clock have passed since a tick of the module clock, which counts nanoseconds (R12, R313; assumption 153,
DEDUCED, unsafe). -/
def State.windowOver (s : State) (since : Nat) : Bool :=
  1000 * s.hub.ceWin ≤ s.out.clockMHz * ((s.out.tick + 2 ^ 64 - since) % 2 ^ 64)

/-- CE_WINDOW_EXPIRY: once `ce.win` cycles have passed at an engine, its program resumes at the next step (R313). -/
def execCeWindowExpiry (s : State) : Host.Outcome State Fault Refusal :=
  nextState (s.modHub (fun h => { h with progs := h.progs.map (fun p =>
    if p.req == s.my.arg.n then
      p.modPart s.my.arg.m (fun x => { x with window := x.window.filter (fun t => !s.windowOver t) })
    else p) }))

end Sys2Proof.Machine
end

