-- ==== Sys2Proof/Machine/Arm.lean ====
section
/-!
DEFINITION. Arming an image: the seven phases and the report (R16 to R24, R26 to R37, R43, R47 to R49, R54, R59, R60, R63, R75, R76,
R85, R108, R109, R111, R115 to R121, R130, R184 to R187, R206, R210 to R216, R223, R267, R268, R273, R274, R297, R300).
-/
namespace Sys2Proof.Machine

/-! ### Reading an image -/

/-- The words of an image as read: slot s of frame f is word 4f + s (R16). -/
abbrev ArmWords := Array Nat

/-- Slot k of frame f. -/
def slotAt (w : ArmWords) (f k : Nat) : Nat := w.getD (4 * f + k) 0

/-- One byte of the CRC of R18. -/
def crcByte (c b : Nat) : Nat :=
  (List.range 8).foldl (fun c _ => if c % 2 = 1 then (c / 2) ^^^ 0xC96C5795D7870F42 else c / 2) (c ^^^ b)

/-- CRC-64 with the ECMA-182 polynomial, reflected, initial value and final XOR all ones (R18). -/
def crc64 (bytes : List Byte) : Nat := (bytes.foldl (fun c b => crcByte c b.toNat) (2 ^ 64 - 1)) ^^^ (2 ^ 64 - 1)

/-- A failed arm: its status, detail, rule letter, place and edge (R48). -/
structure ArmFail where
  status : Nat
  detail : Nat
  rule : Nat
  frame : Nat
  slot : Nat
  edge : Nat
deriving DecidableEq, Repr

/-- The report of an arm (R48): of a failure, or of an image's identifier. -/
def armReport (r : Except ArmFail Nat) : List Byte :=
  match r with
  | .ok id => bytesOfNat 8 ((id % 256) * 2 ^ 24) ++ bytesOfNat 8 ((id / 256 % 16) * 2 ^ 32)
  | .error e =>
    bytesOfNat 8 (e.status + e.detail * 2 ^ 8 + e.rule * 2 ^ 16 + e.frame * 2 ^ 32) ++ bytesOfNat 8 (e.slot + e.edge * 2 ^ 16)

/-- A breach found in a phase: frame, slot, status and detail. -/
structure ArmErr where
  frame : Nat
  slot : Nat
  status : Nat
  detail : Nat
deriving DecidableEq, Repr

/-- How early a breach of a slot is found: a directory entry's own fields before what its operations show (R23), so ARM_OP comes
last; of two other statuses the lower comes first (assumption 9, DESIGN CHOICE, unsafe). -/
def ArmErr.rank (e : ArmErr) : Nat := if e.status = 2 then 256 else e.status

/-- The order in which a phase reports (R47): by frame, then slot; several breaches of one slot by `rank`, then detail
(assumption 9, DESIGN CHOICE, unsafe). -/
def ArmErr.before (a b : ArmErr) : Bool :=
  a.frame < b.frame || (a.frame == b.frame && (a.slot < b.slot || (a.slot == b.slot &&
    (a.rank < b.rank || (a.rank == b.rank && a.detail < b.detail)))))

/-- The breach that a phase reports. -/
def firstErr (es : List ArmErr) : Option ArmErr :=
  es.foldl (fun b e => match b with | some x => some (if e.before x then e else x) | none => some e) none

/-- The failure of a breach. -/
def ArmErr.fail (e : ArmErr) : ArmFail := { status := e.status, detail := e.detail, rule := 0, frame := e.frame, slot := e.slot, edge := 0 }

/-- A phase passes when it finds no breach. -/
def passPhase (es : List ArmErr) : Except ArmFail Unit :=
  match firstErr es with
  | some e => .error e.fail
  | none => .ok ()

/-- ARM_LOAD. -/
def armLoad : Nat := 1

/-- Phase 1 on the first two slots (R18, R47): the image's frames, when `magic`, `version` and `frames` are allowed. -/
def armFrames (s0 s1 : Nat) : Except ArmFail Nat :=
  let n := bitsOf s1 32 32
  if bitsOf s0 32 32 ≠ 0x4B34494D || bitsOf s0 16 16 ≠ 1 then .error (ArmErr.fail ⟨0, 0, armLoad, 0⟩)
  else if n < 2 || 1048576 < n then .error (ArmErr.fail ⟨0, 1, armLoad, 0⟩)
  else .ok n

/-- The store's extents that an image takes (R38). -/
def extentsOf (frames : Nat) : Nat := (frames + 255) / 256

/-- Phase 2 (R18): the rest of the header and the `crc`, the lowest slot first. -/
def armHeader (w : ArmWords) (n : Nat) : Except ArmFail Unit :=
  let d := bitsOf (slotAt w 0 0) 0 16
  let s1 := slotAt w 0 1
  let width := bitsOf s1 25 5
  let height := bitsOf s1 20 5
  passPhase (
    (if d = 0 then [⟨0, 0, armLoad, 0⟩] else []) ++
    (if width = 0 || 24 < width || height = 0 || 16 < height || bitsOf s1 0 20 ≠ 0 then [⟨0, 1, armLoad, 0⟩] else []) ++
    (if crc64 (((w.toList.take (4 * n)).drop 4).flatMap (bytesOfNat 8)) ≠ slotAt w 0 2 then [⟨0, 2, 9, 0⟩] else []) ++
    (if slotAt w 0 3 ≠ 0 then [⟨0, 3, armLoad, 0⟩] else []))

/-! ### The directory (R17, R20 to R24) -/

/-- A directory entry (R20) with its own frame and slot, and the first of its payload frames. -/
structure DirEnt where
  frame : Nat
  k : Nat
  layout : Nat
  die : Nat
  x : Nat
  y : Nat
  slot : Nat
  id : Nat
  count : Nat
  exits : Nat
  nonrep : Bool
  handler : Bool
  low : Nat
  first : Nat
deriving DecidableEq, Repr

/-- The payload frames of an entry (R23, R24). -/
def DirEnt.payload (e : DirEnt) : Nat := if e.layout = 1 then (e.count + 3) / 4 else e.count

/-- The entry's bank unit. -/
def DirEnt.pos (e : DirEnt) : Nat × Nat × Nat := (e.die, e.x, e.y)

/-- The context slot that a C entry names: 4 for H. -/
def DirEnt.cslot (e : DirEnt) : Nat := if e.handler then 4 else e.slot

/-- A breach at an entry. -/
def DirEnt.err (e : DirEnt) (status detail : Nat) : ArmErr := ⟨e.frame, e.k, status, detail⟩

/-- The entry of a word. -/
def dirEntry (w frame k first : Nat) : DirEnt :=
  { frame := frame, k := k, layout := bitsOf w 60 4, die := bitsOf w 58 2, x := bitsOf w 51 7, y := bitsOf w 45 6,
    slot := bitsOf w 43 2, id := bitsOf w 27 16, count := bitsOf w 20 7 + 1, exits := bitsOf w 16 4, nonrep := bitOf w 15,
    handler := bitOf w 14, low := bitsOf w 0 14, first := first }

/-- The non-empty entries from entry j on, the frame after the last one's payload, and the breach of a layout above 4, past
which no payload can be counted. -/
def parseDir (w : ArmWords) : List Nat → Nat → List DirEnt × Nat × List ArmErr
  | [], first => ([], first, [])
  | j :: js, first =>
    let e := dirEntry (slotAt w (1 + j / 4) (j % 4)) (1 + j / 4) (j % 4) first
    if e.layout = 0 then parseDir w js first
    else if 4 < e.layout then ([], first, [e.err armLoad 0])
    else
      let (es, last, errs) := parseDir w js (first + e.payload)
      (e :: es, last, errs)

/-- Empty entries are all zero, and stand after the last non-empty entry, in the last D-frame (R22). A last D-frame that holds no
non-empty entry at all is allowed (assumption 132, DEDUCED, unsafe). -/
def emptyErrs (w : ArmWords) (d : Nat) : List ArmErr :=
  let js := List.range (4 * d)
  let word (j : Nat) := slotAt w (1 + j / 4) (j % 4)
  let last := js.foldl (fun l j => if bitsOf (word j) 60 4 ≠ 0 then j + 1 else l) 0
  js.filterMap (fun j =>
    if bitsOf (word j) 60 4 = 0 && (word j ≠ 0 || j < last || j / 4 + 1 ≠ d) then some ⟨1 + j / 4, j % 4, armLoad, 0⟩ else none)

/-- The frame indices of a layout (R24). -/
def indexLimit (layout : Nat) : Nat := if layout = 3 then 64 else 16

/-- Two entries load a frame index, or name a block, in common. -/
def DirEnt.clash (a b : DirEnt) : Bool :=
  a.layout == b.layout && a.pos == b.pos &&
    (if a.layout = 1 then a.cslot == b.cslot && a.id == b.id
     else (a.layout ≠ 4 || a.slot == b.slot) && a.id < b.id + b.count && b.id < a.id + a.count)

/-- The breaches of an entry's own fields, with the entries before it (R21, R23, R24). -/
def dirErrs (w : ArmWords) (dies width height : Nat) (before : List DirEnt) (e : DirEnt) : List ArmErr :=
  let outside := dies ≤ e.die || 4 * width ≤ e.x || 4 * height ≤ e.y
  let spare := (List.range (4 * e.payload)).drop e.count
  let fields :=
    if e.layout = 1 then
      e.low ≠ 0 || (e.handler && e.slot ≠ 0) || e.exits = 0 || spare.any (fun k => slotAt w (e.first + k / 4) (k % 4) ≠ 0)
    else
      e.low ≠ 0 || e.exits ≠ 0 || e.nonrep || e.handler || (e.layout ≠ 4 && e.slot ≠ 0) || indexLimit e.layout < e.id + e.count
  (if outside then [e.err 3 0] else []) ++ (if fields || before.any e.clash then [e.err armLoad 0] else [])

/-- The breaches of each entry of a list. -/
def dirErrsAll (w : ArmWords) (dies width height : Nat) : List DirEnt → List DirEnt → List ArmErr
  | _, [] => []
  | before, e :: es => dirErrs w dies width height before e ++ dirErrsAll w dies width height (e :: before) es

/-- The words of an entry's payload, the unused slots of a block apart. -/
def DirEnt.words (w : ArmWords) (e : DirEnt) : List Word :=
  (List.range (if e.layout = 1 then e.count else 4 * e.count)).map (fun k => BitVec.ofNat 64 (slotAt w (e.first + k / 4) (k % 4)))

/-- The image of an arm's entries (R38 to R41). -/
def imageOfDir (w : ArmWords) (job n dies width height : Nat) (es : List DirEnt) : Image :=
  { job := job, dies := dies, width := width, height := height, words := (w.toList.take (4 * n)).map (BitVec.ofNat 64),
    blocks := es.filterMap (fun e =>
      if e.layout = 1 then
        some { die := e.die, x := e.x, y := e.y, slot := e.slot, handler := e.handler, id := e.id, nonrep := e.nonrep, words := e.words w }
      else none),
    frames := es.filterMap (fun e =>
      if e.layout = 1 then none
      else some { layout := e.layout, die := e.die, x := e.x, y := e.y, slot := e.slot, first := e.id, words := e.words w }) }

/-- The bank units that the entries name, each once, in directory order. -/
def dirBus (es : List DirEnt) : List (Nat × Nat × Nat) :=
  es.foldl (fun l e => if l.contains e.pos then l else l ++ [e.pos]) []

/-- The payload frame that loads a frame index. -/
def frameNo (es : List DirEnt) (layout : Nat) (pos : Nat × Nat × Nat) (slot i : Nat) : Option Nat :=
  (es.find? (fun e => e.layout == layout && e.pos == pos && (layout ≠ 4 || e.slot == slot) && e.id ≤ i && i < e.id + e.count)).map
    (fun e => e.first + (i - e.id))

/-! ### Stream programs (R267, R268, R273) -/

/-- The ends and directions that a mode takes (R267). -/
def streamEnds (mode : Nat) : List (Nat × Nat) :=
  match mode with
  | 1 => [(0, 0), (0, 1), (2, 0), (2, 1), (1, 0)]
  | 2 => [(0, 0), (0, 1), (2, 0), (2, 1)]
  | 3 | 6 | 7 | 8 => [(0, 0)]
  | 4 | 5 => [(1, 0)]
  | _ => []

/-- The words from 1 to 6 that a mode requires to be zero (R267). -/
def streamZeros (mode : Nat) : List Nat :=
  match mode with
  | 1 => [1, 5, 6]
  | 2 => [3, 5, 6]
  | 4 => [6]
  | 5 => [1, 4, 5, 6]
  | 6 | 7 => [5, 6]
  | 8 => [1, 5, 6]
  | _ => []

/-- The words of a stream program, given by its 16 words, that break R268. -/
def streamBad (ws : Nat → Nat) : List Nat :=
  let w0 := ws 0
  let mode := bitsOf w0 0 4
  let dir := bitsOf w0 4 1
  let fend := bitsOf w0 5 2
  if mode = 0 then (List.range 16).filter (fun i => ws i ≠ 0)
  else if 8 < mode then [0]
  else
    (if bitsOf w0 24 8 ≠ 0 || bitOf w0 14 || bitOf w0 11 || !(streamEnds mode).contains (fend, dir) ||
        (fend = 1 && 3 < bitsOf w0 7 4) || (bitOf w0 23 && mode ≠ 6) || (dir = 1 && (bitOf w0 22 || bitOf w0 19)) ||
        (dir = 0 && (bitOf w0 18 || bitOf w0 20)) then [0] else []) ++
    (streamZeros mode ++ [7, 8, 9, 10, 11, 12, 13, 14]).filter (fun i => ws i ≠ 0) ++
    (if fend = 2 && ws 4 % 64 ≠ 0 then [4] else []) ++
    (if mode = 3 && ws 6 ≠ 4 && ws 6 ≠ 5 && ws 6 ≠ 12 then [6] else []) ++
    (if mode = 6 && 6 < ws 4 then [4] else [])

/-- Word i of stream st (0 to 15) of a bank unit of an image. -/
def Image.strmWord (im : Image) (p : Nat × Nat × Nat) (st i : Nat) : Nat :=
  im.frameWord 4 p.1 p.2.1 p.2.2 (st / 4) (4 * (st % 4) + i / 4) (i % 4)

/-- The breaches of a bank unit's stream programs: R268, and two streams that own one slot (R273), at the later one's slot
mask. -/
def streamErrs (im : Image) (es : List DirEnt) (p : Nat × Nat × Nat) : List ArmErr :=
  let place (st i : Nat) : ArmErr :=
    match frameNo es 4 p (st / 4) (4 * (st % 4) + i / 4) with
    | some f => ⟨f, i % 4, armLoad, 0⟩
    | none => ⟨(frameNo es 4 p (st / 4) (4 * (st % 4))).getD 0, 0, armLoad, 0⟩
  (List.range 16).flatMap (fun st =>
    (streamBad (im.strmWord p st)).map (place st) ++
      (if (List.range st).any (fun u => im.strmWord p st 15 &&& im.strmWord p u 15 ≠ 0) then [place st 15] else []))

/-! ### Operations in their blocks -/

/-- Where a block stands, with the bank unit's route entries and the ids of the blocks of its slot. -/
structure ArmCtx where
  im : Image
  pos : Nat × Nat × Nat
  slot : Nat
  rs : List (Nat × Route)
  ids : List Nat
deriving DecidableEq, Repr

/-- A handler block. -/
def ArmCtx.h (c : ArmCtx) : Bool := c.slot == 4
/-- M slot of the block's bank unit. -/
def ArmCtx.m (c : ArmCtx) (i k : Nat) : Nat := c.im.frameWord 2 c.pos.1 c.pos.2.1 c.pos.2.2 0 i k
/-- `mx.cfg`. -/
def ArmCtx.mx (c : ArmCtx) : Nat := c.m 15 3
/-- Entries of ring k of a context. -/
def ArmCtx.ringSize (c : ArmCtx) (slot k : Nat) : Nat := descSize (c.m (2 + slot) k)
/-- The ring is declared. -/
def ArmCtx.hasRing (c : ArmCtx) (slot k : Nat) : Bool := c.m (2 + slot) k ≠ 0
/-- Stream n of the block's context has a mode; slot H has no streams. -/
def ArmCtx.hasStrm (c : ArmCtx) (n : Nat) : Bool := !c.h && bitsOf (c.im.strmWord c.pos (4 * c.slot + n) 0) 0 4 ≠ 0

/-- The form of the channel at a queue: QI k, or QO k - 16 (R30). -/
def ArmCtx.form (c : ArmCtx) (q : Nat) : Option Nat :=
  if q < 16 then (qiOf c.rs c.slot q).map (·.form) else (qoOf c.rs c.slot (q - 16)).head?.map (·.form)

/-- A queue source is declared, and of the form that its operand's kind takes (R30, R60, R162, R214). -/
def ArmCtx.srcOk (c : ArmCtx) (token : Bool) (k : SrcKind) (o : Opnd) : Bool :=
  match o.reg with
  | .qi i =>
    match c.form i.val with
    | none => false
    | some f => match k with
      | .vec | .vb => f == 1
      | _ => if token then f == 0 else f != 1
  | _ => true

/-- A queue destination is declared and of the form that its kind takes. -/
def ArmCtx.dstOk (c : ArmCtx) (k : DstKind) (o : Opnd) : Bool :=
  match o.reg with
  | .qo i =>
    match c.form (16 + i.val) with
    | none => false
    | some f => match k with
      | .lane | .laneOrPred | .isect => f == 1
      | .fwd => f == 0
      | .queue => true
      | _ => f != 1
  | _ => true

/-- The sources of an operation that are present, with their kinds and the `rep` bit that steps each. -/
def presentSrcs (r : Row) (o : Op) : List (SrcKind × Opnd × Nat) :=
  let one (k : SrcKind) (x : Opnd) (bit : Nat) := match k.resolve o x with | .none => [] | k' => [(k', x, bit)]
  one r.spec.a o.a 2 ++ (match o.tail with | .imm _ => [] | .reg b c .. => one r.spec.b b 1 ++ one r.spec.c c 0)

/-- A matrix row. -/
def isMx (r : Row) : Bool := 0x90 ≤ r.spec.opcode && r.spec.opcode ≤ 0x96

/-- The breaches of a delivered or forwarded field-form matrix operation beside its own fields (R213 to R215): v is the
immediate's value. -/
def mxErrs (c : ArmCtx) (r : Row) (o : Op) (v : Nat) : List Nat :=
  let fwd := o.dst != Opnd.zero
  let z := bitsOf v 23 3
  let rns := bitOf c.mx (24 + z)
  let own := bitsOf c.mx (2 * z) 2
  let bank := o.a != Opnd.zero
  let op := r.spec.opcode - 0x90
  let rings : List Nat := if op ≤ 1 then [bitsOf v 21 2, bitsOf v 19 2] else if 3 ≤ op && op ≤ 5 && !bank then [bitsOf v 21 2] else []
  (if bitsOf v 26 2 ≠ 0 || bitsOf v 48 12 ≠ 0 || (bitOf v 44 && fwd) ||
      (bank && bitsOf v 21 2 ≠ 0) then [2] else []) ++
  (if fwd then []
   else
    (if (op = 3 || op = 4) && bitOf v 2 && !rns then [2] else []) ++
    (if !bitOf c.mx (16 + z) || (!c.h && own ≠ c.slot) || (op = 0 && rns) || ((op = 1 || op = 5 || op = 6) && !rns) ||
        rings.any (fun k => !c.hasRing own k) then [3] else []))

/-- The immediate of a row with fields of its own (R73, R91, R110, R129, R247) has no bit beyond them, not in its `imm` prefix
either: the prefix's bits are bits [59:28] of the value (assumption 135, DEDUCED, unsafe). Matrix operations have rules of their own
(R214). -/
def wideImm (r : Row) (v : Nat) : Bool := r.spec.immMask ≠ 0xFFFFFFF && !isMx r && bitsOf v 28 32 ≠ 0

/-- A detail when a condition fails. -/
def needD (ok : Bool) (d : Nat) : List Nat := if ok then [] else [d]

/-- A window or a stream that a memory operation of the channel engines targets is declared (R300). -/
def ceTargetOk (c : ArmCtx) (o : Op) : Bool :=
  if o.modBit 9 then c.hasStrm (o.modBits 7 2) else c.m 0 (o.modBits 7 2) ≠ 0

/-- A receive entry says that a route is controlled (R120). Whoever receives the route then meets the arm's test of `rate.set`, an
extra consumer of the channel too (assumption 133, DESIGN CHOICE, unsafe). -/
def armControlled (im : Image) (route : Nat) : Bool :=
  im.routeOffsets.any (fun o => (im.routesAt o.1 o.2.1 o.2.2).any (fun e => match e.2 with
    | .recv r _ _ _ _ _ rate => rate && r = route
    | _ => false))

/-- The details of the breaches of a row's own rules in its context. `v` is the value of its immediate. -/
def rowErrs (c : ArmCtx) (r : Row) (o : Op) (v : Nat) : List Nat :=
  let i := (o.imm28.getD 0).toNat
  let q := bitsOf i 0 5
  match r with
  | .qlast => needD (match o.dst.reg, o.a.reg with
      | .qo k, .v _ => c.form (16 + k.val) = some 1
      | .qo k, _ => (c.form (16 + k.val)).getD 0 ≠ 1
      | _, _ => true) 3
  | .qpeek =>
    needD (match c.form q, o.dst.reg with
      | none, _ => false
      | some f, .v _ => f == 1 && !bitOf i 9
      | some _, _ => true) 3
  | .qcnt | .qdrop | .qwaitr | .qfmt => needD (c.form q).isSome 3
  | .rateSet => needD (match qiOf c.rs c.slot q with | some e => armControlled c.im e.route | none => false) 3
  | .rateRd =>
    needD (if q < 16 then (c.form q).isSome
      else match qoOf c.rs c.slot (q - 16) with | e :: _ => armControlled c.im e.route | [] => false) 3
  | .ldm | .stm | .prf => needD (c.hasStrm (o.modBits 8 2)) 3
  | .atom | .cas | .cas2 | .red | .barInit | .barArrive | .barDrop | .barWait => needD (ceTargetOk c o) 3
  | .rgPush | .rgInfo | .rgReset =>
    needD (c.h || o.modBits 3 2 = 0) 2 ++ needD (c.hasRing (if c.h then o.modBits 3 2 else c.slot) (o.modBits 0 2)) 3
  | .mxMma | .mxImma | .mxZero | .mxDrain | .mxFill | .mxRev | .mxChk => mxErrs c r o v
  | .mxWait => needD (c.h || (List.range 8).all (fun z =>
      !bitOf (o.modBits 0 8) z || (bitOf c.mx (16 + z) && bitsOf c.mx (2 * z) 2 = c.slot))) 3
  | .mxTag => needD (c.h || (bitOf c.mx (16 + o.modBits 0 3) && bitsOf c.mx (2 * o.modBits 0 3) 2 = c.slot)) 3
  | .exit | .call => needD (c.ids.contains (i % 2 ^ 16)) 8
  | .sprRd | .sprWr => needD (c.h || !sprHandlerOnly i) 7
  | .eretResume | .eretPoison | .eretEsc | .rnsInj => needD c.h 7
  | _ => []

/-- A word of a block: its row, when its opcode has one, its fields, and the breach of the word alone. -/
structure ArmOpWord where
  row : Option Row
  op : Op
  word : Nat
  bad : Option ArmOp
deriving DecidableEq, Repr

/-- A word read for its checks (R26, R36). -/
def armOpWord (w : Word) : ArmOpWord :=
  let o := decodeFields w.toNat
  { row := (decodeRow (bitsOf w.toNat 56 8) o.imm28.isSome o.mod.toNat).toOption, op := o, word := w.toNat,
    bad := match decodeWord w with | .ok _ => none | .error e => some e }

/-- An operation in the I-form (R32, R33): its row has that form, and its `srcb` is the immediate marker. -/
def ArmOpWord.isIForm (w : ArmOpWord) : Bool :=
  match w.row with
  | some r => (r.spec.form == .imm || r.spec.form == .either) && bitsOf w.word 28 8 = 255
  | none => false

/-- The breaches of a `rep` at the operation after it (R75, R76). -/
def repErrs (rep : Op) (next : Option ArmOpWord) : List Nat :=
  match next with
  | none => [2]
  | some x =>
    match x.row with
    | none => []
    | some r =>
      if !r.repeatable then [2]
      else
        let srcs := presentSrcs r x.op
        let used (bit : Nat) : Option Opnd := if bit = 3 then (if r.spec.dst == .none then none else some x.op.dst)
          else (srcs.find? (fun s => s.2.2 = bit)).map (fun s => s.2.1)
        let bits := [0, 1, 2, 3].filter rep.modBit
        let isQ (x : Opnd) : Bool := match x.reg with | .qi _ | .qo _ => true | _ => false
        needD (bits.all (fun b => (used b).isSome)) 2 ++
          needD (bits.all (fun b => match used b with
            | some y => !isQ y && (rep.modBit 4 || rep.modBits 5 6 ≤ rowRoom y.reg)
            | none => true)) 3

/-- What a scan of a block has met: written temporaries, pushes by QO and by ring, requests and delivered tokens. -/
structure BlkScan where
  temps : List Nat
  pushes : NMap Nat
  rings : NMap Nat
  out : Nat
  toks : Nat
deriving DecidableEq, Repr

/-- The scan after one operation of `n` elements with its steps, and the breaches that it makes (R59, R63, R210, R216, R297). Under a
register count the elements are not known at an arm: `n` is 1 for its reads and pushes, and a stepped temporary destination counts as
the writer of every temporary from its own to t15 (assumption 131, DEDUCED, unsafe). -/
def scanOp (c : ArmCtx) (b : BlkScan) (r : Row) (o : Op) (n : Nat) (byReg : Bool) (step : Nat → Bool) : BlkScan × List Nat :=
  let reads := (presentSrcs r o).flatMap (fun s => match s.2.1.reg with
    | .t i => (List.range n).map (fun e => i.val + if step s.2.2 then e else 0)
    | _ => [])
  let hasDst := r.spec.dst != .none
  let writes : List Nat := match o.dst.reg with
    | .t i =>
      if !hasDst then []
      else if byReg && step 3 then (List.range 16).drop i.val
      else (List.range n).map (fun e => i.val + if step 3 then e else 0)
    | _ => []
  let twice := writes.any (fun i => b.temps.contains i) || !step 3 && 1 < writes.length
  let (pushes, full) : NMap Nat × Bool := match o.dst.reg with
    | .qo i =>
      let cap := ((qoOf c.rs c.slot i.val).head?.map (·.cap)).getD 256
      let m := mapGetD i.val b.pushes 0
      (mapSet i.val (m + n) b.pushes, m ≤ cap && cap < m + n)
    | _ => (b.pushes, false)
  let ring := (if c.h then o.modBits 3 2 else c.slot) * 4 + o.modBits 0 2
  let held := mapGetD ring b.rings 0
  let out := if r.isOutbound then b.out + 1 else b.out
  let toks := if isMx r && o.dst == Opnd.zero then b.toks + 1 else b.toks
  let rings := if r == .rgPush then mapSet ring (held + 1) b.rings else b.rings
  ({ temps := writes ++ b.temps, pushes := pushes, rings := rings, out := out, toks := toks },
    needD (reads.all b.temps.contains && !twice && !full && !(r == .rgPush && held = c.ringSize (ring / 4) (ring % 4)) &&
      !(r.isOutbound && out = 33) && !(toks = 17 && b.toks = 16)) 3)

/-- The breaches of the operations of a block: slot order and detail. -/
def blockScan (c : ArmCtx) (is : List ArmOpWord) : List (Nat × Nat) :=
  ((withIndex 0 is).foldl (fun (st : BlkScan × List (Nat × Nat)) x =>
    let (b, errs) := st
    let (k, i) := x
    let own := match i.bad with | some e => [e.code] | none => []
    let prev : Option ArmOpWord := if k = 0 then none else is[k - 1]?
    let next : Option ArmOpWord := is[k + 1]?
    match i.row with
    | none => (b, errs ++ own.map (fun d => (k, d)))
    | some .nop => (b, errs ++ own.map (fun d => (k, d)))
    | some .imm =>
      (b, errs ++ (own ++ needD (match next with | some w => w.isIForm | none => false) 5).map (fun d => (k, d)))
    | some r =>
      let o := i.op
      let rep : Option Op := match prev with | some ⟨some .rep, q, _, _⟩ => some q | _ => none
      let n := match rep with | some q => if q.modBit 4 then 1 else q.modBits 5 6 | none => 1
      let byReg := match rep with | some q => q.modBit 4 | none => false
      let step (bit : Nat) : Bool := match rep with | some q => q.modBit bit | none => false
      let hi : Option (BitVec 32) := match prev with | some ⟨some .imm, _, w, _⟩ => some (BitVec.ofNat 32 w) | _ => none
      let v := immValue { bu := 0, slot := 0, op := k, elem := 0, immHi := hi } o
      let queues := needD ((presentSrcs r o).all (fun s => c.srcOk (isMx r) s.1 s.2.1) &&
        (r.spec.dst == .none || c.dstOk r.spec.dst o.dst)) 3
      let reps := if r == .rep then repErrs o next else []
      let (b', scan) := scanOp c b r o n byReg step
      (b', errs ++ (own ++ queues ++ needD (!(o.imm28.isSome && wideImm r v)) 2 ++ rowErrs c r o v ++ reps ++ scan).map (fun d => (k, d))))
    ({ temps := [], pushes := [], rings := [], out := 0, toks := 0 }, [])).2

/-- The breaches of a C entry's operations, and those found once they are decoded (R23): an operation counts by its opcode. -/
def blockErrs (im : Image) (es : List DirEnt) (e : DirEnt) (ws : List Word) : List ArmErr :=
  let ids := (es.filter (fun x => x.layout = 1 && x.pos == e.pos && x.cslot = e.cslot)).map (·.id)
  let c : ArmCtx := { im := im, pos := e.pos, slot := e.cslot, rs := im.routesAt e.die e.x e.y, ids := ids }
  let exits := (ws.filter (fun w => bitsOf w.toNat 56 8 = 0x30)).length
  let immForm := ws.any (fun w => bitOf w.toNat 13 && bitsOf w.toNat 28 8 ≠ 255 &&
    Row.all.any (fun r => r.spec.opcode = bitsOf w.toNat 56 8 && r.hasImmBit))
  (blockScan c (ws.map armOpWord)).map (fun x => ⟨e.first + x.1 / 4, x.1 % 4, 2, x.2⟩) ++
    (if exits ≠ e.exits || (immForm && !e.nonrep) then [e.err 2 6] else [])

/-- A slot, or H, without a block of id 0 (R54, R85): at the slot's first directory entry. -/
def entryErrs (es : List DirEnt) : List ArmErr :=
  let cs := es.filter (fun e => e.layout = 1)
  (cs.foldl (fun (l : List DirEnt) e => if l.any (fun x => x.pos == e.pos && x.cslot = e.cslot) then l else l ++ [e]) []).filterMap
    (fun e => if cs.any (fun x => x.pos == e.pos && x.cslot = e.cslot && x.id = 0) then none else some (e.err 2 8))

/-! ### Bank allotment and handler frames (phases 4 and 5) -/

/-- The lines that a receive entry's queue takes (R186). -/
def queueLines (form cap : Nat) : Nat := if form = 0 || form = 2 then (cap + 3) / 4 else cap + (cap + 15) / 16

/-- The lines of a descriptor's area, by its M frame (R185). -/
def areaLines (i size : Nat) : Nat := if 2 ≤ i then size + size / 8 else size

/-- A descriptor with the areas before it: whether it breaks a rule of R187. `areas` holds frame, slot, first line and lines. -/
def descBad (areas : List (Nat × Nat × Nat × Nat)) (need i k v : Nat) : Bool :=
  let base := descBase v
  let size := descSize v
  let lines := areaLines i size
  let isWin (i k : Nat) : Bool := i = 0 || (i = 1 && k = 0)
  let isH (i k : Nat) : Bool := i = 1 && k = 0
  bitsOf v 27 37 ≠ 0 || bitsOf v 11 5 ≠ 0 || (6 ≤ i && v ≠ 0) || 1024 < base + lines ||
    (2 ≤ i && v ≠ 0 && (size < 8 || 512 < size || size % 8 ≠ 0)) || (i = 1 && k = 1 && size < need) ||
    (v ≠ 0 && areas.any (fun a => a.2.2.1 < base + lines && base < a.2.2.1 + a.2.2.2 &&
      !((isH i k || isH a.1 a.2.1) && isWin i k && isWin a.1 a.2.1)))

/-- The first bad descriptor of a list of (frame, slot) pairs. -/
def firstBadDesc (m : Nat → Nat → Nat) (need : Nat) : List (Nat × Nat) → List (Nat × Nat × Nat × Nat) → Option (Nat × Nat)
  | [], _ => none
  | (i, k) :: rest, areas =>
    let v := m i k
    if descBad areas need i k v then some (i, k)
    else firstBadDesc m need rest (if v = 0 then areas else (i, k, descBase v, areaLines i (descSize v)) :: areas)

/-- Phase 4 on one bank unit (R187, R206). -/
def bankErrs (im : Image) (es : List DirEnt) (p : Nat × Nat × Nat) : List ArmErr :=
  let m (i k : Nat) := im.frameWord 2 p.1 p.2.1 p.2.2 0 i k
  let need := (im.routesAt p.1 p.2.1 p.2.2).foldl (fun t e => match e.2 with
    | .recv _ _ _ form _ cap _ => t + queueLines form cap
    | _ => t) 0
  let first := (es.find? (fun e => e.pos == p)).map (fun e => (e.frame, e.k))
  let desc := match firstBadDesc m need ((List.range 8).flatMap (fun i => (List.range 4).map (fun k => (i, k)))) [] with
    | none => []
    | some (i, k) =>
      match frameNo es 2 p 0 i with
      | some f => [⟨f, k, 4, 0⟩]
      | none => let x := first.getD (0, 0); [⟨x.1, x.2, 4, 0⟩]
  let mx := m 15 3
  let bad := bitsOf mx 32 32 ≠ 0 ||
    (List.range 8).any (fun z => !bitOf mx (16 + z) && (bitsOf mx (2 * z) 2 ≠ 0 || bitOf mx (24 + z)))
  desc ++ (if bad then [⟨(frameNo es 2 p 0 15).getD 0, 3, 4, 0⟩] else [])

/-- Phase 5 (R43): the handler frames of a bank unit pass 256 at an entry. -/
def cacheErrs (es : List DirEnt) : List ArmErr :=
  (es.foldl (fun (st : List ((Nat × Nat × Nat) × Nat) × List ArmErr) e =>
    if e.layout = 1 && e.handler then
      let t := ((st.1.find? (fun x => x.1 == e.pos)).map (·.2)).getD 0
      ((e.pos, t + e.payload) :: st.1, if t ≤ 256 && 256 < t + e.payload then st.2 ++ [e.err 8 0] else st.2)
    else st) ([], [])).2

/-! ### Channels (phase 6, R115 to R121, R268) -/

/-- A route entry of an image with its place: bank unit, entry number, frame and slot. -/
structure ChanEnt where
  pos : Nat × Nat × Nat
  idx : Nat
  frame : Nat
  k : Nat
  word : Nat
  r : Route
deriving DecidableEq, Repr

/-- The route entries of an image that are not zero, bank unit by bank unit in die, x, y order, and in entry order. -/
def chanEnts (w : ArmWords) (es : List DirEnt) : List ChanEnt :=
  let key (p : Nat × Nat × Nat) : Nat := (p.1 * 128 + p.2.1) * 64 + p.2.2
  let ents := (es.filter (fun e => e.layout = 3)).flatMap (fun e =>
    (List.range (4 * e.count)).filterMap (fun k =>
      let v := slotAt w (e.first + k / 4) (k % 4)
      if v = 0 then none else some (⟨e.pos, 4 * e.id + k, e.first + k / 4, k % 4, v, decodeRoute v⟩ : ChanEnt)))
  ents.mergeSort (fun a b => key a.pos < key b.pos || (key a.pos == key b.pos && a.idx ≤ b.idx))

/-- The route that an entry of a producer or context consumer end carries. -/
def ChanEnt.route (e : ChanEnt) : Nat := match e.r with | .send r .. => r | .recv r .. => r | _ => 0

/-- A format code that a form allows (R116). -/
def fmtAllowed (form fmt : Nat) : Bool :=
  fmt = 0 || (form = 1 && [0x11, 0x12, 0x21, 0x22, 0x31, 0x32, 0x41, 0x51].contains fmt)

/-- The inputs of an operator, the control input last, and its outputs. -/
def operEnds (r : Route) : List Nat × List Nat × List Nat :=
  match r with
  | .oper _ a b c t f => ([a, b].filter (· ≠ 0), [c].filter (· ≠ 0), [t, f].filter (· ≠ 0))
  | _ => ([], [], [])

/-- The fields that an operator requires, in the order `ina`, `inb`, `ctl`, `outt`, `outf` (R118). -/
def operMask (op : Nat) : List Bool :=
  match op with
  | 1 => [true, false, false, true, false]
  | 2 => [true, false, false, true, true]
  | 3 => [true, false, true, true, true]
  | 4 => [true, true, true, true, false]
  | 5 => [true, true, true, true, false]
  | 6 => [true, false, true, true, false]
  | _ => [true, false, true, true, false]

/-- A channel of an image, by its send entries. -/
structure Chan where
  route : Nat
  sends : List ChanEnt
deriving DecidableEq, Repr

/-- Insert into a rising list. -/
def insertNat (x : Nat) : List Nat → List Nat
  | [] => [x]
  | y :: ys => if x < y then x :: y :: ys else if x = y then y :: ys else y :: insertNat x ys

/-- The channels of an image in ascending route ID (R121). -/
def chansOf (ents : List ChanEnt) : List Chan :=
  let isSend (e : ChanEnt) : Bool := match e.r with | .send r .. => r ≠ 0 | _ => false
  let rs := (ents.filter isSend).foldl (fun l e => insertNat e.route l) []
  rs.map (fun r => ⟨r, ents.filter (fun e => isSend e && e.route = r)⟩)

/-- A breach of phase 6: the route it involves, when a channel carries it, and its entry. -/
structure ChanErr where
  route : Option Nat
  frame : Nat
  k : Nat
deriving DecidableEq, Repr

/-- What a send entry says of the consumer: form, format and capacity as one field, to compare (R119, R120). -/
def formField (r : Route) : Nat × Nat × Nat :=
  match r with
  | .send _ _ _ _ _ _ _ form fmt cap .. => (form, fmt, cap)
  | .recv _ _ _ form fmt cap _ => (form, fmt, cap)
  | _ => (0, 0, 0)

/-- The form and format of a channel. -/
def Chan.shape (c : Chan) : Nat × Nat :=
  match c.sends with
  | e :: _ => let f := formField e.r; (f.1, f.2.1)
  | [] => (0, 0)

/-- The producer end of a send entry: the bank unit, and the context's QO or an operator output. -/
def sendEnd (e : ChanEnt) : (Nat × Nat × Nat) × Bool × Nat × Nat :=
  match e.r with
  | .send _ _ _ _ _ _ _ _ _ _ src ps qo => (e.pos, src, ps, qo)
  | _ => (e.pos, false, 0, 0)

/-- The breaches of an entry by itself, with the entries of its bank unit around it (R116, R118 to R121). -/
def entErrs (ents : List ChanEnt) (isChan : Nat → Bool) (e : ChanEnt) : List ChanErr :=
  let err (r : Option Nat) : List ChanErr := [⟨r.filter isChan, e.frame, e.k⟩]
  let beside (d : Nat) : Option ChanEnt := ents.find? (fun x => x.pos == e.pos && x.idx == d)
  let low (l : List Nat) : Option Nat := (l.filter isChan).foldl (fun b x => match b with | some y => some (min x y) | none => some x) none
  match e.r with
  | .none => []
  | .bad _ => err none
  | .oper op a b c t f =>
    if (List.zip [a, b, c, t, f] (operMask op)).all (fun x => (x.1 != 0) == x.2) then [] else err (low [a, b, c, t, f])
  | .send r _ _ _ toop slot qi form fmt _ src ps qo =>
    if bitOf e.word 0 || (toop && (slot ≠ 0 || qi ≠ 0)) || (src && (ps ≠ 0 || qo ≠ 0)) || form = 3 || !fmtAllowed form fmt || r = 0
    then err (some r) else []
  | .recv r _ _ form fmt _ rate =>
    let next := (beside (e.idx + 1)).map (·.r)
    let ext := match next with | some (.ext ..) => true | _ => false
    if bitsOf e.word 0 23 ≠ 0 || form = 3 || !fmtAllowed form fmt || (rate && !ext) then err (some r) else []
  | .ext .. =>
    match (if e.idx = 0 then none else (beside (e.idx - 1)).map ChanEnt.r) with
    | some (.recv r _ _ _ _ _ rate) => if !rate || bitsOf e.word 0 8 ≠ 0 then err (some r) else []
    | _ => err none

/-- The operators at a bank unit, among entries. -/
def opersAt (ents : List ChanEnt) (p : Nat × Nat × Nat) : List ChanEnt :=
  ents.filter (fun e => e.pos == p && (match e.r with | .oper .. => true | _ => false))

/-- How many operator inputs, or outputs, of a bank unit name a route. -/
def endsNaming (ents : List ChanEnt) (p : Nat × Nat × Nat) (outs : Bool) (r : Nat) : Nat :=
  ((opersAt ents p).flatMap (fun e => let x := operEnds e.r; if outs then x.2.2 else x.1 ++ x.2.1)).count r

/-- The breaches of a channel's send entries and of the receive entries that they reach (R117, R119 to R121). -/
def sendErrs (ents : List ChanEnt) (dies width height : Nat) (c : Chan) : List ChanErr :=
  match c.sends with
  | [] => []
  | e0 :: _ =>
    let err (e : ChanEnt) : ChanErr := ⟨some c.route, e.frame, e.k⟩
    let src := (sendEnd e0).2.1
    (if src && endsNaming ents e0.pos true c.route ≠ 1 then [err e0] else []) ++
    (withIndex 0 c.sends).flatMap (fun x =>
      let e := x.2
      match e.r with
      | .send _ d xx y toop slot qi .. =>
        let p := (d, xx, y)
        let rv := ents.find? (fun v => v.pos == p && (match v.r with | .recv r sl q .. => r == c.route && sl == slot && q == qi | _ => false))
        if 5 ≤ x.1 || sendEnd e ≠ sendEnd e0 || formField e.r ≠ formField e0.r || dies ≤ d || 4 * width ≤ xx || 4 * height ≤ y ||
            (if toop then endsNaming ents p false c.route ≠ 1 else rv.isNone) then [err e]
        else
          match (if toop then none else rv) with
          | none => []
          | some v =>
            let rate := match v.r with | .recv _ _ _ _ _ _ rate => rate | _ => false
            if formField v.r ≠ formField e.r || (rate && (x.1 ≠ 0 || src || c.sends.any (fun z => match z.r with | .send _ _ _ _ t .. => t | _ => false)))
            then [err v] else []
      | _ => [])

/-- A context's QO or QI used by two channels (R121): at the later one, with the lowest route. -/
def endErrs (ents : List ChanEnt) (chans : List Chan) : List ChanErr :=
  let heads : List ChanEnt := chans.filterMap (fun c => c.sends.head?)
  let qos := (withIndex 0 heads).filterMap (fun x =>
    if (sendEnd x.2).2.1 then none
    else ((heads.take x.1).find? (fun h => sendEnd h == sendEnd x.2)).map (fun h => (⟨some h.route, x.2.frame, x.2.k⟩ : ChanErr)))
  let isChan (r : Nat) : Bool := chans.any (fun c => c.route = r)
  let qi (e : ChanEnt) : Option ((Nat × Nat × Nat) × Nat × Nat) := match e.r with | .recv _ sl q .. => some (e.pos, sl, q) | _ => none
  let recvs := ents.filter (fun e => (qi e).isSome)
  let qis := recvs.filterMap (fun e =>
    ((recvs.filter (fun v => v.idx < e.idx && qi v == qi e)).head?).map (fun v =>
      (⟨(some (if isChan v.route && (v.route < e.route || !isChan e.route) then v.route else e.route)).filter isChan, e.frame, e.k⟩ : ChanErr)))
  let lone := recvs.filterMap (fun e => match e.r with
    | .recv r sl q .. =>
      if chans.any (fun c => c.route = r && c.sends.any (fun x => match x.r with
          | .send _ d xx y toop s' q' .. => !toop && (d, xx, y) == e.pos && s' = sl && q' = q
          | _ => false)) then none
      else some (⟨(some r).filter isChan, e.frame, e.k⟩ : ChanErr)
    | _ => none)
  qos ++ qis ++ lone

/-- The breaches of an operator's ends (R118, R121). -/
def operErrs (chans : List Chan) (e : ChanEnt) : List ChanErr :=
  let chan (r : Nat) : Option Chan := chans.find? (fun c => c.route = r)
  let err (r : Option Nat) : ChanErr := ⟨r, e.frame, e.k⟩
  match e.r with
  | .oper .. =>
    let (ins, ctl, outs) := operEnds e.r
    let feeds (r : Nat) : Bool := match chan r with
      | some c => c.sends.any (fun x => match x.r with | .send _ d xx y toop .. => toop && (d, xx, y) == e.pos | _ => false)
      | none => false
    let fed (r : Nat) : Bool := match chan r with
      | some c => c.sends.any (fun x => (sendEnd x).1 == e.pos && (sendEnd x).2.1)
      | none => false
    let unnamed := ((ins ++ ctl).filter (fun r => !feeds r) ++ outs.filter (fun r => !fed r)).map (fun r => err ((chan r).map (·.route)))
    let kind := (ctl.filterMap chan).filterMap (fun c => if c.shape.1 ≠ 2 then some (err (some c.route)) else none)
    let io := (ins ++ outs).filterMap chan
    let mixed := match io with
      | c :: rest => if rest.all (fun d => d.shape == c.shape) then [] else [err (some (rest.foldl (fun m d => min m d.route) c.route))]
      | [] => []
    unnamed ++ kind ++ mixed
  | _ => []

/-- The blocks of a slot push on a QO. -/
def blocksPush (im : Image) (p : Nat × Nat × Nat) (slot q : Nat) : Bool :=
  (im.blocksAt p.1 p.2.1 p.2.2 slot false).any (fun b => b.words.any (fun w => match decodeWord w with
    | .ok i => (match i.row, i.op? with
      | some r, some o => r.spec.dst != .none && o.dst.reg == .qo (Fin.ofNat 16 q)
      | _, _ => false)
    | .error _ => false))

/-- The breaches of the queue ends of a bank unit's streams (R268). -/
def streamEndErrs (im : Image) (es : List DirEnt) (p : Nat × Nat × Nat) : List ChanErr :=
  let rs := im.routesAt p.1 p.2.1 p.2.2
  (List.range 16).flatMap (fun st =>
    let w0 := im.strmWord p st 0
    let mode := bitsOf w0 0 4
    let dir := bitsOf w0 4 1
    let slot := st / 4
    let k := bitsOf w0 7 4
    if mode = 0 || bitsOf w0 5 2 ≠ 0 then []
    else
      let f := (frameNo es 4 p slot (4 * (st % 4))).getD 0
      (if mode = 3 then [k, k + 1] else [k]).flatMap (fun q =>
        let c : Option (Nat × Nat) := if dir = 1 then (qiOf rs slot q).map (fun e => (e.route, e.form))
          else (qoOf rs slot q).head?.map (fun e => (e.route, e.form))
        match c with
        | none => [⟨none, f, 0⟩]
        | some (r, form) =>
          if form = 2 || (form ≠ 1 && (mode = 3 || mode = 6 || mode = 7 || mode = 8)) || (dir = 0 && q < 16 && blocksPush im p slot q)
          then [⟨some r, f, 0⟩] else []))

/-- Phase 6: the lowest edge number, then frame, then slot; a breach that involves no channel has edge 0xFFFF (R121). -/
def chanPhase (w : ArmWords) (im : Image) (es : List DirEnt) : Except ArmFail (List Chan) :=
  let ents := chanEnts w es
  let chans := chansOf ents
  let isChan (r : Nat) : Bool := chans.any (fun c => c.route = r)
  let errs := ents.flatMap (entErrs ents isChan) ++ chans.flatMap (sendErrs ents im.dies im.width im.height) ++ endErrs ents chans ++
    ents.flatMap (operErrs chans) ++ (dirBus es).flatMap (streamEndErrs im es)
  let edge (r : Option Nat) : Nat := match r with | some r => (chans.findIdx? (fun c => c.route = r)).getD 0xFFFF | none => 0xFFFF
  let first : Option (Nat × Nat × Nat) := errs.foldl (fun (b : Option (Nat × Nat × Nat)) (x : ChanErr) =>
    let n : Nat × Nat × Nat := (edge x.route, x.frame, x.k)
    match b with
    | none => some n
    | some m => some (if n.1 < m.1 ∨ (n.1 = m.1 ∧ (n.2.1 < m.2.1 ∨ (n.2.1 = m.2.1 ∧ n.2.2 < m.2.2))) then n else m)) none
  match first with
  | none => .ok chans
  | some (e, f, k) => .error { status := 5, detail := 0, rule := 0, frame := f, slot := k, edge := e }

/-! ### Rates (phase 7, R108, R109) -/

/-- The hop distance of two bank units given by offsets (R108). -/
def hopDistance (p q : Nat × Nat × Nat) : Nat :=
  let col (p : Nat × Nat × Nat) := 96 * p.1 + p.2.1
  let gap (a b : Nat) := (a - b) + (b - a)
  gap (col p) (col q) + gap p.2.2 q.2.2 + 4 * gap p.1 q.1

/-- A context of an image by its bank unit and slot. -/
abbrev CtxAt := (Nat × Nat × Nat) × Nat

/-- What the edges before left: the tree each context is in, and its sum of KP. -/
structure RateScan where
  tree : List (CtxAt × Nat)
  sums : List (CtxAt × Nat)
  next : Nat
deriving DecidableEq, Repr

/-- The declared fields of a controlled channel: its contexts, capacity, and the extension (R120). -/
def controlOf (ents : List ChanEnt) (c : Chan) : Option (CtxAt × CtxAt × Nat × (Nat × Nat × Nat × Nat × Nat)) :=
  match c.sends with
  | e :: _ =>
    match e.r with
    | .send _ d x y false slot qi _ _ cap false ps _ =>
      match ents.find? (fun v => v.pos == (d, x, y) && (match v.r with | .recv r sl q _ _ _ rate => rate && r == c.route && sl == slot && q == qi | _ => false)) with
      | some v =>
        match (ents.find? (fun u => u.pos == v.pos && u.idx == v.idx + 1)).map ChanEnt.r with
        | some (.ext set kp ki period imax) => some ((e.pos, ps), ((d, x, y), slot), cap, (set, kp, ki, period, imax))
        | _ => none
      | none => none
    | _ => none
  | [] => none

/-- One controlled channel of phase 7: the first rule that it breaks, and what it leaves. -/
def rateEdge (st : RateScan) (x : CtxAt × CtxAt × Nat × (Nat × Nat × Nat × Nat × Nat)) : Option Nat × RateScan :=
  let (p, q, cap, set, kp, ki, period, imax) := x
  let tree (c : CtxAt) : Option Nat := (st.tree.find? (fun e => e.1 == c)).map (·.2)
  let cycle := p == q || ((tree p).isSome && tree p == tree q)
  let t := st.next
  let join := [tree p, tree q].filterMap id
  let tree' := (p, t) :: (q, t) :: st.tree.map (fun e => if join.contains e.2 then (e.1, t) else e)
  let sum (c : CtxAt) : Nat := ((st.sums.find? (fun e => e.1 == c)).map (·.2)).getD 0
  let cs := if p == q then [p] else [p, q]
  let exceeds := cs.any (fun c => sum c ≤ 32 && 32 < sum c + kp)
  let sums' := cs.map (fun c => (c, sum c + kp)) ++ st.sums
  let rule : Option Nat :=
    if cycle then some 97
    else if exceeds then some 98
    else if kp < 4 * ki then some 99
    else if set = 0 || cap ≤ set then some 100
    else if period < 4 * (2 * hopDistance p.1 q.1 + 6) || 4095 < imax then some 101
    else none
  (rule, { tree := tree', sums := sums', next := t + 1 })

/-- Phase 7: the lowest edge that breaks a rule, with its letter (R109). -/
def ratePhase (ents : List ChanEnt) (chans : List Chan) : Except ArmFail Unit :=
  ((withIndex 0 chans).foldl (fun (st : Except ArmFail RateScan) x =>
    match st with
    | .error e => .error e
    | .ok sc =>
      match controlOf ents x.2 with
      | none => .ok sc
      | some c =>
        match rateEdge sc c with
        | (some rule, _) => .error { status := 6, detail := 0, rule := rule, frame := 0, slot := 0, edge := x.1 }
        | (none, sc') => .ok sc') (.ok { tree := [], sums := [], next := 0 })).map (fun _ => ())

/-! ### The arm -/

/-- Phases 2 to 7 on an image of n frames (R47): the image, or the failure that the arm reports. -/
def armImage (w : ArmWords) (job n : Nat) : Except ArmFail Image := do
  armHeader w n
  let d := bitsOf (slotAt w 0 0) 0 16
  let s1 := slotAt w 0 1
  let dies := bitsOf s1 30 2 + 1
  let width := bitsOf s1 25 5
  let height := bitsOf s1 20 5
  let (es, last, bad) := parseDir w (List.range (4 * d)) (d + 1)
  let im := imageOfDir w job n dies width height es
  let bus := dirBus es
  let size : List ArmErr := if last = n || (last < n && !bad.isEmpty) then [] else [⟨0, 1, armLoad, 0⟩]
  passPhase (bad ++ size ++ emptyErrs w d ++ dirErrsAll w dies width height [] es ++ bus.flatMap (streamErrs im es) ++
    (es.filter (fun e => e.layout = 1)).flatMap (fun e => blockErrs im es e (e.words w)) ++ entryErrs es)
  passPhase (bus.flatMap (bankErrs im es))
  passPhase (cacheErrs es)
  let chans ← chanPhase w im es
  ratePhase (chanEnts w es) chans
  return im

/-- Whether the store has the extents for an image and a free identifier (R38, R39): the lowest free one. -/
def State.armRoom (s : State) (frames : Nat) : Option Nat :=
  let used := s.hub.images.foldl (fun t e => t + extentsOf (e.2.words.length / 4)) 0
  let id := mapFree 4096 0 s.hub.images
  if used + extentsOf frames ≤ Config.extents && id < 4096 then some id else none

/-- ARM_STORE (R39). -/
def armStore : ArmFail := { status := 7, detail := 0, rule := 0, frame := 0, slot := 0, edge := 0 }

end Sys2Proof.Machine
end

