-- ==== Sys2Proof/Machine/Node.lean ====
section
/-!
DEFINITION. The matrix node at work and the event crossbar: starting and retiring tokens, residue checks, the range guard, spills
and injection, ticks, firings and gated tokens (R207 to R209, R217 to R222, R224 to R227, R230, R235 to R241, R244 to R246, R252).
-/
namespace Sys2Proof.Machine

/-! ### Starting (R217, R224) -/

/-- The rings of a token among the bank unit's sixteen. -/
def ringsOf (cfg : Nat) (t : MxTok) : List Nat := t.rings.map (fun k => 4 * zOwner cfg t.z + k)

/-- Two tokens name the same tile or share a ring. -/
def tokensMeet (cfg : Nat) (t u : MxTok) : Bool :=
  t.z == u.z || (ringsOf cfg t).any (fun k => (ringsOf cfg u).contains k)

/-- Token k of the inbox comes after no token it must wait for: in a frozen bank unit only handler tokens start, ordered against
started operations and one another (R224). -/
def startsInOrder (cfg : Nat) (b : Bu) (k : Nat) (t : MxTok) : Bool :=
  let frozen := !b.frozen.isEmpty
  (!frozen || t.fromH) &&
    ((b.node.inbox.take k).filter (fun u => !frozen || u.tok.fromH)).all (fun u => !tokensMeet cfg t u.tok) &&
    b.node.started.all (fun u => !tokensMeet cfg t u.tok)

/-- The entries that stand in ring k. -/
def Bu.ringCount (b : Bu) (k : Nat) : Nat := (b.node.rings[Fin.ofNat 16 k]).count

/-- A token that writes a ring: a drain or `mx.rev` without a bank offset. -/
def MxTok.fillsRing (t : MxTok) : Bool := (t.kind == 3 || t.kind == 5) && t.bankOff.isNone

/-- The rings of a token hold what it needs (R217). -/
def ringsServe (s : State) (n cfg : Nat) (t : MxTok) : Bool :=
  (ringsOf cfg t).all (fun k =>
    if t.fillsRing then (s.bu n).ringCount k + 8 ≤ (s.ringOf n k).2 else 8 ≤ (s.bu n).ringCount k)

/-- Token k of a bank unit's inbox meets the conditions to start (R217), and the acquires that its bank access comes after are
answered (R292). -/
def startable (s : State) (n k : Nat) : Bool :=
  let b := s.bu n
  let cfg := s.mxCfg n
  match b.node.inbox[k]? with
  | none => false
  | some t => t.gated.isNone && startsInOrder cfg b k t.tok && ringsServe s n cfg t.tok &&
      t.tok.hold.all (fun id => !s.hub.reqs.any (fun r => r.id == id))

/-- Token k can start: tokens that meet the conditions start in inbox order (R217). -/
def canStart (s : State) (n k : Nat) : Bool := startable s n k && (List.range k).all (fun j => !startable s n j)

/-- Entry i after the head of ring k: the addresses of its row and of its sideband (R207). -/
def State.ringPlace (s : State) (n k i : Nat) : Nat × Nat :=
  let (base, e) := s.ringOf n k
  let j := (((s.bu n).node.rings[Fin.ofNat 16 k]).head + i) % max e 1
  (ringEntryAddr base j, ringSbAddr base j)

/-- A row and its sideband. -/
def State.ringRow (s : State) (n k i : Nat) : Line × Word :=
  let (a, sb) := s.ringPlace n k i
  (lineOfBytes ((s.bu n).bank.readBytes a 64), BitVec.ofNat 64 ((s.bu n).bank.readNat sb 8))

/-- What is wrong with a sideband (R209): the offending byte and the reason, as FORMAT records them (R148). -/
def sidebandBad (sb : Word) : Option Nat :=
  let w := sb.toNat
  if bitsOf w 8 8 ≠ 0 then some (bitsOf w 8 8 + 4 * 2 ^ 8)
  else if bitsOf w 48 16 ≠ 0 then some (offending w 6 2 + 4 * 2 ^ 8)
  else if (ue4m3 (bitsOf w 0 8)).isNone then some (bitsOf w 0 8 + 2 * 2 ^ 8)
  else none

/-- The scale of an entry (R209): s64 x S256. -/
def sidebandScale (sb : Word) : Exact :=
  mulVal (Val.ofQ ((ue4m3 (bitsOf sb.toNat 0 8)).getD ⟨0, 1⟩)) (valueOf .f32 (bitsOf sb.toNat 16 32))

/-- What a read of an entry finds: an uncorrectable word of its row or sideband, or a bad sideband (R221). -/
def ringEntryBad (s : State) (n k i len : Nat) (sideband : Bool) : Option (Nat × Nat) :=
  let (a, sb) := s.ringPlace n k i
  let ecc (w : Nat) : Nat × Nat := (Code.bankEcc.num, 8 * w)
  match badWordIn (s.bu n) noneOwn a len with
  | some w => some (ecc w)
  | none =>
    if !sideband then none
    else match badWordIn (s.bu n) noneOwn sb 8 with
      | some w => some (ecc w)
      | none => (sidebandBad (s.ringRow n k i).2).map (fun x => (Code.format.num, x))

/-- The types of a token's operands (R212). -/
def MxTok.ta (t : MxTok) : Ty := Ty.ofCode (bitsOf t.word.toNat 46 4)
/-- The type of its B operand. -/
def MxTok.tb (t : MxTok) : Ty := Ty.ofCode (bitsOf t.word.toNat 42 4)

/-- A started operation with the operands it reads as it starts (R217, R220): the rows and columns of its shape, or the eight rows
of a fill. -/
def startOp (s : State) (n : Nat) (t : MxTok) : Started :=
  let b := s.bu n
  let cfg := s.mxCfg n
  let own := 4 * zOwner cfg t.z
  let mul := t.kind ≤ 1
  let lenB := if t.kind = 0 && t.tb = .nq4 then 32 else 64
  let as := if mul then List.range t.rows else if t.kind = 4 && t.bankOff.isNone then List.range 8 else []
  let bs := if mul then List.range t.cols else []
  let bank := match t.kind, t.bankOff with | 4, some a => (List.range 8).map (fun i => a + 64 * i) | _, _ => []
  let bad := (as.findSome? (fun i => ringEntryBad s n (own + t.ka) i 64 (t.kind = 0))).orElse (fun _ =>
    (bs.findSome? (fun i => ringEntryBad s n (own + t.kb) i lenB (t.kind = 0))).orElse (fun _ =>
      bank.findSome? (fun a => (badWordIn b noneOwn a 64).map (fun w => (Code.bankEcc.num, 8 * w)))))
  { tok := t,
    rowsA := as.map (fun i => s.ringRow n (own + t.ka) i) ++ bank.map (fun a => (lineOfBytes (b.bank.readBytes a 64), 0)),
    rowsB := bs.map (fun i => s.ringRow n (own + t.kb) i),
    guardOn := !bitOf b.rns.gdis.toNat t.z, rnsMode := b.rns.mode, bad := bad }

/-- A token leaves the inbox and its operation starts. -/
def startToken (s : State) (n k : Nat) (t : InTok) : State :=
  let x := startOp s n t.tok
  let s1 := s.modBu n (fun b => { b with
    node := { b.node with inbox := listDrop k b.node.inbox, started := b.node.started ++ [x] },
    eccLine := match x.bad with
      | some (c, a) => if c = Code.bankEcc.num then some (a / 64) else b.eccLine
      | none => b.eccLine })
  match s1.regionOf n with
  | some r => s1.modRegion r.id (fun g => { g with idle := 0 })
  | none => s1

/-- MX_TOKEN_START: a token of the inbox starts when R217 lets it. -/
def execMxTokenStart (s : State) : Host.Outcome State Fault Refusal :=
  let n := s.my.arg.n
  let k := s.my.arg.m
  nextState (
    match (s.bu n).node.inbox[k]? with
    | some t => if canStart s n k then startToken s n k t else s
    | none => s)

/-! ### What a retiring operation does to its tile -/

/-- What an operation leaves: its tile, the rows it writes to its target, the flags of its lanes, the corrections it made, and the
failure it reports with its detail (R221). -/
structure MxOut where
  tile : Tile
  out : List Line
  flags : Nat
  corr : List Nat
  fail : Option (Code × Nat)
  injected : Bool

/-- An operation that changes nothing. -/
def MxOut.idle (t : Tile) : MxOut := { tile := t, out := [], flags := 0, corr := [], fail := none, injected := false }
/-- An operation that fails (R221). -/
def MxOut.failed (t : Tile) (c : Code) (extra : Nat) : MxOut :=
  { MxOut.idle { t with failed := true } with fail := some (c, extra) }

/-- The elements of a shape, as (i, j). -/
def shapeOf (t : MxTok) : List (Nat × Nat) := (List.range t.rows).flatMap (fun i => (List.range t.cols).map (fun j => (i, j)))

/-- Elements written into a tile's list. -/
def setElems (z : List Word) (ws : List ((Nat × Nat) × Word)) : List Word :=
  ws.foldl (fun z w => listMod (8 * w.1.1 + w.1.2) (fun _ => w.2) z) z

/-- Element k of an entry read as a type (R218): an nq4 code's level, else the value. -/
def mxElem (t : Ty) (row : Line) (k : Nat) : Val :=
  if t = .nq4 then .fin (nq4Level (laneOf 4 row.toNat k)) else laneVal t row.toNat k

/-- The elements of an entry times its scale, whether one of these is a NaN, and the flags of an undefined product. -/
def scaledRow (t : Ty) (n : Nat) (e : Line × Word) : List Val × Bool × Nat :=
  let sc := sidebandScale e.2
  let raw := (List.range n).map (mxElem t e.1)
  let nan := raw.any (· == .nan) || valueOf .f32 (bitsOf e.2.toNat 16 32) == .nan
  let xs := raw.map (fun x => mulVal x sc.val)
  (xs.map (·.val), nan, xs.foldl (fun f x => f ||| x.flags) sc.flags)

/-- The exact sum of R218 for one element. -/
def mmaSum (a b : List Val × Bool × Nat) (acc : List Val) : Exact :=
  if a.2.1 || b.2.1 || acc.any (· == .nan) then ⟨.nan, 0⟩
  else
    let f := a.2.2 ||| b.2.2
    if f ≠ 0 then ⟨.nan, f⟩ else dotVals (a.1.zip b.1) acc false

/-- `mx.mma` (R218): every element of the shape with one rounding; an overflow under TRAP writes none. -/
def mmaOut (x : Started) (tile : Tile) : MxOut :=
  let t := x.tok
  let n := 64 / t.ta.bytes
  let rows := x.rowsA.map (scaledRow t.ta n)
  let cols := x.rowsB.map (scaledRow t.tb n)
  let none3 : List Val × Bool × Nat := ([], false, 0)
  let rs := (shapeOf t).map (fun p =>
    let acc := if t.acc then [valueOf .f32 (bitsOf (tile.z.getD (8 * p.1 + p.2) 0).toNat 0 32)] else []
    let e := mmaSum (rows.getD p.1 none3) (cols.getD p.2 none3) acc
    let r := round e.val .f32 .rne none t.ovf
    (p, BitVec.ofNat 64 r.bits, if r.trap then 0 else e.flags ||| r.flags, r.trap))
  let flags := rs.foldl (fun f r => f ||| r.2.2.1) 0
  match rs.find? (fun r => r.2.2.2) with
  | some r => { MxOut.failed tile .overflow (8 * r.1.1 + r.1.2) with flags := flags }
  | none => { MxOut.idle { tile with z := setElems tile.z (rs.map (fun r => (r.1, r.2.1))) } with flags := flags }

/-- The units of an integer operation (R237). -/
def immaUnits (a b : Ty) : Nat := if a.isSigned && b.isSigned then 1 else if a.isSigned || b.isSigned then 2 else 4

/-- The limit of the guard (R237). -/
def guardLimit : Nat := 1976

/-- The outcomes of `Check` on a tile's elements (R235). -/
def checkTile (mode : Nat) (tile : Tile) : List RnsOut := tile.z.map (fun e => rnsCheck mode (laneResidues e.toNat))

/-- Corrections by channel (R236). -/
def corrCounts (os : List RnsOut) : List Nat :=
  (List.range 6).map (fun c => (os.filter (fun o => match o with | .corr k _ => k == c | _ => false)).length)

/-- The lowest BAD element. -/
def firstBad (os : List RnsOut) : Option Nat := os.findIdx? (fun o => o == .bad)

/-- The value of an outcome. -/
def RnsOut.val : RnsOut → Int
  | .ok x => x
  | .corr _ x => x
  | .bad => 0

/-- The spill of R238: every value joins its side accumulator and the tile is zeroed. -/
def spillTile (os : List RnsOut) (tile : Tile) : Tile :=
  { tile with
    z := List.replicate 64 0,
    side := (os.zip tile.side).map (fun p => BitVec.ofNat 64 (wrapNat 64 (p.1.val + p.2.toNat))) }

/-- The product and accumulation of R219 into a tile, with the injection of R252. -/
def immaProduct (x : Started) (inj : Option (Nat × Nat)) (tile : Tile) : Tile :=
  let t := x.tok
  let rows := x.rowsA.map (fun e => (List.range 64).map (fun k => (laneVal t.ta e.1.toNat k).q.num))
  let cols := x.rowsB.map (fun e => (List.range 64).map (fun k => (laneVal t.tb e.1.toNat k).q.num))
  let ws := (shapeOf t).map (fun p =>
    let dot := (((rows.getD p.1 []).zip (cols.getD p.2 [])).map (fun q => q.1 * q.2)).sum
    let old := if t.acc then laneResidues (tile.z.getD (8 * p.1 + p.2) 0).toNat else [0, 0, 0, 0, 0, 0]
    let res := (List.range 6).map (fun c =>
      let r := ((dot + ((old.getD c 0 : Nat) : Int)) % (modulus c : Int)).toNat
      match inj with
      | some (ch, pat) => if ch = c then (r ^^^ pat) % modulus c else r
      | none => r)
    (p, BitVec.ofNat 64 (packResidues res)))
  { tile with z := setElems tile.z ws, side := if t.acc then tile.side else List.replicate 64 0 }

/-- `mx.imma` on a tile that may compute (R219, R237, R238). -/
def immaOut (x : Started) (inj : Option (Nat × Nat)) (tile : Tile) : MxOut :=
  let t := x.tok
  let u := immaUnits t.ta t.tb
  let fin (g : Nat) (z : Tile) (corr : List Nat) : MxOut :=
    { MxOut.idle { immaProduct x inj z with guard := g } with corr := corr, injected := inj.isSome }
  if !t.acc then fin u tile []
  else if !x.guardOn then fin (min (tile.guard + u) 65535) tile []
  else if tile.guard + u ≤ guardLimit then fin (tile.guard + u) tile []
  else if t.ovf = .trap then MxOut.failed tile .rnsGuard 0
  else
    let os := checkTile x.rnsMode tile
    if (firstBad os).isSome then MxOut.failed tile .rnsUnc 0 else fin u (spillTile os tile) (corrCounts os)

/-- A tile after `mx.zero` (R220, R238). -/
def zeroTile (t : MxTok) (tile : Tile) : Tile :=
  { tile with z := setElems tile.z ((shapeOf t).map (fun p => (p, 0))), side := List.replicate 64 0, guard := 0, failed := false }

/-- Eight rows of 64-bit elements. -/
def wideRows (es : List Word) : List Line :=
  (List.range 8).map (fun i => BitVec.ofNat 512 (packLanes 64 ((List.range 8).map (fun j => (es.getD (8 * i + j) 0).toNat))))

/-- The rows that a drain writes (R220). -/
def drainRows (rns : Bool) (t : MxTok) (tile : Tile) : List Line :=
  if t.keepB then wideRows tile.side
  else if rns then wideRows tile.z
  else (List.range 8).map (fun i =>
    BitVec.ofNat 512 (packLanes 32 ((List.range 8).map (fun j => (tile.z.getD (8 * i + j) 0).toNat))))

/-- `mx.drain` (R220, R238). -/
def drainOut (rns : Bool) (t : MxTok) (tile : Tile) : MxOut :=
  let after :=
    if !t.acc then tile
    else if t.keepB then { tile with side := List.replicate 64 0 }
    else { tile with z := List.replicate 64 0, guard := 0 }
  { MxOut.idle after with out := drainRows rns t tile }

/-- The elements that a fill reads, 64 bits or 32 bits each (R220). -/
def fillElems (bits : Nat) (rows : List (Line × Word)) : List Nat :=
  rows.flatMap (fun e => (List.range 8).map (fun j => laneOf bits e.1.toNat j))

/-- `mx.fill` (R220, R238). -/
def fillOut (rns : Bool) (x : Started) (tile : Tile) : MxOut :=
  let t := x.tok
  let word (k : Nat) : Word := BitVec.ofNat 64 k
  MxOut.idle (
    if t.keepB then { tile with side := (fillElems 64 x.rowsA).map word, failed := false }
    else if rns then
      let rs := (fillElems 64 x.rowsA).map laneResidues
      { tile with
        z := rs.map (fun r => word (packResidues r)), failed := false,
        guard := rs.foldl (fun g r => max g (((recon r (mainSet x.rnsMode)).natAbs + 2 ^ 20 - 1) / 2 ^ 20)) 0 }
    else { tile with z := (fillElems 32 x.rowsA).map word, failed := false })

/-- A tile with its corrected residues stored back (R236). -/
def storeBack (os : List RnsOut) (tile : Tile) : Tile :=
  { tile with z := (os.zip tile.z).map (fun p => match p.1 with
      | .corr _ x => BitVec.ofNat 64 (packResidues (residuesOf x))
      | _ => p.2) }

/-- `mx.rev` and `mx.chk` (R245, R246). -/
def revOut (x : Started) (tile : Tile) : MxOut :=
  let os := checkTile x.rnsMode tile
  let t1 := storeBack os tile
  let out := if x.tok.kind = 5 then
      wideRows ((os.zip tile.side).map (fun p => match p.1 with
        | .bad => BitVec.ofNat 64 (2 ^ 63)
        | o => BitVec.ofNat 64 (wrapNat 64 (o.val + p.2.toNat))))
    else []
  match firstBad os with
  | some k =>
    { MxOut.failed t1 (if x.guardOn then .rnsUnc else .rnsRange) (k * 2 ^ 16) with out := out, corr := corrCounts os }
  | none =>
    let t2 := if x.tok.kind = 5 && x.tok.acc then
        { t1 with z := List.replicate 64 0, side := List.replicate 64 0, guard := 0 }
      else t1
    { MxOut.idle t2 with out := out, corr := corrCounts os }

/-- What an operation leaves, by its kind; one that found bad operands, a retired bank unit or a failed tile does not compute
(R221, R241). -/
def mxResult (rns : Bool) (x : Started) (inj : Option (Nat × Nat)) (tile : Tile) : MxOut :=
  let k := x.tok.kind
  if x.rnsMode = 7 && (k = 1 || k = 5 || k = 6) then MxOut.failed tile .rnsRetired 0
  else if tile.failed && k ≤ 1 then MxOut.idle tile
  else
    match x.bad with
    | some (c, d) => if c = Code.bankEcc.num then MxOut.failed tile .bankEcc d else MxOut.failed tile .format d
    | none =>
      match k with
      | 0 => mmaOut x tile
      | 1 => immaOut x inj tile
      | 2 => MxOut.idle (zeroTile x.tok tile)
      | 3 => drainOut rns x.tok tile
      | 4 => fillOut rns x tile
      | _ => revOut x tile

/-! ### Retiring (R217, R220 to R222) -/

/-- The target of an operation has room for its rows (R208), and no stream is in the middle of a block in it (R204). -/
def retireReady (s : State) (n : Nat) (x : Started) : Bool := !x.tok.fillsRing ||
  (ringsServe s n (s.mxCfg n) x.tok && !s.ringHeld n (4 * zOwner (s.mxCfg n) x.tok.z + x.tok.ka))

/-- The rings that an operation pops: one tile each, unless kept (R218, R220). -/
def poppedRings (cfg : Nat) (t : MxTok) : List Nat :=
  let own := 4 * zOwner cfg t.z
  match t.kind with
  | 0 | 1 => (if t.keepA then [] else [own + t.ka]) ++ (if t.keepB then [] else [own + t.kb])
  | 4 => if t.bankOff.isSome || t.keepA then [] else [own + t.ka]
  | _ => []

/-- A tile of eight entries popped from a ring (R208). -/
def popTile (s : State) (n k : Nat) : State :=
  let e := (s.ringOf n k).2
  let i := Fin.ofNat 16 k
  s.modBu n (fun b =>
    let r := b.node.rings[i]
    { b with node := { b.node with rings := b.node.rings.set i { r with head := (r.head + 8) % max e 1, count := r.count - 8 } } })

/-- The rows that an operation writes: raw entries of its ring, or lines of the bank (R220). -/
def writeRows (s : State) (n : Nat) (t : MxTok) (rows : List Line) : State :=
  match t.bankOff with
  | some a =>
    let rd := s.tagRound n t.org.slot t.org.round
    (withIndex 0 rows).foldl (fun s x => bankWrite s n rd (a + 64 * x.1) (lineBytes x.2)) s
  | none => rows.foldl (fun s r => ringPushOne s n (4 * zOwner (s.mxCfg n) t.z + t.ka) r rawSideband) s

/-- A report of the node (R221, R373): to the owning context, with the tag in `extra`[47:32]. (assumption 64, DEDUCED, unsafe) -/
def mxReport (s : State) (n : Nat) (t : MxTok) (c : Code) (address extra stage : Nat) : State :=
  let own := zOwner (s.mxCfg n) t.z
  let x := s.ctx n own
  let o := { s.originOf n own t.org.block t.org.op t.org.elem with round := x.regs.round }
  s.post (mkRec s { o with slot := 5 } c true address (extra + t.tag * 2 ^ 32)) stage o

/-- Corrections are counted and reported once (R236). -/
def mxCorrect (s : State) (n : Nat) (t : MxTok) (corr : List Nat) : State :=
  let count := corr.sum
  if count = 0 then s
  else
    let mask := ((withIndex 0 corr).filter (fun c => c.2 ≠ 0)).foldl (fun m c => m + 2 ^ c.1) 0
    (mxReport s n t .rnsCorr 0 (mask + count % 256 * 2 ^ 8) 4).countCorr n corr

/-- The injection in force: channel and pattern (R252). (assumption 65, DEDUCED, unsafe) -/
def injection (b : Bu) : Option (Nat × Nat) :=
  if bitsOf b.rns.injs 12 8 = 0 then none else some (bitsOf b.rns.injs 0 3, bitsOf b.rns.injs 3 9)

/-- One retirement fewer to corrupt; 255 stays (R252). -/
def spendInjection (v : Nat) : Nat := if bitsOf v 12 8 = 255 || bitsOf v 12 8 = 0 then v else v - 2 ^ 12

/-- A started operation retires: it writes its tile and target, pops its rings, pulses its source and reports; `chk` says that the
residue of its result mismatches, and that no rollback answers it (R375, R376). -/
def retireOp (s : State) (n k : Nat) (x : Started) (chk : Bool) : State :=
  let t := x.tok
  let cfg := s.mxCfg n
  let zi := Fin.ofNat 8 t.z
  let own := zOwner cfg t.z
  let r0 := mxResult (zRns cfg t.z) x (injection (s.bu n)) (s.bu n).node.tiles[zi]
  let r := if chk then { MxOut.failed (s.bu n).node.tiles[zi] .arithChk 0 with injected := r0.injected } else r0
  let s1 := s.modBu n (fun b => { b with
    node := { b.node with
      started := listDrop k b.node.started,
      tiles := b.node.tiles.set zi { r.tile with tag := t.tag, seq := (r.tile.seq + 1) % 2 ^ 16 } },
    rns := { b.rns with injs := if r.injected then spendInjection b.rns.injs else b.rns.injs },
    ev := { b.ev with pulses := b.ev.pulses ++ [(t.z, .node n, s.ms.past (.node n))] } })
  let s2 := (poppedRings cfg t).foldl (fun s q => popTile s n q) (writeRows s1 n t r.out)
  let s3 := s2.modCtx n own (fun c => c.modRegs (fun g => { g with flags := joinFlags g.flags r.flags }))
  let s4 := mxCorrect s3 n t r.corr
  match r.fail with
  | none => s4
  | some (c, d) => if c = .bankEcc then mxReport s4 n t c d 0 0 else mxReport s4 n t c 0 d 0

/-- An operation predicts the residue of its result and computes one: an `mx.imma` on a tile that has not failed (R221, R375). -/
def predictsTile (s : State) (n : Nat) (x : Started) : Bool :=
  x.tok.kind == 1 && x.rnsMode != 7 && x.bad.isNone && !((s.bu n).node.tiles[Fin.ofNat 8 x.tok.z]).failed

/-- MX_TOKEN_RETIRE: a started operation retires, once its ring has room for what it writes (R208). With `flag` the residue of an
`mx.imma` mismatches (R375): where the round is replayed a rollback is called for, and it retires without a record; else it fails with
ARITH_CHK as failures at the node do (R221, R376; assumption 141, DEDUCED, unsafe). -/
def execMxTokenRetire (s : State) : Host.Outcome State Fault Refusal :=
  let n := s.my.arg.n
  let k := s.my.arg.m
  nextState (
    match (s.bu n).node.started[k]? with
    | some x =>
      if !retireReady s n x then s
      else if s.my.arg.flag && predictsTile s n x then
        (let (ok, s1) := callRollback s n (s.tagRound n x.tok.org.slot x.tok.org.round)
         retireOp s1 n k x (!ok))
      else retireOp s n k x false
    | none => s)

/-! ### The crossbar (R225 to R227, R230) -/

/-- A counter that its source pulses (R226): a tick when its count is not 0; the release of the pulse is kept (R290). -/
def tickCounter (src : Nat) (rel : Party × List Nat) (c : EvCtr) : EvCtr :=
  if c.src = src && c.rem ≠ 0 then
    { c with rem := c.rem - 1, val := if c.rem = 1 then c.val else c.val + c.step, rels := c.rels ++ [rel] }
  else c

/-- The mask of the counters that a pulse ticks. -/
def tickMask (e : Events) (src : Nat) : BitVec 16 :=
  BitVec.ofNat 16 ((withIndex 0 e.ctrs.toList).foldl (fun m c => if c.2.src = src && c.2.rem ≠ 0 then m + 2 ^ c.1 else m) 0)

/-- Step 1 of R227 for one target: a tick sets its counter's bit in each latch whose mask holds it. -/
def latchTarget (m : BitVec 16) (t : Target) : Target :=
  { t with latches := Vector.ofFn (fun k : Fin 4 => t.latches[k] ||| (m &&& t.masks[k])) }

/-- One pulse: its ticks, and their latches. -/
def pulseEvents (e : Events) (p : Nat × Party × List Nat) : Events :=
  let m := tickMask e p.1
  { e with ctrs := e.ctrs.map (tickCounter p.1 p.2), tgts := e.tgts.map (latchTarget m) }

/-- Step 4 of R227: while a target has firings pending, its oldest gated token is released. -/
def releaseGate (ti : Nat) (fuel : Nat) (b : Bu) : Bu :=
  match fuel with
  | 0 => b
  | f + 1 =>
    let i := Fin.ofNat 8 ti
    let t := b.ev.tgts[i]
    match t.pend, b.node.inbox.findIdx? (fun x => x.gated == some ti) with
    | 0, _ => b
    | _, none => b
    | _ + 1, some k =>
      releaseGate ti f { b with
        node := { b.node with inbox := listMod k (fun x => { x with gated := none }) b.node.inbox },
        ev := { b.ev with tgts := b.ev.tgts.set i { t with pend := t.pend - 1 } } }

/-- Every target's gated tokens. -/
def releaseGates (b : Bu) : Bu := (List.range 8).foldl (fun b t => releaseGate t 16 b) b

/-- The pulses of one cycle, and those of later ones: a source pulses at most once in a cycle (R225). -/
def splitPulses (l : List (Nat × Party × List Nat)) : List (Nat × Party × List Nat) × List (Nat × Party × List Nat) :=
  l.foldl (fun a p => if a.1.any (fun q => q.1 == p.1) then (a.1, a.2 ++ [p]) else (a.1 ++ [p], a.2)) ([], [])

/-- EV_TICK: the pulses of a cycle tick the counters, and pending firings release gated tokens (R226, R227). A term that stands
complete fires first. -/
def execEvTick (s : State) : Host.Outcome State Fault Refusal :=
  nextState (s.modBu s.my.arg.n (fun b =>
    if b.ev.complete then b
    else
      let (now, later) := splitPulses b.ev.pulses
      releaseGates { b with ev := { (now.foldl pulseEvents b.ev) with pulses := later } }))

/-- Steps 2 and 3 of R227 for one target: each complete term clears its latch and fires once. -/
def fireTarget (t : Target) : Target × Nat :=
  let k := ([0, 1, 2, 3].filter (fun k => t.termDone k)).length
  ({ t with
     latches := Vector.ofFn (fun j : Fin 4 => if t.termDone j then 0 else t.latches[j]),
     pend := min 255 (t.pend + k), lost := t.lost || 255 < t.pend + k }, k)

/-- The streams configured on a target (R227, R267). -/
def targetStreams (s : State) (n ti : Nat) : List Nat :=
  (List.range 16).filter (fun k => let p := s.strmProg n k; p.mode ≠ 0 && p.trig = 1 && p.st = ti)

/-- A target fires for its complete terms and starts its streams. -/
def fireOne (s : State) (n ti : Nat) : State :=
  let i := Fin.ofNat 8 ti
  let (t, k) := fireTarget (s.bu n).ev.tgts[i]
  let s1 := s.modBu n (fun b => { b with ev := { b.ev with tgts := b.ev.tgts.set i t } })
  (List.range k).foldl (fun s _ => (targetStreams s n ti).foldl (fun s q => s.modBu n (fun b => b.trigger q)) s) s1

/-- TARGET_FIRING: complete terms fire, start their streams, and release gated tokens (R227). -/
def execTargetFiring (s : State) : Host.Outcome State Fault Refusal :=
  let n := s.my.arg.n
  nextState (((List.range 8).foldl (fun s ti => fireOne s n ti) s).modBu n releaseGates)

/-- S_SOURCE_PULSE: the next `ev.pulse` of a bank unit goes out (R225, R230). (assumption 66, DEDUCED, safe) -/
def execSSourcePulse (s : State) : Host.Outcome State Fault Refusal :=
  nextState (s.modBu s.my.arg.n (fun b =>
    match b.ev.sQueue with
    | [] => b
    | k :: rest => { b with ev := { b.ev with sQueue := rest, pulses := b.ev.pulses ++ [(24 + k, .node s.my.arg.n, [])] } }))

end Sys2Proof.Machine
end

