-- ==== Sys2Proof/Machine/Spans.lean ====
section
/-!
DEFINITION. What the ladder engine keeps: the span directory, classes and transforms, rung handles, heaps, and attention pages with
their headers and counts (R318 to R324, R327, R330, R336, R341 to R345).
-/
namespace Sys2Proof.Machine

/-! ### Names and the directory (R318 to R321) -/

/-- A span's entry. -/
structure Span where
  slot : Nat
  present : Nat
  regen : Nat
  cls : Nat
  opay : Bool
  live : Bool
  gen : Nat
  owner : Nat
  length : Nat
  pins : Nat
  rungs : List Nat
  spent : Nat
deriving DecidableEq, Repr

/-- The entry of 128 bytes read as a number. -/
def spanOf (slot n : Nat) : Span :=
  { slot := slot, present := bitsOf n 0 5, regen := bitsOf n 8 5, cls := bitsOf n 16 8, opay := bitOf n 24, live := bitOf n 25,
    gen := bitsOf n 32 16, owner := bitsOf n 48 16, length := bitsOf n 64 28, pins := bitsOf n 96 16,
    rungs := (List.range 5).map (fun k => bitsOf n (128 + 64 * k) 32), spent := bitsOf n 448 64 }

/-- Word 0 of an entry. -/
def Span.word0 (p : Span) : Nat :=
  p.present + p.regen * 2 ^ 8 + p.cls * 2 ^ 16 + (if p.opay then 2 ^ 24 else 0) + (if p.live then 2 ^ 25 else 0) +
    p.gen * 2 ^ 32 + p.owner * 2 ^ 48

/-- The 128 bytes of an entry. -/
def Span.bytes (p : Span) : List Byte :=
  ([p.word0, p.length + p.pins * 2 ^ 32] ++ p.rungs ++ [p.spent]).flatMap (bytesOfNat 8) ++ List.replicate 64 0

/-- The entry of a slot as it stands. -/
def State.span (s : State) (slot : Nat) : Span := spanOf slot (s.ms.mem.readNat (s.hub.spanBase + 128 * slot) 128)

/-- An entry written by the ladder engine. -/
def State.putSpan (s : State) (p : Span) : State := writeNow s .ladder (s.hub.spanBase + 128 * p.slot) p.bytes

/-- The span without anything but its generation, raised (R321). -/
def Span.dead (p : Span) : Span :=
  { slot := p.slot, present := 0, regen := 0, cls := 0, opay := false, live := false, gen := (p.gen + 1) % 65536, owner := 0,
    length := 0, pins := 0, rungs := [0, 0, 0, 0, 0], spent := 0 }

/-- A name of this module's span (R318). -/
def State.spanName (s : State) (p : Span) : Nat := (s.out.moduleId.getD 0) * 2 ^ 52 + p.slot * 2 ^ 28 + p.gen * 2 ^ 12

/-- The span that a name names, by the checks of R319. (assumption 99, DEDUCED, unsafe) -/
def State.spanNamed (s : State) (name : Nat) : Except Code Span :=
  let slot := bitsOf name 28 24
  if bitsOf name 0 12 ≠ 0 || bitsOf name 52 12 ≠ s.out.moduleId.getD 0 || s.hub.spanSize ≤ slot then .error .name
  else
    let p := s.span slot
    if !p.live || p.gen ≠ bitsOf name 12 16 then .error .name else .ok p

/-- Rung k is present. -/
def Span.has (p : Span) (k : Nat) : Bool := bitOf p.present k
/-- The present rungs. -/
def Span.all (p : Span) : List Nat := (List.range 5).filter p.has
/-- The handle of rung k. -/
def Span.handle (p : Span) (k : Nat) : Nat := p.rungs.getD k 0

/-! ### Classes and transforms (R323, R324) -/

/-- A field of a record of 32 bytes. -/
def recField (r : List Byte) (lo len : Nat) : Nat := natOfBytes ((r.drop lo).take len)

/-- The record of a bound class. -/
def State.classRec (s : State) (c : Nat) : Option (List Byte) :=
  match mapGet c s.hub.classes with
  | some r => if bitOf (recField r 21 1) 0 then some r else none
  | none => none

/-- The transform of a boundary (R323). -/
def classTransform (r : List Byte) (lift : Bool) (b : Nat) : Nat :=
  if lift then bitsOf (recField r 0 8) (12 * b) 12 else bitsOf (recField r 8 8) (12 * b) 12

/-- Lines of a key or value vector. -/
def classKvl (r : List Byte) : Nat := recField r 16 1
/-- Element type of keys and values. -/
def classKvt (r : List Byte) : Nat := recField r 17 1

/-- Bytes of a rung's buffer for a length (R322). -/
def rungBytes (r : List Byte) (k n : Nat) : Nat :=
  match k with
  | 0 => 4 * n
  | 1 => 8 * ((n + 63) / 64)
  | 2 => recField r 18 2 * recField r 20 1 * 64
  | 3 => recField r 22 2 * 64
  | _ => recField r 24 4

/-! ### Heaps (R327) -/

/-- Units of 64 KiB that hold bytes. -/
def heapUnits (size : Nat) : Nat := max 1 ((size + 65535) / 65536)

/-- The lowest run of free units of a job's heap. (assumption 72, DEDUCED, unsafe) -/
def heapFind (j : Job) (n : Nat) : Option Nat :=
  let lo := j.heap / 65536
  let free (u : Nat) : Bool := lo ≤ u && (u + n) * 65536 ≤ j.heap + j.heapsz && j.heapUsed.all (fun k => k < u || u + n ≤ k)
  let cands := (lo :: j.heapUsed.map (· + 1)).filter free
  match cands with
  | [] => none
  | c :: rest => some (rest.foldl min c)

/-- Units taken from a job's heap: the VA of the first (R327). -/
def heapTake (s : State) (job size : Nat) : Except Code (Nat × State) :=
  match mapGet job s.hub.jobs with
  | none => .error .ladderSpace
  | some j =>
    let n := heapUnits size
    match heapFind j n with
    | none => .error .ladderSpace
    | some u => .ok (u * 65536, s.modHub (fun h => { h with jobs := mapMod job (fun j =>
        { j with heapUsed := j.heapUsed ++ (List.range n).map (· + u) }) h.jobs }))

/-- Units returned to a job's heap. -/
def heapFree (s : State) (job va size : Nat) : State :=
  let u := va / 65536
  s.modHub (fun h => { h with jobs := mapMod job (fun j =>
    { j with heapUsed := j.heapUsed.filter (fun k => !(u ≤ k && k < u + heapUnits size)) }) h.jobs })

/-! ### Attention pages (R341 to R345) -/

/-- One bit of the CRC of R341. -/
def crc16Bit (c : Nat) : Nat → Nat
  | 0 => c
  | n + 1 => crc16Bit (if 2 ^ 15 ≤ c then ((2 * c) % 2 ^ 16) ^^^ 0x8BB7 else 2 * c) n

/-- CRC-16 with polynomial 0x8BB7, not reflected, initial value 0, no final XOR (R341). -/
def crc16 (bs : List Byte) : Nat := bs.foldl (fun c b => crc16Bit (c ^^^ (b.toNat * 2 ^ 8)) 8) 0

/-- A header copy whose CRC holds. -/
def headerHolds (h : List Byte) : Bool := crc16 (h.take 190) = recField h 190 2

/-- The fields of a header that its class fixes (R342). -/
def headerFits (h : List Byte) (kvl kvt : Nat) : Bool :=
  recField h 8 1 = kvt && recField h 9 1 = kvl && recField h 10 6 = 0 && recField h 144 46 = 0

/-- 192 bytes at a key read by a party, line by line; none when they hold an uncorrectable word. -/
def readHeader (s : State) (p : Party) (key : Nat) : Option (List Byte) × State :=
  if s.ms.bad key 192 then (none, s)
  else let (bs, s1) := readPlaces s p ((List.range 3).map (fun i => (key + 64 * i, 64 * i, 64))); (some bs, s1)

/-- The copy of a header that is used, whether the other copy was rewritten from it, and the state (R342). A copy whose CRC fails beside a
good copy A stays as it is: the rule rewrites B only when both hold. -/
def mendHeader (s : State) (p : Party) (key : Nat) : Option (List Byte) × Bool × State :=
  let (a, s1) := readHeader s p key
  let (b, s2) := readHeader s1 p (key + 192)
  let good (x : Option (List Byte)) : Option (List Byte) := x.filter headerHolds
  match good a, good b with
  | some x, some y => if x = y then (some x, false, s2) else (some x, true, writeNow s2 p (key + 192) x)
  | some x, none => (some x, false, s2)
  | none, some y => (some y, true, writeNow s2 p key y)
  | none, none => (none, false, s2)

/-- A header used as R342 states: what it reads, whether a copy was rewritten, and the state, in which the rewrite stands whatever the fields
read; none is KV_ECC. -/
def useHeader (s : State) (p : Party) (key kvl kvt : Nat) : Option (List Byte) × Bool × State :=
  let (h, fixed, t) := mendHeader s p key
  (h.filter (fun x => headerFits x kvl kvt), fixed, t)

/-- KV_SOFT logged to the fault queue of a page's owner (R342, R343, R377). -/
def logSoft (s : State) (o : Origin) (slot owner va : Nat) : State :=
  s.post (mkRec s { o with slot := slot } .kvSoft true va 0) 4 { o with job := owner }

/-- The mask of page q of a span of a length (R341): the positions that fall in it. -/
def pageMask (length q : Nat) : Nat := 2 ^ (min 64 (length - 64 * q)) - 1

/-- The two header copies of a page, written by the ladder engine: copy A with its mask and CRC (R341). -/
def writeHeader (s : State) (key mask : Nat) : State :=
  let a := s.ms.mem.readBytes key 192
  let body := bytesOfNat 8 mask ++ (a.drop 8).take 182
  let h := body ++ bytesOfNat 2 (crc16 body)
  writeNow s .ladder key (h ++ h)

/-- An audit interrupt (R344): the page's VA in the health record, and LADDER_AUDIT at its owner's queue. -/
def auditPage (s : State) (owner va : Nat) : State :=
  let o : Origin := { bu := 0, slot := 7, block := 0, op := 0, elem := 0, round := 0, region := 0, launch := 0, job := owner }
  let r : FaultRec := { code := Code.ladderAudit.num, level := 0, async := true, die := 0, x := 0, y := 0, slot := 7, block := 0,
                        op := 0, norep := false, address := va, round := 0, tick := s.out.tick % 2 ^ 48, extra := 0, launch := 0 }
  let s1 := s.post r 4 o
  { s1 with out := { s1.out with health := { s1.out.health with audits := s1.out.health.audits ++ [va] } } }

/-- The count of a page set. -/
def setPage (s : State) (owner va : Nat) (p : Option Page) : State :=
  s.modHub (fun h => { h with pages := match p with
    | some q => mapSet (pageKey owner va) q h.pages
    | none => mapDel (pageKey owner va) h.pages })

/-- One more reference to a page (R344): the count after; PAGE_DYING for a dying page, LADDER_ARG for a page not allotted. -/
def pageUp (s : State) (owner va : Nat) : Except Code (Nat × State) :=
  match mapGet (pageKey owner va) s.hub.pages with
  | none => .error .ladderArg
  | some p =>
    if p.dying then .error .pageDying
    else if p.count = 0xFFFF then .ok (0xFFFF, s)
    else
      let s1 := setPage s owner va (some { p with count := p.count + 1 })
      .ok (p.count + 1, if p.count = 0xFFFE then auditPage s1 owner va else s1)

/-- One reference to a page fewer (R344, R345): at 0 it is freed, or dying while a translation entry covers it. -/
def pageDown (s : State) (owner va : Nat) : Except Code (Nat × State) :=
  match mapGet (pageKey owner va) s.hub.pages with
  | none => .error .ladderArg
  | some p =>
    if p.dying then .ok (0xFFFF, auditPage (setPage s owner va (some { p with count := 0xFFFF, dying := false })) owner va)
    else if p.count = 0xFFFF then .ok (0xFFFF, s)
    else if p.count = 1 then
      .ok (0, if s.agCovers owner va then setPage s owner va (some { p with count := 0, dying := true })
        else heapFree (setPage s owner va none) owner va 65536)
    else .ok (p.count - 1, setPage s owner va (some { p with count := p.count - 1 }))

/-! ### Rungs (R322, R329, R330) -/

/-- The rung of a handle. -/
def State.rungOf (s : State) (h : Nat) : Option Rung := mapGet (hSlot h) s.hub.rungs

/-- The state of rung k of a span; 0 when absent. -/
def State.rungState (s : State) (p : Span) (k : Nat) : Nat :=
  if p.has k then (match s.rungOf (p.handle k) with | some r => r.state | none => 0) else 0

/-- The pages that a list of a job's memory names. -/
def pageList (s : State) (job base n : Nat) : Except Code (List Nat) :=
  (List.range n).foldl (fun acc i =>
    match acc with
    | .error c => .error c
    | .ok l => match s.place job (base + 8 * i) false with
      | .error c => .error c
      | .ok t => .ok (l ++ [s.ms.mem.readNat (t.keyOf (base + 8 * i)) 8])) (.ok [])

/-- The pages of an ATTEND rung. -/
def rungPages (s : State) (r : Rung) : List Nat := match pageList s r.owner r.base (r.size / 8) with | .ok l => l | .error _ => []

/-- The lowest unused slot of the rung table (R322); its first is never allotted, as slot 0 of a job's table is not (assumption 22, DEDUCED, unsafe). -/
def freeRung (s : State) : Nat :=
  let used := (s.hub.rungs.filter (fun x => x.2.used)).map (·.1)
  ((List.range (used.length + 1)).find? (fun i => !used.contains (2 ^ 19 + 1 + i))).getD 0 + 2 ^ 19 + 1

/-- A rung handle taken for a span's rung, FILLING (R322, R329): the handle. -/
def takeRung (s : State) (p : Span) (k base size : Nat) : Nat × State :=
  let slot := freeRung s
  let gen := match mapGet slot s.hub.rungs with | some r => r.gen | none => 0
  let r : Rung := { gen := gen, used := true, owner := p.owner, state := 1, base := base, size := size, writers := 0, readers := 0,
                    span := p.slot, rung := k }
  (slot * 2 ^ 12 + gen, s.modHub (fun h => { h with rungs := mapSet slot r h.rungs }))

/-- Pages taken for an ATTEND rung, each with count 1 (R335, R344). -/
def takePages (s : State) (job : Nat) : Nat → Except Code (List Nat × State)
  | 0 => .ok ([], s)
  | n + 1 => match heapTake s job 65536 with
    | .error c => .error c
    | .ok (va, s1) =>
      let s2 := setPage s1 job va (some { count := 1, dying := false, owner := job, va := va })
      match takePages s2 job n with
      | .error c => .error c
      | .ok (l, s3) => .ok (va :: l, s3)

/-- The rung's handle freed: its generation rises, its buffer returns to the heap, and an ATTEND rung unrefs its pages (R322,
R336). -/
def freeRungHandle (s : State) (h : Nat) : State :=
  match s.rungOf h with
  | none => s
  | some r =>
    let s1 := if r.rung = 1 then (rungPages s r).foldl (fun s va => match pageDown s r.owner va with | .ok (_, t) => t | .error _ => s) s
      else s
    let s2 := heapFree s1 r.owner r.base r.size
    let s3 := s2.modHub (fun g => { g with rungs := mapMod (hSlot h) (fun r =>
      { r with used := false, gen := (r.gen + 1) % 4096, state := 0, writers := 0, readers := 0 }) g.rungs })
    failWaits s3 (0, hSlot h)

/-- A span without rung k (R336). -/
def Span.without (p : Span) (k : Nat) : Span :=
  { p with present := p.present - (if p.has k then 2 ^ k else 0), regen := p.regen - (if bitOf p.regen k then 2 ^ k else 0),
           rungs := listMod k (fun _ => 0) p.rungs }

/-- A span with rung k under a handle (R329, R330). -/
def Span.with_ (p : Span) (k h : Nat) (regen : Bool) : Span :=
  let q := p.without k
  { q with present := q.present + 2 ^ k, regen := q.regen + (if regen then 2 ^ k else 0), rungs := listMod k (fun _ => h) q.rungs }

/-- The word of R337 that answers with a rung. -/
def recallWord (p : Span) (k : Nat) : Nat :=
  p.handle k + k * 2 ^ 32 + (if bitOf p.regen k then 2 ^ 35 else 0) + p.length * 2 ^ 36

/-- The word of `probe` (R336). -/
def State.probeWord (s : State) (p : Span) : Nat :=
  p.present + p.regen * 2 ^ 5 + ((List.range 5).map (fun k => s.rungState p k * 2 ^ (10 + 2 * k))).sum + p.cls * 2 ^ 20 +
    (if p.opay then 2 ^ 28 else 0) + (if p.pins = 0 then 0 else 2 ^ 29) + p.length * 2 ^ 36

end Sys2Proof.Machine
end

