-- ==== Sys2Proof/Machine/Streams.lean ====
section
/-!
DEFINITION. The runs of a bank unit's streams: beginning, requests of the eight modes, refills, ends and failures (R257, R261, R262,
R266 to R273, R343, R345, R348 to R350, R383).
-/
namespace Sys2Proof.Machine

/-! ### A run and what one of its requests gives -/

/-- The run of a stream changed. -/
def State.modRun (s : State) (n k : Nat) (f : Run → Run) : State := s.modStrm n k (fun t => { t with run := t.run.map f })

/-- What a request gives: it waits, it needs a translation, it fails with a code, an address and detail, it has made a part of an access
(with the bytes made so far), or it has a value. -/
inductive Got (α : Type) where
  | wait
  | refill (va h : Nat)
  | err (code : Code) (address extra : Nat)
  | part (made : List Byte) (s : State)
  | ok (val : α) (s : State)

/-- What follows a request that has a value. -/
def Got.then_ {α β : Type} (g : Got α) (f : α → State → Got β) : Got β :=
  match g with
  | .wait => .wait
  | .refill va h => .refill va h
  | .err c a x => .err c a x
  | .part bs s => .part bs s
  | .ok v s => f v s

/-- A run as it begins (R270). -/
def Run.start (round launch : Nat) (waitH : List (Nat × Nat × Nat)) : Run :=
  { round := round, pos := 0, pos2 := 0, sub := 0, got := [], pairs := [], todo := [], sbs := [], flags := 0, held := [],
    waitH := waitH, lineRound := round, ended := false, marker := false, err := none, refill := none, part := [], tile := 0,
    launch := launch, writes := [] }

/-- The party that a stream's accesses belong to (R282). -/
def strmParty (n k : Nat) : Party := .ctx n (k / 4)

/-- The bytes of its present access that the run of a stream has made. -/
def State.madePart (s : State) (n k : Nat) : List Byte := match (s.strm n k).run with | some r => r.part | none => []

/-- Bytes at a VA through a stream's entry, line by line: each line is a request of its own (R273), and one that the entry does not cover
waits for a refill (R257), before which `check` is made (R272, R345). Requests to host pages stay pending while the link is down (R396), and
those to peer pages while no link lets them go (R404). -/
def readThrough (s : State) (n k job h va len : Nat) (check : Except Code Unit) : Got (List Byte) :=
  let made := s.madePart n k
  match lineChunks (va + made.length) (len - made.length) with
  | [] => .ok made s
  | c :: rest =>
    if !s.strmCovers n k job c.1 then
      match check with
      | .error e => .err e c.1 0
      | .ok _ => .refill c.1 h
    else match strmKey s n k job c.1 false with
      | .error e => .err e c.1 0
      | .ok key =>
        if !s.mayReach key then .wait
        else if s.ms.bad key c.2 then .err .bankEcc va 0
        else if !s.ms.readable (strmParty n k) key c.2 then .wait
        else
          let (bs, s1) := readMem (s.reach key) (strmParty n k) key c.2
          if rest.isEmpty then .ok (made ++ bs) s1 else .part (made ++ bs) s1

/-- Bytes of the visible copy of a handle's buffer, at an offset (R262, R272). -/
def readBuffer (s : State) (n k h off len : Nat) (kinds : List Nat) : Got (List Byte) :=
  let job := s.jobOf n
  match s.hentKind job h kinds with
  | .error c => .err c 0 0
  | .ok e => if e.size < off + len then .err .handleRange off 0 else readThrough s n k (s.hJob job h) h (e.base + off) len (.ok ())

/-- Bytes written by a run at a key (R272, R285, R383): the write waits to perform, and one that is not for the shadow, whose handle is
given by job and slot, is held in the write log of a replayable round. Its number. -/
def writeLine (s : State) (n k rd : Nat) (shadow : Option (Nat × Nat)) (key : Nat) (bytes : List Byte) : Nat × State :=
  let (id, s1) := s.freshFor bytes.length
  let (held, s2) := if shadow.isSome then (false, s1) else logItem s1 n rd 2 (.line id)
  let party := strmParty n k
  let w : PWrite := { w := { id := id, key := key, bytes := bytes, party := party, past := s2.ms.past party, rel := [] },
                      org := none, after := [], ends := none, logged := held, shadow := shadow }
  (id, { s2 with ms := ({ s2.ms with pending := s2.ms.pending ++ [w] }).join party w.w.ids })

/-- Bytes written to a handle's buffer at an offset, line by line: the visible copy, or the shadow. The numbers of the writes of the last
request; the run holds those before it. -/
def writeBuffer (s : State) (n k h off rd : Nat) (shadow : Bool) (bytes : List Byte) : Got (List Nat) :=
  let job := s.jobOf n
  match s.hent job h with
  | .error c => .err c 0 0
  | .ok e =>
    if e.size < off + bytes.length then .err .handleRange off 0
    else
      let hj := s.hJob job h
      let va := (if shadow then e.shadow else e.base) + off
      let made := (s.madePart n k).length
      match lineChunks (va + made) (bytes.length - made) with
      | [] => .ok [] s
      | c :: rest =>
        if !s.strmCovers n k hj c.1 then .refill c.1 h
        else match strmKey s n k hj c.1 true with
          | .error e => .err e c.1 0
          | .ok key =>
            let (id, s1) := writeLine s n k rd (if shadow then some (job, hSlot h) else none) key ((bytes.drop made).take c.2)
            if rest.isEmpty then .ok [id] s1
            else .part (bytes.take (made + c.2)) (s1.modRun n k (fun r => { r with writes := r.writes ++ [id] }))

/-! ### The stream's words -/

/-- What a run of a stream works from: its program, its words and its context. -/
structure SV where
  n : Nat
  k : Nat
  p : StrmProg
  w : Nat → Nat
  slot : Nat
  h : Nat

/-- The view of stream k of a bank unit. -/
def State.sv (s : State) (n k : Nat) : SV :=
  { n := n, k := k, p := s.strmProg n k, w := s.strmWord n (k / 4) (k % 4), slot := k / 4, h := (s.strm n k).handle }

/-- The send entries of the QO that a `dir` 0 run delivers to; a CSR run has two (R268). -/
def SV.qo (v : SV) (s : State) (j : Nat) : List SendEnt := qoOf (s.routes v.n) v.slot (v.p.index + j)
/-- The receive entry of the QI that a `dir` 1 run pops. -/
def SV.qi (v : SV) (s : State) : Option QiEnt := qiOf (s.routes v.n) v.slot v.p.index

/-- Bytes of a token of its channel, 64 of a ring entry or a bank line (R271). -/
def SV.unit (v : SV) (s : State) : Nat :=
  if v.p.end_ ≠ 0 then 64
  else if v.p.dir = 0 then (match v.qo s 0 with | e :: _ => if e.form = 1 then 64 else 8 | [] => 64)
  else match v.qi s with | some e => if e.form = 1 then 64 else 8 | none => 64

/-- A run with tokens or lines to deliver, each with its sideband or the queue it goes to. -/
def Run.give (r : Run) (ls : List (Line × Word)) : Run := { r with todo := r.todo ++ ls.map (·.1), sbs := r.sbs ++ ls.map (·.2) }

/-! ### Modes from memory to the fabric (R271) -/

/-- LINE: one token, line or entry. -/
def produceLine (v : SV) (r : Run) (s : State) : Got Run :=
  let u := v.unit s
  let total := v.w 3
  let off := r.pos * u
  if total ≤ off then .ok { r with ended := true } s
  else
    (readBuffer s v.n v.k v.h (v.w 2 + off) (min u (total - off)) []).then_ (fun bs s1 =>
      .ok { (r.give [(lineOfBytes bs, rawSideband)]) with pos := r.pos + 1, ended := total ≤ off + u } s1)

/-- A shape record breaks R266. -/
def shapeBad (rec_ : Nat) : Bool :=
  let rank := bitsOf rec_ 0 8
  rank = 0 || 6 < rank || 13 < bitsOf rec_ 8 8 || bitsOf rec_ 16 48 ≠ 0 || bitsOf rec_ 448 64 ≠ 0 ||
    (List.range 6).any (fun i =>
      if i < rank then bitsOf rec_ (64 + 32 * i) 32 = 0
      else bitsOf rec_ (64 + 32 * i) 32 ≠ 0 || bitsOf rec_ (256 + 32 * i) 32 ≠ 0)

/-- Elements of a shape. -/
def shapeCount (rec_ : Nat) : Nat :=
  (List.range (bitsOf rec_ 0 8)).foldl (fun n i => n * bitsOf rec_ (64 + 32 * i) 32) 1

/-- The offset of element e of a shape, `dim`[0] fastest. -/
def shapeOffset (rec_ e : Nat) : Int :=
  ((List.range (bitsOf rec_ 0 8)).foldl (fun (a : Nat × Int) i =>
    let d := bitsOf rec_ (64 + 32 * i) 32
    (a.1 / d, a.2 + ((a.1 % d : Nat) : Int) * signedOf 32 (bitsOf rec_ (256 + 32 * i) 32))) (e, 0)).2

/-- Bytes of an element of a shape. -/
def shapeElem (rec_ : Nat) : Nat := (Ty.ofCode (bitsOf rec_ 8 8)).bytes

/-- GRID begins with its shape record (R266); then what an element needs is done with it. -/
def withShape (v : SV) (r : Run) (s : State) (f : Nat → Got Run) : Got Run :=
  match r.pairs with
  | x :: _ => f x
  | [] =>
    (readBuffer s v.n v.k (v.w 1 % 2 ^ 32) 0 64 [2]).then_ (fun bs s1 =>
      let x := natOfBytes bs
      if shapeBad x then .err .handleShape 0 0 else .ok { r with pairs := [x] } s1)

/-- The offset of element e of a GRID run in its buffer (R271). -/
def SV.gridOff (v : SV) (x e : Nat) : Nat := wrapNat 64 ((v.w 2 : Int) + shapeOffset x e)

/-- GRID: one element, packed with those before it. -/
def produceGrid (v : SV) (r : Run) (s : State) : Got Run :=
  withShape v r s (fun x =>
    (readBuffer s v.n v.k v.h (v.gridOff x r.pos) (shapeElem x) []).then_ (fun bs s1 =>
      let got := r.got ++ bs
      let done := r.pos + 1 = shapeCount x
      if done || got.length = v.unit s then
        .ok { (r.give [(lineOfBytes got, 0)]) with pos := r.pos + 1, got := [], ended := done } s1
      else .ok { r with pos := r.pos + 1, got := got } s1))

/-- The row pointers of a CSR row or a BSR block row: its first entry and its count (assumption 30, PRESUMED, unsafe). -/
def readRow (v : SV) (r : Run) (s : State) : Got (Nat × Nat) :=
  (readBuffer s v.n v.k v.h (v.w 2 + 4 * (v.w 4 + r.pos)) 8 []).then_ (fun bs s1 =>
    let a := natOfBytes (bs.take 4)
    .ok (a, wrapNat 32 ((natOfBytes (bs.drop 4) : Int) - a)) s1)

/-- Free values in the value lanes that a part-filled CSR token leaves open, above `used` bytes. -/
def openLanes (s : State) (used : Nat) : List Byte × State :=
  let n := (64 - used) / 4
  ((List.range n).flatMap (fun i => bytesOfNat 4 (Config.freeWord (s.my.freeCtr + i)).toNat),
   { s with my := { s.my with freeCtr := s.my.freeCtr + n } })

/-- CSR: a row's count token, then its index and value tokens in pairs (R204, R271). -/
def produceCsr (v : SV) (r : Run) (s : State) : Got Run :=
  let rows := v.w 5
  let lastRow := r.pos + 1 = rows
  let start := r.pairs.getD 0 0
  let count := r.pairs.getD 1 0
  let m := min 16 (count - r.pos2)
  if rows ≤ r.pos then .ok { r with ended := true } s
  else
    match r.sub with
    | 0 =>
      (readRow v r s).then_ (fun x s1 =>
        let r1 := { (r.give [(BitVec.ofNat 512 x.2, 0)]) with pairs := [x.1, x.2], pos2 := 0 }
        if x.2 = 0 then .ok { r1 with pos := r.pos + 1, ended := lastRow } s1 else .ok { r1 with sub := 1 } s1)
    | 1 =>
      (readBuffer s v.n v.k (v.w 1 % 2 ^ 32) (4 * (start + r.pos2)) (4 * m) []).then_ (fun bs s1 =>
        .ok { r with got := bs ++ List.replicate (64 - bs.length) 255, sub := 2 } s1)
    | _ =>
      (readBuffer s v.n v.k (v.w 3 % 2 ^ 32) (4 * (start + r.pos2)) (4 * m) []).then_ (fun bs s1 =>
        let (pad, s2) := openLanes s1 bs.length
        let r1 := { (r.give [(lineOfBytes r.got, 0), (lineOfBytes (bs ++ pad), 1)]) with got := [], pos2 := r.pos2 + m }
        if count ≤ r.pos2 + m then .ok { r1 with pos := r.pos + 1, sub := 0, ended := lastRow } s2 else .ok { r1 with sub := 1 } s2)

/-- BSR: the rows of each block, as ring entries (R204, R271). -/
def produceBsr (v : SV) (r : Run) (s : State) : Got Run :=
  let rows := v.w 5
  let lastRow := r.pos + 1 = rows
  let start := r.pairs.getD 0 0
  let count := r.pairs.getD 1 0
  if rows ≤ r.pos then .ok { r with ended := true } s
  else
    match r.sub with
    | 0 =>
      (readRow v r s).then_ (fun x s1 =>
        let r1 := { r with pairs := [x.1, x.2] }
        if x.2 = 0 then .ok { r1 with pos := r.pos + 1, ended := lastRow } s1 else .ok { r1 with sub := 1, pos2 := 0 } s1)
    | _ =>
      (readBuffer s v.n v.k (v.w 3 % 2 ^ 32) (64 * (8 * start + r.pos2)) 64 []).then_ (fun bs s1 =>
        let r1 := { (r.give [(lineOfBytes bs, rawSideband)]) with pos2 := r.pos2 + 1 }
        if r.pos2 + 1 = 8 * count then .ok { r1 with pos := r.pos + 1, sub := 0, ended := lastRow } s1 else .ok r1 s1)

/-- The sideband of a DESC entry. -/
def descSideband (s64 s256 : Nat) : Word := BitVec.ofNat 64 (s64 + s256 * 2 ^ 16)

/-- The ring entries of a described block (R271): `most` element blocks of a superblock. -/
def descEntries (bs : List Byte) (most : Nat) : List (Line × Word) :=
  let b (k : Nat) : Nat := (bs.getD k 0).toNat
  if b 0 = 0x5F then
    (List.range (min 4 most)).map (fun i =>
      (lineOfBytes ((bs.drop (10 + 34 * i)).take 32), descSideband (b (9 + 34 * i)) (natOfBytes ((bs.drop 4).take 4))))
  else
    (List.range ((bs.length - 2) / 64)).map (fun i => (lineOfBytes ((bs.drop (2 + 64 * i)).take 64), descSideband (b 1) 0x3F800000))

/-- DESC: the next bytes of a block; with its last, its entries or its FORMAT failure (R148, R271). (assumption 70, DEDUCED, unsafe) -/
def produceDesc (v : SV) (r : Run) (s : State) : Got Run :=
  let total := v.w 3
  let need := match r.got with | [] => 1 | b :: _ => blockLen b.toNat
  let off := v.w 2 + r.pos2 + r.got.length
  let more := min (need - r.got.length) (64 - off % 64)
  if total ≤ r.pos then .ok { r with ended := true } s
  else
    (readBuffer s v.n v.k v.h off more []).then_ (fun bs s1 =>
      let got := r.got ++ bs
      let len := blockLen (got.getD 0 0).toNat
      if got.length < len then .ok { r with got := got } s1
      else
        match checkBlock got (v.w 2 + r.pos2) with
        | some e =>
          let base := match s1.hent (s1.jobOf v.n) v.h with | .ok x => x.base | .error _ => 0
          .err .format (base + v.w 2 + r.pos2 + e.at_) (e.byte + e.reason * 2 ^ 8)
        | none =>
          let n := if got.getD 0 0 = 0x5F then 4 else 1
          .ok { (r.give (descEntries got (total - r.pos))) with
                pos := r.pos + n, pos2 := r.pos2 + len, got := [], ended := total ≤ r.pos + n } s1)

/-- A GATHER run with one more element. -/
def gatherPack (v : SV) (r : Run) (elem : List Byte) (flags : Nat) (s : State) : Got Run :=
  let got := r.got ++ elem
  let done := r.pos + 1 = v.w 3
  let r1 := { r with pos := r.pos + 1, sub := 0, pairs := [], flags := fOr r.flags flags }
  if done || got.length = 64 then .ok { (r1.give [(lineOfBytes got, 0)]) with got := [], ended := done } s
  else .ok { r1 with got := got } s

/-- GATHER: an index, then its element (R271). -/
def produceGather (v : SV) (r : Run) (s : State) : Got Run :=
  let size := 2 ^ (v.w 4 % 8)
  if v.w 3 ≤ r.pos then .ok { r with ended := true } s
  else
    match r.pairs with
    | [] =>
      (readBuffer s v.n v.k (v.w 1 % 2 ^ 32) (4 * r.pos) 4 []).then_ (fun bs s1 => .ok { r with pairs := [natOfBytes bs] } s1)
    | x :: _ =>
      let off := v.w 2 + x * size
      match s.hent (s.jobOf v.n) v.h with
      | .error c => .err c 0 0
      | .ok e =>
        if x = 0xFFFFFFFF then gatherPack v r (List.replicate size 0) 0 s
        else if e.size < off + size then
          (if v.p.ot then .err .devRange off 0 else gatherPack v r (List.replicate size 0) fOob s)
        else (readBuffer s v.n v.k v.h off size []).then_ (fun bs s1 => gatherPack v r bs 0 s1)

/-- A token of pairs, the rest of it all ones (R271). -/
def pairLine (ps : List Nat) : Line := lineOfBytes (ps.flatMap (bytesOfNat 4) ++ List.replicate (64 - 4 * ps.length) 255)

/-- ISECT: the next value of A, then of B with the comparison (R271). (assumption 63, DESIGN CHOICE, unsafe) -/
def produceIsect (v : SV) (r : Run) (s : State) : Got Run :=
  if v.w 3 ≤ r.pos || v.w 4 ≤ r.pos2 then
    .ok { (if r.pairs.isEmpty then r else r.give [(pairLine r.pairs, 0)]) with pairs := [], got := [], ended := true } s
  else
    match r.got with
    | [] => (readBuffer s v.n v.k v.h (v.w 2 + 4 * r.pos) 4 []).then_ (fun bs s1 => .ok { r with got := bs } s1)
    | _ =>
      (readBuffer s v.n v.k (v.w 1 % 2 ^ 32) (4 * r.pos2) 4 []).then_ (fun bs s1 =>
        let a := natOfBytes r.got
        let b := natOfBytes bs
        if a = b then
          let r1 := if r.pairs.length = 16 then { (r.give [(pairLine r.pairs, 0)]) with pairs := [] } else r
          .ok { r1 with pairs := r1.pairs ++ [r.pos, r.pos2], got := [], pos := r.pos + 1, pos2 := r.pos2 + 1 } s1
        else if a < b then .ok { r with got := [], pos := r.pos + 1 } s1
        else .ok { r with pos2 := r.pos2 + 1 } s1)

/-! ### SNAKE (R343, R348 to R350) -/

/-- Where a position is served from. -/
inductive Served where
  | page
  | tile (bu : Nat)
  | chain
  | lost
deriving DecidableEq, Repr

/-- The tile or page of a position, from a bank unit on along the chain (R349); `lost` when the chain does not end. -/
def serveFrom (s : State) (rid kvt p : Nat) : Nat → Nat → Served
  | 0, _ => .lost
  | fuel + 1, n =>
    let kv := (s.bu n).kv
    let none_ := bitOf kv.lim 32
    if !bitOf kv.cfg 0 then .page
    else if kvt = 8 then .chain
    else if !none_ && kv.base ≤ p && p ≤ bitsOf kv.lim 0 32 then .tile n
    else if !none_ && p < kv.base then .chain
    else if bitOf kv.cfg 1 then .page
    else match s.regionBu rid (bitsOf kv.cfg 14 2) (bitsOf kv.cfg 16 7) (bitsOf kv.cfg 23 6) with
      | some m => if (s.bu m).region = some rid then serveFrom s rid kvt p fuel m else .chain
      | none => .chain

/-- What a SNAKE run keeps in `pairs`: the length, `kvl`, `kvt`, the owner, the page list's VA and bytes, the open page's number
plus one, and its VA plus one. -/
def Run.snake (r : Run) (i : Nat) : Nat := r.pairs.getD i 0

/-- SNAKE begins by resolving its rung (R349). -/
def snakeOpen (v : SV) (r : Run) (s : State) : Got Run :=
  let job := s.jobOf v.n
  match s.hentKind job v.h [3] with
  | .error c => .err c 0 0
  | .ok e =>
    match s.rungOf v.h with
    | none => .err .handle 0 0
    | some g =>
      let p := s.span g.span
      if g.rung ≠ 1 then .err .handleKind 0 0
      else match mapGet p.cls s.hub.classes with
        | none => .err .kvChain 0 0
        | some c =>
          let r1 := { r with pairs := [p.length, classKvl c, classKvt c, g.owner, e.base, e.size, 0, 0] }
          if p.length ≤ v.w 3 then .ok { (r1.give [(0, 0)]) with flags := fOr r.flags fEmpty, ended := true } s
          else if v.w 4 = 0 then .ok { r1 with ended := true } s
          else .ok r1 s

/-- The check that a new translation of a rung's memory makes on its handle (R260). -/
def rungCheck (s : State) (v : SV) : Except Code Unit := match s.hent (s.jobOf v.n) v.h with | .ok _ => .ok () | .error c => .error c

/-- SNAKE opens a page: the list's entry, then the header with its checks (R342). -/
def snakePage (v : SV) (r : Run) (s : State) (q : Nat) : Got Run :=
  let owner := r.snake 3
  let put (va : Nat) (hdr : List Byte) : Run :=
    { r with pairs := [r.snake 0, r.snake 1, r.snake 2, owner, r.snake 4, r.snake 5, if hdr.isEmpty then 0 else q + 1, va + 1], got := hdr,
             sub := 0 }
  if r.sub = 0 || r.got.length ≠ 0 || r.snake 7 = 0 then
    if r.snake 5 < 8 * q + 8 then .err .handleRange (8 * q) 0
    else (readThrough s v.n v.k owner v.h (r.snake 4 + 8 * q) 8 (rungCheck s v)).then_ (fun bs s1 =>
      .ok { (put (natOfBytes bs) []) with sub := 1 } s1)
  else
    let va := r.snake 7 - 1
    if !s.strmCovers v.n v.k owner va then
      (match rungCheck s v with | .error c => .err c va 0 | .ok _ => .refill va v.h)
    else match strmKey s v.n v.k owner va false with
      | .error c => .err c va 0
      | .ok key =>
        if !s.mayReach key then .wait
        else
        let (hdr, fixed, s1) := useHeader (s.reach key) (strmParty v.n v.k) key (r.snake 1) (r.snake 2)
        let s2 := if fixed then logSoft s1 (s1.originOf v.n v.slot (s1.ctx v.n v.slot).regs.bc.toNat 0 0) 6 owner va else s1
        match hdr with
        | none => .ok { r with err := some (Code.kvEcc.num, va, 0) } s2
        | some h => .ok (put va h) s2

/-- The token that follows token `sub` of a position: the next of it, or the first of the next position. -/
def snakeStep (v : SV) (r : Run) (tokens : Nat) (line : Line) : Run :=
  let p := v.w 3 + r.pos
  let stop := min (v.w 3 + v.w 4) (r.snake 0)
  let r1 := r.give [(line, 0)]
  if r.sub + 1 < tokens then { r1 with sub := r.sub + 1 }
  else { r1 with sub := 0, pos := r.pos + 1, ended := stop ≤ p + 1 }

/-- One token of a position that a page serves (R341, R343, R349). -/
def snakeFromPage (v : SV) (r : Run) (s : State) (p : Nat) : Got Run :=
  let kvl := r.snake 1
  let i := p % 64
  let va := r.snake 7 - 1
  let scales := if r.snake 2 = 8 && (r.pos = 0 || i = 0) then 2 else 0
  let tokens := scales + 2 * kvl
  if !bitOf (recField r.got 0 8) i then .err .kvChain va 0
  else if r.sub < scales then .ok (snakeStep v r tokens (lineOfBytes ((r.got.drop (16 + 64 * r.sub)).take 64))) s
  else
    let j := r.sub - scales
    let off := if j < kvl then 384 + i * 64 * kvl + 64 * j else 384 + 4096 * kvl + i * 64 * kvl + 64 * (j - kvl)
    let a := va + off
    if !s.strmCovers v.n v.k (r.snake 3) a then
      (match rungCheck s v with | .error c => .err c a 0 | .ok _ => .refill a v.h)
    else match strmKey s v.n v.k (r.snake 3) a false with
      | .error c => .err c a 0
      | .ok key =>
        let soft := s.ms.softWords.any (fun w => w < key + 64 && key < w + 8)
        if !s.mayReach key then .wait
        else if s.ms.bad key 64 || (soft && !(s.bu v.n).kv.tol) then .err .kvEcc a 0
        else if !s.ms.readable (strmParty v.n v.k) key 64 then .wait
        else
          let s1 := if soft then logSoft s (s.originOf v.n v.slot (s.ctx v.n v.slot).regs.bc.toNat 0 0) 6 (r.snake 3) va else s
          let (bs, s2) := readMem (s1.reach key) (strmParty v.n v.k) key 64
          .ok (snakeStep v r tokens (lineOfBytes bs)) s2

/-- One token of a position that a tile serves (R348). -/
def snakeFromTile (v : SV) (r : Run) (s : State) (p m : Nat) : Got Run :=
  let kv := (s.bu m).kv
  let kvl := r.snake 1
  let off := 64 * (bitsOf kv.cfg 4 10 + (p - kv.base) * 2 * kvl + r.sub)
  let win := s.window m (bitsOf kv.cfg 2 2)
  if !inRange win off 64 then .err .kvChain 0 0
  else if (badWordIn (s.bu m) noneOwn (win.1 + off) 64).isSome then .err .bankEcc off 0
  else .ok (snakeStep v r (2 * kvl) (lineOfBytes ((s.bu m).bank.readBytes (win.1 + off) 64))) s

/-- SNAKE: one token of one position (R349). (assumption 71, DEDUCED, unsafe) -/
def produceSnake (v : SV) (r : Run) (s : State) : Got Run :=
  if r.pairs.isEmpty then snakeOpen v r s
  else
    let p := v.w 3 + r.pos
    match (s.bu v.n).region with
    | none => .wait
    | some rid =>
      match serveFrom s rid (r.snake 2) p (s.peersOf v.n).length.succ v.n with
      | .lost => .wait
      | .chain => .err .kvChain 0 0
      | .tile m => snakeFromTile v r s p m
      | .page => if r.snake 6 = p / 64 + 1 then snakeFromPage v r s p else snakePage v r s (p / 64)

/-- The next work of a `dir` 0 run (R271). -/
def produce (v : SV) (r : Run) (s : State) : Got Run :=
  match v.p.mode with
  | 1 => produceLine v r s
  | 2 => produceGrid v r s
  | 3 => produceCsr v r s
  | 4 => produceBsr v r s
  | 5 => produceDesc v r s
  | 6 => produceGather v r s
  | 7 => produceIsect v r s
  | _ => produceSnake v r s

/-! ### Delivery (R269, R271, R383) -/

/-- A token on a QO of a stream, logged for replay (R269, R383); `j` counts its queues. -/
def sendStrm (s : State) (v : SV) (j : Nat) (kind : TKind) (round : Nat) (payload : Line) (last : Bool) : State :=
  let es := v.qo s j
  let t := mkToken kind round 0 payload last
  let s1 := sendAll s v.n es [] [] t
  let lines := match es with | e :: _ => if e.form = 1 then 2 else 1 | [] => 1
  logReplay s1 v.n (s1.tagRound v.n v.slot round) lines (.token (16 * v.k + v.p.index + j) t)

/-- The first token or line that waits is delivered: on its QO with room, in its ring with room, or to its line of the window. -/
def deliverOne (v : SV) (r : Run) (s : State) : Got Run :=
  match r.todo, r.sbs with
  | l :: ls, sb :: ss =>
    let r1 := { r with todo := ls, sbs := ss }
    match v.p.end_ with
    | 0 =>
      let j := if v.p.mode = 3 then sb.toNat else 0
      if (s.bu v.n).room (v.qo s j) = 0 then .wait
      else .ok r1 (sendStrm s v j .data r.round l (r.ended && ls.isEmpty))
    | 1 =>
      let k := 4 * v.slot + v.p.index
      let g := (s.bu v.n).node.rings[Fin.ofNat 16 k]
      let tile := if v.p.mode = 4 then (r.tile + 1) % 8 else 0
      if (s.ringOf v.n k).2 < g.count + 1 || (r.tile = 0 && (s.ringHeld v.n k || (v.p.mode = 4 && g.tail % 8 ≠ 0))) then .wait
      else .ok { r1 with tile := tile } (ringPushOne s v.n k l sb)
    | _ =>
      let off := v.w 4 + 64 * r.pos2
      let win := s.window v.n v.slot
      if !inRange win off 64 then .err .bankRange off 0
      else .ok { r1 with pos2 := r.pos2 + 1 } (bankWrite s v.n (s.tagRound v.n v.slot r.round) (win.1 + off) (lineBytes l))
  | _, _ => .ok r s

/-- A request of a `dir` 0 run: what waits is delivered first, then the next unit is produced; a `mark` follows the last token
(R267). -/
def request0 (v : SV) (r : Run) (s : State) : Got Run :=
  if !r.todo.isEmpty then deliverOne v r s
  else if !r.ended then produce v r s
  else if v.p.mark && v.p.end_ = 0 && !r.marker then
    let js := if v.p.mode = 3 then [0, 1] else [0]
    if js.any (fun j => (s.bu v.n).room (v.qo s j) = 0) then .wait
    else .ok { r with marker := true } (js.foldl (fun s j => sendStrm s v j .marker r.round 0 false) s)
  else .wait

/-! ### Modes from the fabric to memory (R271) -/

/-- The round of the token that a `dir` 1 run would take next. -/
def headRound (v : SV) (s : State) (d : Nat) : Nat :=
  match v.qi s with
  | some e => (match (s.bu v.n).queue e.entry with | t :: _ => t.round | [] => d)
  | none => d

/-- The next token or bank line of a `dir` 1 run: markers are discarded, and poison fails the run (R271, R272). -/
def takeUnit (v : SV) (r : Run) (s : State) : Got Run :=
  if v.p.end_ = 0 then
    match v.qi s with
    | none => .wait
    | some e =>
      match (s.bu v.n).queue e.entry with
      | [] => .wait
      | t :: _ =>
        let s1 := popTokens s v.n v.slot v.p.index 1
        match t.kind with
        | .marker => .ok r s1
        | .poison => .err .poison 0 t.route
        | _ =>
          .ok { r with got := bytesOfNat (v.unit s) t.payload.toNat, lineRound := t.round, sbs := r.sbs ++ [BitVec.ofNat 64 t.round] }
            (noteSeen s1 (strmParty v.n v.k) t.rel)
  else
    let off := v.w 4 + 64 * r.pos2
    let win := s.window v.n v.slot
    if !inRange win off 64 then .err .bankRange off 0
    else if (badWordIn (s.bu v.n) noneOwn (win.1 + off) 64).isSome then .err .bankEcc off 0
    else .ok { r with got := (s.bu v.n).bank.readBytes (win.1 + off) 64, pos2 := r.pos2 + 1 } s

/-- A request of a `dir` 1 run that writes: LINE a token's bytes, GRID one element. -/
def putUnit (v : SV) (r : Run) (s : State) : Got Run :=
  let rd := s.tagRound v.n v.slot r.lineRound
  if v.p.mode = 1 then
    let u := v.unit s
    let off := r.pos * u
    (writeBuffer s v.n v.k v.h (v.w 2 + off) rd v.p.shadow (r.got.take (min u (v.w 3 - off)))).then_ (fun ids s1 =>
      .ok { r with got := [], pos := r.pos + 1, writes := r.writes ++ ids, ended := v.w 3 ≤ off + u } s1)
  else
    withShape v r s (fun x =>
      (writeBuffer s v.n v.k v.h (v.gridOff x r.pos) rd v.p.shadow (r.got.take (shapeElem x))).then_ (fun ids s1 =>
        let done := r.pos + 1 = shapeCount x
        .ok { r with got := if done then [] else r.got.drop (shapeElem x), pos := r.pos + 1, writes := r.writes ++ ids, ended := done } s1))

/-- A request of a `dir` 1 run. -/
def request1 (v : SV) (r : Run) (s : State) : Got Run :=
  if r.ended then .wait
  else if v.p.mode = 1 && v.w 3 ≤ r.pos * v.unit s then .ok { r with ended := true } s
  else if r.got.isEmpty then takeUnit v r s
  else putUnit v r s

/-! ### The steps of a run -/

/-- The next token that a rollback redelivers, when its QO has room (R386). -/
def redeliver (s : State) (n k : Nat) (x : Nat × Token) : State :=
  let es := qoOf (s.routes n) (k / 4) x.1
  if (s.bu n).room es = 0 then s
  else (sendAll s n es [] [] x.2).modStrm n k (fun t => { t with redo := t.redo.drop 1 })

/-- STREAM_REQUEST: one request of a stream (R257, R271): to memory through the port of its address generator, when the cycle's slot is the
stream's (R273); tokens to redeliver go first (R386). -/
def execStreamRequest (s : State) : Host.Outcome State Fault Refusal :=
  let n := s.my.arg.n
  let k := s.my.arg.m
  nextState (
    match (s.strm n k).redo, (s.strm n k).run with
    | x :: _, _ => if (s.bu n).frozen.isEmpty then redeliver s n k x else s
    | [], none => s
    | [], some r =>
      let v := s.sv n k
      let memory := (s.strm n k).wantsMemory v.p
      if !requestReady (s.bu n) r || (memory && !s.portTurn n k) then s
      else
        let s0 := if memory then s.usePort n else s
        match (if v.p.dir = 0 then request0 v r s0 else request1 v r s0) with
        | .wait => s
        | .refill va h => let (id, s1) := s.fresh; s1.modRun n k (fun r => { r with refill := some (va, h, id) })
        | .part made s1 => s1.modRun n k (fun r => { r with part := made })
        | .err c a x =>
          let s1 := if c = .poison then popTokens s n v.slot v.p.index 1 else s
          let rd := if c = .poison then headRound v s r.lineRound else r.lineRound
          s1.modRun n k (fun r => { r with err := some (c.num, a, x), lineRound := rd })
        | .ok r1 s1 => s1.modRun n k (fun x => { r1 with part := [], writes := joinNats x.writes r1.writes }))

/-- TRANSLATION_REFILL: a walker of the die, to which refills come in arrival order, fills a stream's translation entry, or the run fails
(R256, R257). -/
def execTranslationRefill (s : State) : Host.Outcome State Fault Refusal :=
  let n := s.my.arg.n
  let k := s.my.arg.m
  nextState (
    match (s.strm n k).run.bind (·.refill) with
    | none => s
    | some (va, h, num) =>
      if !s.atWalker n num then s
      else match refill s n k (s.hJob (s.jobOf n) h) va h with
        | (.ok _, s1) => s1.modRun n k (fun r => { r with refill := none })
        | (.error c, s1) => s1.modRun n k (fun r => { r with refill := none, err := some (c.num, va, 0) }))

/-- The streams of a bank unit with a run in progress (R270). -/
def Bu.runs (b : Bu) : Nat := (b.strms.toList.filter (fun t => t.run.isSome)).length

/-- No other waiting stream started before stream k (R270). -/
def Bu.firstStart (b : Bu) (k : Nat) : Bool :=
  match (b.strms[Fin.ofNat 16 k]).order.head? with
  | none => false
  | some o => b.strms.toList.all (fun t => t.run.isSome || (match t.order.head? with | some x => o ≤ x | none => true))

/-- The handles that a run asks for as it begins, and its role at each: 0 writer, 1 writer through the shadow, 2 draining reader
(R270). -/
def beginRoles (v : SV) : List (Nat × Nat) :=
  let other := v.w 1 % 2 ^ 32
  if v.p.dir = 1 then [(v.h, if v.p.shadow then 1 else 0)]
  else if v.p.mode = 7 then [(v.h, 2), (other, 2)]
  else (if v.p.consume then [(v.h, 2)] else []) ++ (if v.p.mode = 6 then [(other, 2)] else [])

/-- Requests to the handle unit, each with a number. -/
def askHandles (s : State) : List (Nat × Nat) → List (Nat × Nat × Nat) × State
  | [] => ([], s)
  | x :: rest =>
    let (id, s1) := s.fresh
    let (l, s2) := askHandles s1 rest
    ((id, x.1, x.2) :: l, s2)

/-- STREAM_RUN_BEGIN: a run of a stream begins (R269, R270). -/
def execStreamRunBegin (s : State) : Host.Outcome State Fault Refusal :=
  let n := s.my.arg.n
  let k := s.my.arg.m
  let b := s.bu n
  let t := s.strm n k
  nextState (
    if t.pend = 0 || t.run.isSome || 4 ≤ b.runs || !b.frozen.isEmpty || !b.firstStart k then s
    else
      let v := s.sv n k
      let (w, s1) := askHandles s (beginRoles v)
      let launch := ((s.ctx n v.slot).launch.orElse (fun _ => (s.regionOf n).bind (·.running))).getD 0
      s1.modStrm n k (fun t => { t with
        pend := t.pend - 1, order := t.order.drop 1, failed := false,
        run := some (Run.start (s.ctx n v.slot).regs.round launch w) }))

/-- The writes of a run that the write log holds. -/
def runPending (s : State) (r : Run) : List Nat := r.writes.filter (fun id => s.ms.pending.any (fun p => p.w.id == id && p.logged))

/-- The counts of a run end (R261): at once, or, when the write log holds lines of it, a writer's with the last of them. -/
def endRoles (s : State) (job : Nat) (r : Run) (fin consume : Bool) : State :=
  let left := runPending s r
  r.held.foldl (fun s x =>
    match x.2, left.getLast? with
    | 2, _ => endRole s job x.1 2 false consume
    | role, none => endRole s job x.1 role fin false
    | role, some id =>
      { s with ms := { s.ms with pending := s.ms.pending.map (fun p =>
          if p.w.id == id then { p with ends := some (job, x.1, role, fin), after := p.after ++ left.filter (· != id) } else p) } }) s

/-- The copy entries of a launch whose stream completed a run (R277). -/
def copyEnded (s : State) (n k launch : Nat) : State :=
  let b := s.bu n
  s.modHub (fun h => { h with launches := mapMod launch (fun l => { l with copies := l.copies.map (fun e =>
    if e.released && e.die = b.offDie && e.x = b.offX && e.y = b.offY && 4 * e.slot + e.stream = k
    then { e with ended := true } else e) }) h.launches })

/-- A run is over: it has nothing left to do, deliver or mark. -/
def runOver (p : StrmProg) (r : Run) : Bool :=
  r.ended && r.todo.isEmpty && r.err.isNone && (p.dir = 1 || !p.mark || p.end_ ≠ 0 || r.marker)

/-- STREAM_RUN_END: a run makes its end-of-run changes, ORs its flags and pulses its source (R225, R261, R270, R290). -/
def execStreamRunEnd (s : State) : Host.Outcome State Fault Refusal :=
  let n := s.my.arg.n
  let k := s.my.arg.m
  nextState (
    match (s.strm n k).run with
    | none => s
    | some r =>
      let p := s.strmProg n k
      if !runOver p r || !(s.bu n).frozen.isEmpty || !(s.strm n k).redo.isEmpty then s
      else
        let s1 := endRoles s (s.jobOf n) r p.fin p.consume
        let s2 := s1.modRegs n (k / 4) (fun g => { g with flags := joinFlags g.flags r.flags })
        let again := p.dir = 1 && s.replayable n (s.tagRound n (k / 4) r.lineRound)
        let s3 := s2.modStrm n k (fun t => { t with run := none, runs := (t.runs + 1) % 2 ^ 16, old := if again then t.old ++ [r] else t.old })
        let s4 := copyEnded s3 n k r.launch
        if p.pulse then
          s4.modBu n (fun b => { b with ev := { b.ev with pulses := b.ev.pulses ++ [(8 + k, strmParty n k, s4.ms.past (strmParty n k))] } })
        else s4)

/-- A run stops as one that fails does: its counts are released without end-of-run changes, and `failed` is set (R272). -/
def stopRun (s : State) (n k : Nat) (r : Run) : State :=
  (endRoles (r.waitH.foldl (fun s w => leavePlace s (hKey (s.jobOf n) w.2.1) w.1) s) (s.jobOf n) r false false).modStrm n k (fun t =>
    { t with run := none, failed := true })

/-- The report of a failed run (R272, R373): slot 6, operation 0 of the context's block. -/
def postRun (s : State) (n k : Nat) (r : Run) (code address extra : Nat) : State :=
  let slot := k / 4
  let o := { s.originOf n slot (s.ctx n slot).regs.bc.toNat 0 0 with launch := r.launch }
  s.post { mkRec s { o with slot := 6 } .empty true address extra with code := code } 0 o

/-- STREAM_RUN_FAIL: a failed run stops and is reported; poison popped in a replayable round is logged instead (R272, R381). -/
def execStreamRunFail (s : State) : Host.Outcome State Fault Refusal :=
  let n := s.my.arg.n
  let k := s.my.arg.m
  nextState (
    match (s.strm n k).run with
    | none => s
    | some r =>
      match r.err with
      | none => s
      | some (code, address, extra) =>
        let s1 := stopRun s n k r
        let rd := s1.tagRound n (k / 4) r.lineRound
        if code = Code.poison.num then
          let (held, s2) := logItem s1 n rd 1 (.poison (k / 4) (s1.ctx n (k / 4)).regs.bc.toNat extra)
          if held then s2 else postRun s2 n k r code address extra
        else postRun s1 n k r code address extra)

end Sys2Proof.Machine
end

