-- ==== Sys2Proof/Machine/Rollback.lean ====
section
/-!
DEFINITION. Rolling a region back to its last committed round, the move of a region's state from one set of bank units to another,
and the image that a SAVE pre-emption writes (R107, R224, R365, R384, R386, R393).
-/
namespace Sys2Proof.Machine

/-! ### What a rollback drops (R386, steps 2 and 3) -/

/-- A round number of a round that has not committed. -/
def Region.uncommitted (r : Region) (m : Nat) : Bool := (r.absRound m).isSome

/-- Tokens and credits on their way to bank units are dropped; adjustments and status answers go on (R107). -/
def Net.dropTokens (net : Net) (ns : List Nat) : Net :=
  { net with flits := net.flits.filter (fun f => !ns.contains f.dest),
             ctl := net.ctl.filter (fun f => !(ns.contains f.dest && (match f.msg with | .credit .. => true | _ => false))) }

/-- Queues, credits and operators as at placement, and the node and event state too (R224); the handler queue is empty and no
handler run goes on. -/
def Bu.dropFabric (b : Bu) : Bu :=
  { b with queues := [], credits := [], opers := [], node := Node.reset, ev := Events.reset, hq := [], faultWait := [], hrun := none }

/-- The tokens of a `dir` 1 run that belong to committed rounds. -/
def keptUnits (r : Region) (run : Run) (bankEnd : Bool) : Nat :=
  if bankEnd then (if r.uncommitted run.round then 0 else run.pos)
  else (run.sbs.takeWhile (fun w => !r.uncommitted w.toNat)).length

/-- A `dir` 1 run put back to the first unit of a round that has not committed. (assumption 92, DEDUCED, unsafe) -/
def rewindRun (v : SV) (s : State) (r : Region) (run : Run) : Run :=
  let bankEnd := v.p.end_ ≠ 0
  let k := keptUnits r run bankEnd
  if (bankEnd && k = run.pos) || (!bankEnd && k = run.sbs.length) then run
  else
    let elem := match run.pairs with | x :: _ => shapeElem x | [] => 1
    { run with
      pos := if v.p.mode = 1 then k else k * v.unit s / elem, pos2 := if bankEnd then k else run.pos2, got := [],
      sbs := run.sbs.take k, ended := false, err := none, part := [], tile := 0,
      lineRound := match (run.sbs.take k).getLast? with | some w => w.toNat | none => run.round }

/-- Whether the end of a run still waits with the last of its logged lines (R383). -/
def endsHeld (s : State) (run : Run) : Bool :=
  s.ms.pending.any (fun p => p.logged && p.ends.isSome && run.writes.contains p.w.id)

/-- A stream as a rollback leaves it (R386): a `dir` 0 stream redelivers its logged tokens; the `dir` 1 runs of rounds that have not
committed are made again, the first from its first uncommitted unit, the others as starts. -/
def rewindStrm (s : State) (r : Region) (n k : Nat) : State :=
  let v := s.sv n k
  let t := s.strm n k
  if v.p.dir = 0 then
    let redo := (s.bu n).replay.filterMap (fun e => match e.item with
      | .token m tok => if m / 16 = k then some (m % 16, tok) else none
      | _ => none)
    s.modStrm n k (fun t => { t with redo := redo })
  else
    match t.old ++ t.run.toList with
    | [] => s
    | first :: later =>
      let run := rewindRun v s r first
      let starts := later.length
      let stamps := (List.range starts).map (fun i => (s.bu n).strmStamp + i)
      let back (w : List (Nat × Nat × Nat)) (s : State) : State :=
        (s.modStrm n k (fun t => { t with
          run := some { run with writes := run.writes.filter (fun id => s.ms.pending.any (fun p => p.w.id == id && !p.logged)),
                                 waitH := if w.isEmpty then run.waitH else w, held := if w.isEmpty then run.held else [] },
          pend := t.pend + starts, order := stamps ++ t.order, old := [] })).modBu n (fun b => { b with strmStamp := b.strmStamp + starts })
      if t.old.isEmpty || endsHeld s first then back [] s
      else
        let (w, s1) := askHandles s first.held
        back w s1

/-- The logged lines of a region's parties are dropped; a writer whose end waited for one ends without `fin`, unless its run, as
it stood before, is made again. -/
def dropLines (before s : State) (ns : List Nat) : State :=
  let mine (p : PWrite) : Bool := p.logged && (match p.w.party with | .ctx n _ => ns.contains n | _ => false)
  let again (id : Nat) : Bool := ns.any (fun n => (before.bu n).strms.toList.any (fun t => match t.old ++ t.run.toList with
    | r :: _ => r.writes.contains id
    | [] => false))
  let gone := s.ms.pending.filter mine
  let s1 := { s with ms := { s.ms with pending := s.ms.pending.filter (fun p => !mine p) } }
  gone.foldl (fun s p => match p.ends with
    | some (job, h, role, _) => if again p.w.id then s else endRole s job h role false false
    | none => s) s1

/-- The requests that a region's write logs hold are dropped (R383, R386). -/
def dropHeld (s : State) (ns : List Nat) : State :=
  s.modHub (fun h => { h with reqs := h.reqs.filter (fun q => !(q.stage == .held && ns.contains q.org.bu)) })

/-- The lines of a bank of rounds that have not committed are undone, newest first, and the log is empty. -/
def Bu.undo (b : Bu) : Bu :=
  { b with
    bank := b.wlog.reverse.foldl (fun m e => match e.item with | .undo l old => m.writeBytes (64 * l) old | _ => m) b.bank,
    wlog := [] }

/-- Steps 2 and 3 of a rollback, once the region is frozen. -/
def State.dropRounds (s : State) (r : Region) : State :=
  let ns := s.regionBus r
  let s1 := ns.foldl (fun s n => ((s.abortBlock n 4).modCtx n 4 (fun c => { c with st := .idle })).modBu n Bu.dropFabric) s
  let s2 := ns.foldl (fun t n => (List.range 16).foldl (fun t k =>
    let st := s1.strm n k
    if st.run.isNone && st.old.isEmpty && (s1.bu n).replay.isEmpty then t else rewindStrm t r n k) t) s1
  let s3 := (dropHeld (dropLines s1 s2 ns) ns).modNet (fun net => net.dropTokens ns)
  ns.foldl (fun s n => s.modBu n Bu.undo) s3

/-! ### What it restores (R386, step 4) -/

/-- Items with a number in rising order of it. -/
def sortNats {α : Type} : List (Nat × α) → List (Nat × α)
  | [] => []
  | x :: rest => insertOne x (sortNats rest)
where
  insertOne (x : Nat × α) : List (Nat × α) → List (Nat × α)
    | [] => [x]
    | y :: ys => if x.1 ≤ y.1 then x :: y :: ys else y :: insertOne x ys

/-- The destinations that registers hold pending, by request. -/
def Regs.waiting (r : Regs) : List (Nat × Dest) :=
  let g := (List.finRange 32).filterMap (fun i => match r.g[i].st with | .pending id => some (id, Dest.g i) | _ => none)
  let v := (List.finRange 8).filterMap (fun i => match r.v[i].st with | .pending id => some (id, Dest.v i) | _ => none)
  sortNats (g ++ v)

/-- A register pending at the rollback point whose request has been answered since takes the next logged reply; one whose request
failed since is failed. -/
def refillRegs (s : State) : List (Nat × Dest) → Regs → List Line → Regs × List Line
  | [], r, l => (r, l)
  | (id, d) :: rest, r, l =>
    if (s.req id).isSome then refillRegs s rest r l
    else match l with
      | v :: vs => refillRegs s rest (writeDest r d v) vs
      | [] => refillRegs s rest (failDest r d id) []

/-- A slot takes its rollback point, the first of its checkpoints. (assumption 91, DEDUCED, unsafe) -/
def restoreCtx (s : State) (r : Region) (n k : Nat) : State :=
  match (s.ctx n k).ckpts with
  | [] => s
  | p :: _ =>
    let log := sortNats ((s.bu n).replay.filterMap (fun e => match e.item with
      | .reply slot id v => if slot = k then some (id, v) else none
      | _ => none))
    let (regs, left) := refillRegs s p.regs.waiting p.regs (log.map (·.2))
    let s1 := s.modCtx n k (fun c => { c with
      regs := regs, blk := Blk.idle, replay := left, acquires := [], fblk := [], ckpts := [p],
      launch := if p.active then r.running else c.launch,
      st := if p.active then .active else if regs.noPending || c.launch.isNone then .idle else .ending })
    if p.active then enterBlock s1 n k else settleEnding s1 n k

/-- Requests after a rollback: the reads issued since are discarded, and the counts of instances that run again are not made. -/
def dropReads (s : State) (ns : List Nat) : State :=
  let points := ns.flatMap (fun n => [0, 1, 2, 3].filterMap (fun k => match (s.ctx n k).ckpts with | p :: _ => some (n, k, p) | [] => none))
  let kept := points.flatMap (fun x => x.2.2.regs.waiting.map (·.1))
  let again (q : Req) : Bool := points.any (fun x => x.1 = q.org.bu && x.2.1 = q.org.slot && x.2.2.active)
  s.modHub (fun h => { h with reqs := h.reqs.filterMap (fun q =>
    if !ns.contains q.org.bu || kept.contains q.id then some q
    else if q.begun && q.row == .cntAdd then (if again q then none else some q)
    else if isLoggedRead q.row then some { q with dead := true, dst := .none }
    else some q) })

/-- Step 4 of a rollback: each context takes its rollback point. -/
def State.restoreRound (s : State) (r : Region) : State :=
  let ns := s.regionBus r
  ns.foldl (fun s n => [0, 1, 2, 3].foldl (fun s k => restoreCtx s r n k) s) (dropReads s ns)

/-! ### Bank units renamed -/

/-- The numbers that a region's bank units have while it is saved: above every bank unit of the module. (assumption 88, DESIGN CHOICE, safe) -/
def parkNum (rid i : Nat) : Nat := 2 ^ 15 * (rid + 1) + i

/-- A party with its bank unit renamed. -/
def Party.rename (f : Nat → Nat) : Party → Party
  | .ctx n k => .ctx (f n) k
  | .node n => .node (f n)
  | p => p

/-- A release with its party renamed. -/
def renameRel (f : Nat → Nat) (r : Party × Nat × List Nat) : Party × Nat × List Nat := (r.1.rename f, r.2)

/-- A token, an origin and a control token, renamed. -/
def Token.rename (f : Nat → Nat) (t : Token) : Token := { t with rel := t.rel.map (renameRel f) }
/-- An origin renamed. -/
def Origin.rename (f : Nat → Nat) (o : Origin) : Origin := { o with bu := f o.bu }
/-- A control token renamed. -/
def MxTok.rename (f : Nat → Nat) (t : MxTok) : MxTok := { t with org := t.org.rename f }

/-- What a bank unit holds, renamed. -/
def Bu.rename (f : Nat → Nat) (b : Bu) : Bu :=
  { b with
    ctxs := b.ctxs.map (fun c => { c with seen := c.seen.map (renameRel f) }),
    queues := b.queues.map (fun q => (q.1, q.2.map (Token.rename f))),
    opers := b.opers.map (fun o => (o.1, { o.2 with held := o.2.held.map (Token.rename f), a := o.2.a.map (Token.rename f),
                                                    b := o.2.b.map (Token.rename f), c := o.2.c.map (Token.rename f) })),
    node := { b.node with inbox := b.node.inbox.map (fun t => { t with tok := t.tok.rename f }),
                          started := b.node.started.map (fun t => { t with tok := t.tok.rename f }) },
    ev := { b.ev with ctrs := b.ev.ctrs.map (fun c => { c with rels := c.rels.map (fun r => (r.1.rename f, r.2)) }),
                      pulses := b.ev.pulses.map (fun p => (p.1, p.2.1.rename f, p.2.2)) },
    strms := b.strms.map (fun t => { t with redo := t.redo.map (fun x => (x.1, x.2.rename f)) }),
    replay := b.replay.map (fun e => { e with item := match e.item with | .token m t => .token m (t.rename f) | i => i }),
    rels := b.rels.map (fun r => { r with party := r.party.rename f }) }

/-- A request renamed. -/
def Req.rename (f : Nat → Nat) (q : Req) : Req := { q with org := q.org.rename f, obs := q.obs.map (renameRel f) }

/-- Every mention of a bank unit outside the bank units, renamed. -/
def State.renameBus (s : State) (f : Nat → Nat) : State :=
  { s with
    ms := { s.ms with
      pending := s.ms.pending.map (fun p => { p with w := { p.w with party := p.w.party.rename f }, org := p.org.map (Origin.rename f) }),
      done := s.ms.done.map (fun w => { w with party := w.party.rename f }),
      pasts := s.ms.pasts.map (fun p => (p.1.rename f, p.2)),
      bars := s.ms.bars.map (fun b => { b with rel := renameRel f b.rel }) },
    hub := { s.hub with
      reqs := s.hub.reqs.map (Req.rename f),
      cntRels := s.hub.cntRels.map (fun c => (c.1, c.2.map (renameRel f))),
      handleQs := s.hub.handleQs.map (fun q => { q with rel := q.rel.map (renameRel f) }),
      recs := s.hub.recs.map (fun p => { p with org := p.org.rename f }) },
    bus := s.bus.map (fun x => (x.1, x.2.rename f)) }

/-- The renaming of a list of bank units to another. -/
def renamedTo (from_ to_ : List Nat) (n : Nat) : Nat :=
  match from_.findIdx? (· == n) with
  | some i => to_.getD i n
  | none => n

/-! ### The saved image (R393) -/

/-- The words of a slot in the image. -/
def ctxWords (s : State) (n k : Nat) : List Nat :=
  let c := s.ctx n k
  let spr (x : Nat) : Nat := sprRead s n k x none
  [spr 0] ++ (List.range 8).map (fun i => spr (0x10 + i)) ++ [spr 8, spr 2, spr 3, spr 4, spr 5, spr 6, spr 7, spr 1, spr 0xA, spr 0xB,
    c.w, c.wmin, c.wmax, c.pass]

/-- The 1,024 bytes of a slot in the image. -/
def ctxBytes (s : State) (n k : Nat) : List Byte :=
  let r := (s.ctx n k).regs
  let body := r.g.toList.flatMap (fun x => bytesOfNat 8 x.val.toNat) ++ r.v.toList.flatMap (fun x => bytesOfNat 64 x.val.toNat) ++
    r.p.toList.flatMap (fun x => bytesOfNat 8 x.val.toNat) ++ (ctxWords s n k).flatMap (bytesOfNat 8)
  body ++ List.replicate (1024 - body.length) 0

/-- Bytes filled with zeros to a length. -/
def padBytes (n : Nat) (bs : List Byte) : List Byte := bs ++ List.replicate (n - bs.length) 0

/-- The low bytes of numbers, in order. -/
def fields (xs : List (Nat × Nat)) : List Byte := xs.flatMap (fun x => bytesOfNat x.1 x.2)

/-- A token in a table of the image: its sideband and its payload. -/
def Token.bytes (t : Token) : List Byte := bytesOfNat 4 t.sideband ++ bytesOfNat 64 t.payload.toNat

/-- The operator of a route entry in the image: its state, its held value, and its buffers. -/
def Oper.bytes (o : Oper) : List Byte :=
  fields [(1, match o.st with | .init => 0 | .loop => 1 | .empty => 2 | .hold => 3), (1, if o.held.isSome then 1 else 0), (1, o.a.length),
    (1, o.b.length), (1, o.c.length)] ++ (o.held.toList ++ o.a ++ o.b ++ o.c).flatMap Token.bytes

/-- Stream state in the image: pending starts and status, run position, and translation entry. -/
def Strm.bytes (t : Strm) (status : Nat) : List Byte :=
  let r : Nat × Nat × Nat × Nat := match t.run with | some r => (1, r.pos, r.pos2, r.sub) | none => (0, 0, 0, 0)
  let e : Nat × Nat × Nat × Nat × Nat := match t.trans with
    | some e => (1 + (if e.big then 2 else 0) + (if e.writable then 4 else 0) + e.kind * 8, e.vpage, e.pa, e.module, e.handle)
    | none => (0, 0, 0, 0, 0)
  padBytes 64 (fields [(4, status), (4, t.handle), (1, t.pend), (1, r.1), (2, r.2.2.2), (8, r.2.1), (8, r.2.2.1), (1, e.1), (8, e.2.1),
    (8, e.2.2.1), (2, e.2.2.2.1), (4, e.2.2.2.2)])

/-- An inbox entry in the image: the token word, then its gate, whether slot H delivered it, its bank offset and its place in the order of
delivery. -/
def InTok.bytes (i : Nat) (t : InTok) : List Byte :=
  fields [(8, t.tok.word.toNat), (1, match t.gated with | some g => g + 1 | none => 0), (1, if t.tok.fromH then 1 else 0),
    (4, match t.tok.bankOff with | some o => o + 1 | none => 0), (2, i)]

/-- The node state of a bank unit in the image. (assumption 155, DESIGN CHOICE, unsafe) -/
def nodeBytes (s : State) (n : Nat) : List Byte :=
  let b := s.bu n
  let cfg := s.mxCfg n
  let tiles := b.node.tiles.toList
  let w8 (x : Nat) : List Byte := bytesOfNat 8 x
  let tgts := b.ev.tgts.toList
  padBytes 32768 (
    tiles.flatMap (fun t => t.z.flatMap (fun x => w8 x.toNat)) ++ tiles.flatMap (fun t => t.side.flatMap (fun x => w8 x.toNat)) ++
    (withIndex 0 tiles).flatMap (fun t => w8 (b.tileStatus cfg t.1 % 2 ^ 48 + t.2.guard * 2 ^ 48)) ++
    padBytes 256 ((withIndex 0 b.node.inbox).flatMap (fun t => t.2.bytes t.1)) ++
    b.node.rings.toList.flatMap (fun r => w8 (r.head + r.tail * 2 ^ 10 + r.count * 2 ^ 20)) ++
    b.ev.ctrs.toList.flatMap (fun c => bytesOfNat 4 c.val.toNat ++ bytesOfNat 4 c.rem ++ bytesOfNat 4 c.step.toNat ++ bytesOfNat 4 c.src) ++
    (withIndex 0 tgts).flatMap (fun t => padBytes 32 (t.2.masks.toList.flatMap (fun m => bytesOfNat 2 m.toNat) ++
      t.2.latches.toList.flatMap (fun m => bytesOfNat 2 m.toNat) ++
      fields [(1, t.2.pend), (1, if t.2.lost then 1 else 0), (2, ((targetStreams s n t.1).map (2 ^ ·)).sum)])) ++
    (List.range 64).flatMap (fun k =>
      let c := b.ctl k
      padBytes 32 (bytesOfNat 2 (wrapNat 16 c.acc) ++ bytesOfNat 2 (wrapNat 16 c.adj) ++ bytesOfNat 1 c.set ++ bytesOfNat 1 c.kp ++
        bytesOfNat 1 c.ki ++ bytesOfNat 1 c.pstat ++ bytesOfNat 2 c.period ++ bytesOfNat 2 c.imax ++ bytesOfNat 2 c.cap ++
        bytesOfNat 2 c.kpArm ++ bytesOfNat 2 c.periodMin ++ bytesOfNat 4 c.count ++ bytesOfNat 2 c.running)) ++
    (List.range 16).flatMap (fun k => (s.strm n k).bytes (b.agStatus k)) ++ padBytes 64 (w8 b.rns.injs) ++
    (padBytes 20480 (((s.routes n).filterMap (fun e => match e.2 with | .oper .. => some e.1 | _ => none)).flatMap (fun e =>
      (s.oper n e).bytes))).take 20480)

/-! The bank in the image: its queue storage, write log and replay storage hold what stands in them (R186, R383). -/

/-- Bytes put over others from a place on. -/
def overlay (bs : List Byte) (at_ : Nat) (new : List Byte) : List Byte := bs.take at_ ++ new ++ bs.drop (at_ + new.length)

/-- A queue's lines in queue storage (R186): in scalar or control form 16 bytes a token, in vector form the payloads and then the
sidebands. -/
def queueArea (form cap : Nat) (ts : List Token) : List Byte :=
  padBytes (64 * queueLines form cap)
    (if form = 0 || form = 2 then ts.flatMap (fun t => fields [(8, t.payload.toNat), (4, t.sideband), (4, 0)])
     else padBytes (64 * cap) (ts.flatMap (fun t => bytesOfNat 64 t.payload.toNat)) ++ ts.flatMap (fun t => bytesOfNat 4 t.sideband))

/-- The queue storage of a bank unit, in entry order. -/
def queueStore (s : State) (n : Nat) : List Byte :=
  (s.routes n).flatMap (fun e => match e.2 with | .recv _ _ _ form _ cap _ => queueArea form cap ((s.bu n).queue e.1) | _ => [])

/-- A log entry in its lines: its round and what it holds. -/
def logArea (s : State) (e : LogEnt) : List Byte :=
  padBytes (64 * e.lines) (match e.item with
    | .undo l old => padBytes 64 (fields [(2, e.round), (4, 64 * l)]) ++ old
    | .poison slot block route => fields [(2, e.round), (1, slot), (2, block), (2, route)]
    | .line id => match s.ms.pending.find? (fun p => p.w.id == id) with
      | some p => padBytes 64 (fields [(2, e.round), (8, p.w.key), (1, p.w.bytes.length)]) ++ p.w.bytes
      | none => []
    | .req id => match s.req id with
      | some q => padBytes 64 (fields [(2, e.round), (1, q.row.spec.opcode), (1, q.org.slot), (2, q.org.block), (1, q.org.op), (1, q.org.elem),
          (4, q.mod), (8, q.a), (8, q.b), (8, q.c)]) ++ (if e.lines = 2 then bytesOfNat 64 (max q.a (max q.b q.c)) else [])
      | none => [])

/-- A replay entry in its lines. -/
def replayArea (e : ReplayEnt) : List Byte :=
  padBytes (64 * e.lines) (match e.item with
    | .token _ t => if e.lines = 1 then fields [(8, t.payload.toNat), (4, t.sideband), (4, 0)] else bytesOfNat 64 t.payload.toNat ++ bytesOfNat 4 t.sideband
    | .reply _ _ v => bytesOfNat 64 v.toNat)

/-- A checkpoint in its 14 lines (R383): G, V and P, then a line for the rest. -/
def Ckpt.area (p : Ckpt) : List Byte :=
  let r := p.regs
  let state (l : List RegState) (f : RegState → Bool) : Nat := ((withIndex 0 l).map (fun x => if f x.2 then 2 ^ x.1 else 0)).sum
  let sts := r.g.toList.map (·.st) ++ r.v.toList.map (·.st)
  padBytes 896 (r.g.toList.flatMap (fun x => bytesOfNat 8 x.val.toNat) ++ r.v.toList.flatMap (fun x => bytesOfNat 64 x.val.toNat) ++
    r.p.toList.flatMap (fun x => bytesOfNat 8 x.val.toNat) ++ r.stack.toList.flatMap (fun x => bytesOfNat 2 x.toNat) ++
    fields [(2, r.bc.toNat), (1, r.depth), (2, r.round), (1, r.flags.toNat), (1, r.fmask.toNat), (1, r.ovr.toNat), (8, r.seed.toNat),
      (8, r.rng.toNat), (1, r.expsplit), (1, if p.active then 1 else 0), (5, state sts (fun x => match x with | .pending _ => true | _ => false)),
      (5, state sts (fun x => match x with | .failed => true | _ => false))])

/-- Replay storage: two checkpoints for each slot in use, then the entries in order. -/
def replayStore (s : State) (n : Nat) : List Byte :=
  ((List.range 4).filter (s.slotUsed n)).flatMap (fun k => padBytes (2 * 896) (((s.ctx n k).ckpts.take 2).flatMap Ckpt.area)) ++
    (s.bu n).replay.flatMap replayArea

/-- The bank of a bank unit in the image. (assumption 155, DESIGN CHOICE, unsafe) -/
def bankBytes (s : State) (n : Nat) : List Byte :=
  let put (k : Nat) (new : List Byte) (bs : List Byte) : List Byte :=
    let d := s.mSlot n 1 k
    overlay bs (64 * descBase d) (new.take (64 * descSize d))
  put 3 (replayStore s n) (put 2 ((s.bu n).wlog.flatMap (logArea s)) (put 1 (queueStore s n) ((s.bu n).bank.readBytes 0 65536)))

/-- The image of a region under SAVE (R393). -/
def saveImage (s : State) (r : Region) : List Byte :=
  let ns := s.regionBus r
  padBytes 64 (bytesOfNat 8 (0x4B345356 + r.image % 2 ^ 12 * 2 ^ 32 + r.shown % 2 ^ 12 * 2 ^ 44 +
      (if r.norepRounds.contains r.commits || !s.storageOk r then 2 ^ 56 else 0)) ++ bytesOfNat 8 ns.length ++ bytesOfNat 8 s.out.tick) ++
    ns.flatMap (fun n => bankBytes s n ++ (List.range 5).flatMap (ctxBytes s n) ++ nodeBytes s n)

/-- Its size for a number of bank units. -/
def saveBytes (bus : Nat) : Nat := 64 + 103424 * bus

end Sys2Proof.Machine
end

