-- ==== Sys2Proof/Machine/Work.lean ====
section
/-!
DEFINITION. The work hierarchy: job records and counters, launch records and their checks, pools, placement and the region scheduler,
the start and the completion of launches, phases, and cancelling (R352 to R372, R433).
-/
namespace Sys2Proof.Machine

/-! ### What the units of the hub read -/

/-- Bytes at a VA of a job as the hub finds them, when it translates. -/
def State.peekVa (s : State) (job va len : Nat) : Option (List Byte) :=
  match s.places job va len false with
  | .error _ => none
  | .ok ps => some (ps.flatMap (fun c => s.ms.mem.readBytes c.1 c.2.2))

/-- The least number of a list. -/
def minOf : List Nat → Option Nat
  | [] => none
  | x :: rest => some (rest.foldl min x)

/-- A stamp in the order of happenings. -/
def State.stampNow (s : State) : Nat × State := s.fresh

/-! ### Granule pools (R241, R357, R389) -/

/-- The granules that hold a retired bank unit. (assumption 79, DEDUCED, unsafe) -/
def State.retiredGranules (s : State) : List Nat :=
  (s.out.health.modes.filter (fun e => e.2 == 7)).map (fun e => granuleOf e.1)

/-- The granules of a pool (R357): the suspect ones have left it (R389), and a retired one belongs to it until a placement would use
it. -/
def State.poolOf (s : State) (p : Nat) : List Nat :=
  ((s.hub.pools.filter (fun e => e.2 == p)).map (·.1)).filter (fun g => !s.hub.suspect.contains g)

/-- Granules leave a pool. -/
def State.leavePool (s : State) (p : Nat) (gs : List Nat) : State :=
  s.modHub (fun h => { h with pools := h.pools.filter (fun e => !(e.2 == p && gs.contains e.1)) })

/-- The granules of an image's box at an origin. -/
def boxGranules (im : Image) (p : Place) : List Nat :=
  (List.range im.dies).flatMap (fun d => (List.range im.height).flatMap (fun y =>
    (List.range im.width).map (fun x => granuleNum (p.die + d) (p.gx + x) (p.gy + y))))

/-- The origins of an image's box on the module, lowest die, then y, then x (R358). -/
def boxOrigins (im : Image) : List Place :=
  (List.range (5 - im.dies)).flatMap (fun d => (List.range (17 - im.height)).flatMap (fun y =>
    (List.range (25 - im.width)).map (fun x => ⟨d, x, y⟩)))

/-- The first origin at which an image's box finds only granules of a list (R358). (assumption 80, DESIGN CHOICE, unsafe) -/
def fitBox (im : Image) (avail : List Nat) : Option Place :=
  if avail.length < im.dies * im.width * im.height then none
  else (boxOrigins im).find? (fun p => (boxGranules im p).all avail.contains)

/-- The granules of a placed region. -/
def State.granulesOf (s : State) (r : Region) : List Nat :=
  match r.place, s.image r.image with
  | some p, some im => boxGranules im p
  | _, _ => []

/-- Granules of an image's box. -/
def Image.granules (im : Image) : Nat := im.dies * im.width * im.height

/-! ### Jobs (R353, R354) -/

/-- The lowest run of n free counters (R354). -/
def counterBase (s : State) (n : Nat) : Option Nat :=
  let used := s.hub.jobs.map (fun e => (e.2.cntBase, e.2.ncnt))
  let ok (b : Nat) : Bool := b + n ≤ Config.counters && used.all (fun u => u.1 + u.2 ≤ b || b + n ≤ u.1)
  minOf ((0 :: used.map (fun u => u.1 + u.2)).filter ok)

/-- A job record breaks R353, for the job that a command names. (assumption 113, DEDUCED, unsafe) -/
def jobRecordBad (s : State) (id n : Nat) : Bool :=
  let f (lo len : Nat) : Nat := bitsOf n (8 * lo) (8 * len)
  f 0 2 ≠ id || id = 0 || 15 < f 2 1 || f 3 1 ≠ 0 || 1536 < f 4 2 || f 6 2 = 0 || f 8 8 % 65536 ≠ 0 || f 24 4 = 0 || 2 ^ 19 < f 24 4 ||
    f 28 4 ≠ 0 || f 32 8 % 65536 ≠ 0 || f 40 8 % 65536 ≠ 0 || f 80 48 ≠ 0 || (s.poolOf (f 2 1)).length < f 4 2 ||
    (mapGet id s.hub.jobs).isSome

/-- The job of a record of 128 bytes as it starts (R353), with its counters from a base. -/
def recordJob (id n base : Nat) : Job :=
  let f (lo len : Nat) : Nat := bitsOf n (8 * lo) (8 * len)
  { id := id, pool := f 2 1, oasis := f 4 2, ncnt := f 6 2, cntBase := base, root := f 8 8, htab := f 16 8, hslots := f 24 4, heap := f 32 8,
    heapsz := f 40 8, budget := signedOf 64 (f 48 8), fq := f 56 8, save := f 64 8, savesz := f 72 8, phase := 0, closedPhases := [],
    closed := false, phaseCnts := [], heapUsed := [], shadows := [], caravan := [] }

/-- A job starts from its record of 128 bytes; none is JOB_START (R353). (assumption 112, DEDUCED, unsafe) -/
def startJob (s : State) (id n : Nat) : Option State :=
  if jobRecordBad s id n then none
  else
    match counterBase s (bitsOf n 48 16) with
    | none => none
    | some base =>
      let j := recordJob id n base
      let mine (k : Nat) : Bool := base ≤ k && k < base + j.ncnt
      some (s.modHub (fun h => { h with
        jobs := mapSet id j h.jobs,
        counters := h.counters.filter (fun c => c.1 < base) ++ (List.range j.ncnt).map (fun i => (base + i, (0, id))) ++
          h.counters.filter (fun c => base + j.ncnt ≤ c.1),
        cntRels := h.cntRels.filter (fun c => !mine c.1) }))

/-- A job changed. -/
def State.modJob (s : State) (id : Nat) (f : Job → Job) : State := s.modHub (fun h => { h with jobs := mapMod id f h.jobs })
/-- A launch changed. -/
def State.modLaunch (s : State) (id : Nat) (f : Launch → Launch) : State :=
  s.modHub (fun h => { h with launches := mapMod id f h.launches })
/-- A launch. -/
def State.launch (s : State) (id : Nat) : Option Launch := mapGet id s.hub.launches
/-- A region. -/
def State.region (s : State) (id : Nat) : Option Region := mapGet id s.hub.regions

/-! ### Completion counters (R354 to R356, R370) -/

/-- The value of an entry of the table. -/
def State.counterVal (s : State) (k : Nat) : BitVec 32 := (mapGetD k s.hub.counters (0, 0)).1

/-- The target of a `cnt.wait` is reached. -/
def counterDue (val : BitVec 32) (target : Nat) : Bool := (val.toNat + 2 ^ 32 - target % 2 ^ 32) % 2 ^ 32 ≤ 2 ^ 31 - 1

/-- The waiting `cnt.wait`s of an entry that are due take its value and what its counts released. -/
def wakeCounter (s : State) (k : Nat) : State :=
  let v := s.counterVal k
  let rels := mapGetD k s.hub.cntRels []
  s.modHub (fun h => { h with reqs := h.reqs.map (fun q =>
    if q.row == .cntWait && q.stage == .waiting && q.c == 0 && q.a == k && counterDue v q.b
    then { q with c := 1, b := v.toNat, obs := rels } else q) })

/-- The releases of an entry with one more: one of the same party and scope is replaced. (assumption 96, DEDUCED, unsafe) -/
def addCntRels (l new : List (Party × Nat × List Nat)) : List (Party × Nat × List Nat) :=
  new.foldl (fun l r => l.filter (fun x => !(x.1 == r.1 && x.2.1 == r.2.1)) ++ [r]) l

/-- A number added to counter i of a job with the releases of who adds it; none is CNT_RANGE (R355). -/
def addCounter (s : State) (job i n : Nat) (rels : List (Party × Nat × List Nat)) : Option State :=
  match mapGet job s.hub.jobs with
  | none => none
  | some j =>
    if j.ncnt ≤ i then none
    else
      let k := j.cntBase + i
      some (wakeCounter (s.modHub (fun h => { h with
        counters := mapSet k (s.counterVal k + BitVec.ofNat 32 n, job) h.counters,
        cntRels := mapSet k (addCntRels (mapGetD k h.cntRels []) rels) h.cntRels })) k)

/-- One completion counted on a counter of a job (R356): a release at `sys` scope of what the completed unit wrote. An index 0xFFFF,
or beyond the job's counters, counts nothing. (assumption 82, DEDUCED, unsafe) -/
def countOn (s : State) (job i : Nat) (rels : List (Party × Nat × List Nat)) : State := (addCounter s job i 1 rels).getD s

/-! ### Launch records (R360 to R362) -/

/-- The fields of a launch record of 128 bytes, and whether they break R360. -/
structure LaunchRec where
  image : Nat
  ctl : Nat
  phase : Nat
  quantum : Nat
  cnts : List Nat
  reply : Nat
  lbudget : Nat
  seed : Nat
  copy : Nat
  ncopy : Nat
  nbind : Nat
  bind : Nat
  tick : Nat
  bad : Bool
deriving DecidableEq, Repr

/-- A launch record. -/
def launchRec (n : Nat) (gang : Bool) : LaunchRec :=
  let f (lo len : Nat) : Nat := bitsOf n (8 * lo) (8 * len)
  { image := bitsOf (f 0 2) 0 12, ctl := f 2 1, phase := f 4 2, quantum := f 6 2, cnts := [f 8 2, f 10 2, f 12 2, f 14 2],
    reply := f 16 8, lbudget := f 24 8, seed := f 32 8, copy := f 40 8, ncopy := f 48 2, nbind := f 50 2, bind := f 56 8, tick := f 64 8,
    bad := bitsOf (f 0 2) 12 4 ≠ 0 || 32 ≤ f 2 1 || f 3 1 ≠ 0 || 256 < f 48 2 || 1024 < f 50 2 || f 52 4 ≠ 0 || f 72 56 ≠ 0 ||
      (!gang && f 64 8 ≠ 0) }

/-- `prio`. -/
def LaunchRec.prio (r : LaunchRec) : Nat := bitsOf r.ctl 0 2

/-- Items of a list in VA order: n records of a size. -/
def readRecords (s : State) (job va n size : Nat) : Option (List Nat) :=
  if n = 0 then some []
  else (s.peekVa job va (n * size)).map (fun bs => (List.range n).map (fun i => natOfBytes ((bs.drop (size * i)).take size)))

/-- A binding of 16 bytes. -/
def bindOf (n : Nat) : Bind :=
  { die := bitsOf n 0 2, x := bitsOf n 2 7, y := bitsOf n 9 6, slot := bitsOf n 15 2, what := bitsOf n 17 3, index := bitsOf n 20 5,
    val := BitVec.ofNat 64 (n / 2 ^ 64) }

/-- Two bindings name one target. -/
def Bind.same (a b : Bind) : Bool :=
  a.die = b.die && a.x = b.x && a.y = b.y && a.slot = b.slot && a.what = b.what && a.index = b.index

/-- A binding breaks R361, or names no context of the image with a block 0. -/
def bindBad (im : Image) (n : Nat) : Bool :=
  let b := bindOf n
  bitsOf n 25 39 ≠ 0 || 5 < b.what || (b.what = 1 && 3 < b.index) || (1 < b.what && b.index ≠ 0) ||
    !(im.blocksAt b.die b.x b.y b.slot false).any (fun k => k.id == 0)

/-- Some binding names the target of an earlier one. -/
def bindsClash : List Bind → Bool
  | [] => false
  | b :: rest => rest.any b.same || bindsClash rest

/-- A copy entry (R276). -/
def copyOf (n : Nat) : CopyEnt :=
  { die := bitsOf n 8 2, x := bitsOf n 10 7, y := bitsOf n 17 6, slot := bitsOf n 23 2, stream := bitsOf n 25 2, stage := bitsOf n 0 8,
    released := false, ended := false }

/-- A copy entry breaks R276: its stream must have `trig` 2. -/
def copyBad (im : Image) (n : Nat) : Bool :=
  let e := copyOf n
  2 ^ 27 ≤ n || bitsOf (im.strmWord (e.die, e.x, e.y) (4 * e.slot + e.stream) 0) 12 2 ≠ 2

/-- The image cannot be replayed (R385): a bank unit lacks replay storage for its slots in use. (assumption 95, DEDUCED, unsafe) -/
def Image.unreplayable (im : Image) : Bool :=
  (im.blocks.map (fun b => (b.die, b.x, b.y))).eraseDups.any (fun p =>
    let slots := ((List.range 4).filter (fun k => !(im.blocksAt p.1 p.2.1 p.2.2 k false).isEmpty)).length
    descSize (im.frameWord 2 p.1 p.2.1 p.2.2 0 1 3) < 28 * slots)

/-- Bank units of an image's extent. -/
def Image.busCount (im : Image) : Nat := 16 * im.granules

/-- The checks of R362 on a launch record, in order; a dual one must be replayable (R388). -/
def checkLaunch (s : State) (j : Job) (r : LaunchRec) (dual : Bool) : Except Code Launch :=
  if r.bad then .error .launchBad
  else
    match s.image r.image with
    | none => .error .launchImage
    | some im =>
      if im.job ≠ j.id || s.hub.xforms.any (fun x => x.2 == r.image) then .error .launchImage
      else
        match readRecords s j.id r.bind r.nbind 16, readRecords s j.id r.copy r.ncopy 8 with
        | some bs, some cs =>
          let binds := bs.map bindOf
          if bs.any (bindBad im) || bindsClash binds || cs.any (copyBad im) || (dual && im.unreplayable) then .error .launchBad
          else if r.phase < j.phase || j.closedPhases.contains r.phase || j.closed then .error .launchPhase
          else if !bitOf r.ctl 2 && j.savesz < saveBytes im.busCount then .error .launchSave
          else if (fitBox im (s.poolOf j.pool)).isNone then .error .launchSize
          else .ok { id := 0, job := j.id, region := 0, prio := r.prio, rollbackMode := bitOf r.ctl 2, eos := bitOf r.ctl 3,
                     close := bitOf r.ctl 4, phase := r.phase, quantum := r.quantum, cnts := r.cnts, reply := r.reply,
                     lbudget := r.lbudget, seed := BitVec.ofNat 64 r.seed, copies := cs.map copyOf, binds := binds, tick := r.tick,
                     skewed := false, st := .queued, stage := 0, spent := 0, build := none, cancelled := false, dual := dual,
                     counted := [] }
        | _, _ => .error .launchBad

/-! ### Regions and their queues -/

/-- A region that is not placed (R378 for its registers). -/
def Region.fresh (id image job pool : Nat) : Region :=
  { id := id, image := image, job := job, pool := pool, place := none, placedAt := 0, waitSince := none, queue := [], running := none,
    started := false, graphDone := false, quantumUsed := 0, expired := false, commits := 0, opened := 0, shown := 0, norepRounds := [], dual := false,
    twins := [], primary := true, voting := false, vote := none, rb := 0, rbtotal := 0, hang := 0x00100000, map := 0, idle := 0,
    saved := none, rolledBack := false, wantRollback := false, gq := [], placedClock := 0 }

/-- The region of an armed image: the primary placement of a dual one. -/
def State.regionFor (s : State) (image : Nat) : Option Region :=
  (s.hub.regions.find? (fun e => e.2.image == image && e.2.primary)).map (·.2)

/-- A region put into the hub under a new number. -/
def addRegion (s : State) (r : Region) : Nat × State :=
  let id := s.hub.nextRegion
  (id, s.modHub (fun h => { h with nextRegion := id + 1, regions := mapSet id { r with id := id } h.regions }))

/-- The region of an image, made when there is none. -/
def needRegion (s : State) (image job pool : Nat) : Nat × State :=
  match s.regionFor image with
  | some r => (r.id, s)
  | none => addRegion s (Region.fresh 0 image job pool)

/-- A region that must be placed starts waiting (R364). -/
def startWaiting (s : State) (rid : Nat) : State :=
  match s.region rid with
  | some r =>
    if r.place.isNone && r.waitSince.isNone then
      let (t, s1) := s.stampNow
      s1.modRegion rid (fun g => { g with waitSince := some t })
    else s
  | none => s

/-- The second placement of a region for a dual launch (R388). (assumption 94, DEDUCED, unsafe) -/
def needTwin (s : State) (rid : Nat) : State :=
  match s.region rid with
  | some r =>
    if r.twins.isEmpty then
      let (id, s1) := addRegion s { Region.fresh 0 r.image r.job r.pool with primary := false, twins := [rid] }
      startWaiting (s1.modRegion rid (fun g => { g with twins := [id] })) id
    else r.twins.foldl startWaiting s
  | none => s

/-- An accepted launch takes the lowest unused ID and enters the queue of its region (R362). -/
def queueLaunch (s : State) (l : Launch) (rid : Nat) : Nat × State :=
  let id := mapFree 65535 1 s.hub.launches
  let ctr := l.cnts.getD 3 0xFFFF
  let s1 := (s.modHub (fun h => { h with launches := mapSet id { l with id := id, region := rid } h.launches })).modRegion rid (fun g =>
    { g with queue := g.queue ++ [id] })
  let s2 := if ctr = 0xFFFF then s1
    else s1.modJob l.job (fun j => { j with phaseCnts := mapSet l.phase (ctr, (mapGetD l.phase j.phaseCnts (0, [])).2) j.phaseCnts })
  let s3 := startWaiting s2 rid
  (id, if l.dual then needTwin s3 rid else s3)

/-- Launches that the launch queue holds (R370). -/
def launchLimit : Nat := 4096

/-- The launches that wait in the queue, transforms apart (R370). -/
def State.queued (s : State) : Nat := (s.hub.launches.filter (fun l => l.2.st == .queued && l.2.build.isNone)).length

/-- An origin that names no context (R373). -/
def jobOrigin (job launch region : Nat) : Origin :=
  { bu := 0, slot := 7, block := 0, op := 0, elem := 0, round := 0, region := region, launch := launch, job := job }

/-- A record with no coordinates (R373). -/
def State.hubRec (s : State) (c : Code) (async : Bool) (address extra launch : Nat) : FaultRec :=
  { code := c.num, level := 0, async := async, die := 0, x := 0, y := 0, slot := 7, block := 0, op := 0, norep := false,
    address := address, round := 0, tick := s.out.tick % 2 ^ 48, extra := extra, launch := launch % 2 ^ 16 }

/-- A rejection's record, from stage 1 with the reply of the rejected record (R362, R377). -/
def rejectLaunch (s : State) (j : Job) (r : LaunchRec) (c : Code) : State :=
  let rid := match s.regionFor r.image with | some g => if g.job = j.id then g.id else s.hub.nextRegion | none => s.hub.nextRegion
  s.postTo (s.hubRec c false 0 0 0) 1 (jobOrigin j.id 0 rid) r.reply r.phase

/-- A launch record checked, and queued or rejected (R362): its ID, or the code of its rejection. -/
def submitLaunch (s : State) (j : Job) (n : Nat) (gang dual : Bool) : Except Code Nat × State :=
  let r := launchRec n gang
  match checkLaunch s j r dual with
  | .error c => (.error c, rejectLaunch s j r c)
  | .ok l =>
    let (rid, s1) := needRegion s r.image j.id j.pool
    let (id, s2) := queueLaunch s1 l rid
    (.ok id, s2)

/-- LAUNCH_ARRIVAL: a launch arrives from `gl.launch` at the launch unit (R362, R370); while the queue is full, it waits. (assumption 60, DEDUCED, unsafe) -/
def execLaunchArrival (s : State) : Host.Outcome State Fault Refusal :=
  nextState (
    match s.req s.my.arg.n with
    | none => s
    | some q =>
      if q.row != .glLaunch || !s.mayServe q || launchLimit ≤ s.queued then s
      else
        let va := q.a % 2 ^ 57
        let device (a : Nat) : Bool := match s.place q.org.job a false with | .ok t => t.kind = 0 | .error _ => false
        match mapGet q.org.job s.hub.jobs with
        | none => s.failReq q.id .launchBad 0 0
        | some j =>
          if va % 64 ≠ 0 || !device va || !device (va + 64) then s.failReq q.id .launchBad 0 0
          else
            let n := match s.peekVa j.id va 128 with | some bs => natOfBytes bs | none => 0
            match submitLaunch s j n false false with
            | (.error c, s1) => s1.failReq q.id c 0 0
            | (.ok id, s1) => s1.reply q.id id)

/-! ### What waits for placement (R364, R388) -/

/-- The region that a placement follows: the primary one of its dual run. -/
def State.lead (s : State) (r : Region) : Region :=
  if r.primary then r else ((r.twins.head?.bind s.region).getD r)

/-- The running launch of a region, or the first of its queue. -/
def State.nextLaunch (s : State) (r : Region) : Option Launch :=
  let g := s.lead r
  (g.running.orElse (fun _ => g.queue.head?)).bind s.launch

/-- Its priority. -/
def State.prioOf (s : State) (r : Region) : Nat := match s.nextLaunch r with | some l => l.prio | none => 0

/-- A region runs a transform (R325). -/
def State.isXform (s : State) (r : Region) : Bool := s.hub.xforms.any (fun x => x.2 == r.image)

/-- A launch may start as far as phases go (R362). -/
def State.phaseDue (s : State) (l : Launch) : Bool :=
  l.build.isSome || (match mapGet l.job s.hub.jobs with | some j => l.phase = j.phase | none => false)

/-- A region waits for placement. -/
def State.waits (s : State) (r : Region) : Bool :=
  r.place.isNone &&
  match s.nextLaunch r with
  | some l =>
    (if r.voting then (s.lead r).running.isSome
     else (r.primary || l.dual) && ((s.lead r).running.isSome || s.phaseDue l))
  | none => false

/-- A region is idle: placed, and no launch of it runs (R359). -/
def State.isIdle (s : State) (r : Region) : Bool := r.place.isSome && (s.lead r).running.isNone

/-! ### Plans (R357 to R359) -/

/-- Where a region can be placed, and the idle regions to release for it. -/
structure Plan where
  place : Place
  evict : List Nat
deriving DecidableEq, Repr

/-- The regions of a job's oasis that run a transform, and their granules (R357). -/
def oasisUnused (s : State) (j : Job) : Nat :=
  j.oasis - ((s.hub.regions.map (·.2)).filter (fun x => x.job = j.id && s.isXform x && x.place.isSome && x.running.isSome)).foldl
    (fun t x => t + (s.granulesOf x).length) 0

/-- Regions released, oldest placed first, until a count of free granules is reached. -/
def evictUntil (short : List Nat → Bool) : List Nat → List Nat → Option (List Nat)
  | rest, out =>
    if !short out then some out
    else match rest with
      | [] => none
      | x :: xs => evictUntil short xs (out ++ [x])

/-- A plan for a region with some regions gone (R357 to R359). -/
def planFor (s : State) (r : Region) (gone : List Nat) : Option Plan :=
  match s.image r.image with
  | none => none
  | some im =>
    let pool := s.poolOf r.pool
    let placed := (s.hub.regions.map (·.2)).filter (fun x => x.place.isSome && !gone.contains x.id)
    let held := placed.flatMap (fun x => (s.granulesOf x).map (fun g => (g, x.id)))
    let free := pool.filter (fun g => !held.any (fun h => h.1 == g))
    let idle := (sortNats ((placed.filter (fun x => s.isIdle x && x.id ≠ r.id)).map (fun x => (x.placedAt, x)))).map (·.2)
    let spare := held.filter (fun h => idle.any (fun x => x.id = h.2) && pool.contains h.1)
    let need := ((s.hub.jobs.map (·.2)).filter (fun j => j.pool = r.pool)).foldl (fun t j => t + oasisUnused s j) 0
    let xf := s.isXform r
    let at_ (avail : List Nat) : Option Plan :=
      match fitBox im avail with
      | none => none
      | some p =>
        let box := boxGranules im p
        let first := ((held.filter (fun h => box.contains h.1)).map (·.2)).eraseDups
        let counted := ((idle.filter s.isXform).map (·.id))
        let short (out : List Nat) : Bool :=
          !xf && free.length + (spare.filter (fun h => out.contains h.2 || counted.contains h.2)).length < box.length + need
        let rest := (idle.filter (fun x => !first.contains x.id && !s.isXform x)).map (·.id)
        (evictUntil short rest first).map (fun out => { place := p, evict := out })
    (at_ free).orElse (fun _ => at_ (free ++ spare.map (·.1)))

/-- The idle transform regions of a job that must be released before one more of n granules fits its oasis (R327); none when it must
wait. -/
def oasisRoom (s : State) (r : Region) (n : Nat) : Option (List Nat) :=
  match mapGet r.job s.hub.jobs with
  | none => none
  | some j =>
    let mine := (s.hub.regions.map (·.2)).filter (fun x => x.job = r.job && s.isXform x && x.place.isSome)
    let idle := (sortNats ((mine.filter (fun x => x.running.isNone && x.queue.isEmpty)).map (fun x => (x.placedAt, x)))).map (·.2)
    let size (x : Region) : Nat := (s.granulesOf x).length
    let total := mine.foldl (fun t x => t + size x) n
    evictUntil (fun out => j.oasis < total - ((idle.filter (fun x => out.contains x.id)).foldl (fun t x => t + size x) 0))
      (idle.map (·.id)) []

/-- The plan of a transform region on its payer's oasis. -/
def planXform (s : State) (r : Region) : Option Plan :=
  match s.image r.image with
  | none => none
  | some im =>
    match oasisRoom s r im.granules with
    | none => none
    | some out => (planFor s r out).map (fun p => { p with evict := out ++ p.evict })

/-! ### Pre-emption (R365, R393, R394) -/

/-- A region and the placements that are pre-empted with it (R388). -/
def State.groupOf (s : State) (r : Region) : List Region := r :: (r.twins.filterMap s.region)

/-- A region is pre-empted under SAVE (R365): its launch's mode, or a round that cannot be replayed. -/
def State.savesUnder (s : State) (r : Region) : Bool :=
  let l := r.running.bind s.launch
  (match l with | some l => !l.rollbackMode | none => true) || !s.storageOk r || !r.norepRounds.isEmpty

/-- A region can be pre-empted: its saved image fits the save area, when it needs one. -/
def State.preemptable (s : State) (r : Region) : Bool :=
  !s.savesUnder r ||
  match mapGet r.job s.hub.jobs, s.image r.image with
  | some j, some im => saveBytes im.busCount ≤ j.savesz
  | _, _ => false

/-- A freeze for pre-emption is under way in a region. -/
def State.preempting (s : State) (r : Region) : Bool :=
  (s.regionBus r).any (fun n => (s.bu n).frozen.contains .preempt || (s.bu n).waves.contains .preempt)

/-- The freeze of a pre-emption starts over a region and its twins. (assumption 86, DEDUCED, unsafe) -/
def startPreempt (s : State) (r : Region) : State :=
  (s.groupOf r).foldl (fun s g => s.startWave (s.regionBus g) .preempt) s

/-- A frozen region is at rest (R45, R391): what had started has retired, what was being fetched has come, and what was in flight has
been delivered. -/
def State.atRest (s : State) (r : Region) : Bool :=
  let ns := s.regionBus r
  ns.all (fun n => (s.bu n).node.started.isEmpty && (s.bu n).waves.isEmpty && (s.bu n).fetches.isEmpty) && s.net.flits.all (fun f => !ns.contains f.dest) &&
    s.net.ctl.all (fun f => !ns.contains f.dest && !ns.contains f.src)

/-- Every bank unit of a region is frozen by one party. -/
def State.allFrozenBy (s : State) (r : Region) (f : Freeze) : Bool := (s.regionBus r).all (fun n => (s.bu n).frozen.contains f)

/-- A bank unit that its region leaves: what belongs to the unit itself stays (R242, R359). -/
def Bu.vacate (b : Bu) : Bu :=
  { Bu.reset with
    bank := b.bank, cache := b.cache.map (fun c => { c with pinned := false }), stamp := b.stamp, sec := b.sec, eccLine := b.eccLine,
    badWords := b.badWords, badBlocks := b.badBlocks, retention := b.retention,
    rns := { b.rns with injs := 0 } }

/-- Nothing issues on bank units any more. -/
def State.dropCursors (s : State) (ns : List Nat) : State :=
  { s with my := { s.my with issueQ := s.my.issueQ.filter (fun c => !ns.contains c.bu) } }

/-- Cycles that a build's launch is charged for on its present placement (R338): 16 x granules x main-clock cycles. -/
def State.chargeOf (s : State) (r : Region) : Nat :=
  match (s.regionBus r).head? with
  | some n => 16 * (s.granulesOf r).length * ((s.bu n).cycle - r.placedClock)
  | none => 0

/-- The charge of the running transform of a region added to its build; a cancelled one has been charged at its cancel (R328, R371). -/
def chargeBuild (s : State) (r : Region) : State :=
  let c := s.chargeOf r
  match ((r.running.bind s.launch).filter (fun l => !l.cancelled)).bind Launch.build with
  | some b => s.modHub (fun h => { h with builds := h.builds.map (fun x => if x.id = b then { x with cost := x.cost + c } else x) })
  | none => s

/-- A placed region leaves its granules and waits: its state is kept, with its image written to the save area under SAVE; under
ROLLBACK its open rounds are dropped first (R365). -/
def saveRegion (s : State) (r : Region) (save : Bool) : State :=
  let s0 := (chargeBuild s r).dropCursors (s.regionBus r)
  let s1 := if save then
      (match mapGet r.job s0.hub.jobs with
        | some j => (match writeVa s0 r.job .host j.save (saveImage s0 r) with | .ok t => t | .error _ => s0)
        | none => s0)
    else s0.dropRounds r
  let ns := s1.regionBus r
  let names := (List.range ns.length).map (parkNum r.id)
  let s2 := s1.renameBus (renamedTo ns names)
  let (t, s3) := s2.stampNow
  (ns.foldl (fun s n => s.modBu n Bu.vacate) s3).modRegion r.id (fun g =>
    { g with saved := some { bus := ns.map s2.bu }, rolledBack := !save, place := none, waitSince := some t, quantumUsed := 0 })

/-- The pre-emption of a frozen region and its twins takes place; a region whose image no longer fits thaws (R365). -/
def preemptNow (s : State) (r : Region) : State :=
  if s.preemptable r then
    let save := s.savesUnder r
    (s.groupOf r).foldl (fun s g => match s.region g.id with
      | some g => if g.place.isSome then saveRegion s g save else s
      | none => s) s
  else (s.groupOf r).foldl (fun s g => (s.regionBus g).foldl (fun s n => s.thawBu n .preempt) s) s

/-! ### Placing and releasing (R41, R43, R85, R94, R100, R105, R224, R359, R365) -/

/-- A region leaves its granules, and nothing of it is saved (R359). -/
def releaseRegion (s : State) (rid : Nat) : State :=
  match s.region rid with
  | none => s
  | some r =>
    let ns := s.regionBus r
    let s1 := (s.dropCursors ns).modHub (fun h => { h with reqs := h.reqs.map (fun q =>
      if ns.contains q.org.bu && !(q.begun && q.row == .cntAdd) then { q with dead := true, dst := .none } else q) })
    let s2 := s1.modNet (fun net => { net with flits := net.flits.filter (fun f => !ns.contains f.dest),
                                               ctl := net.ctl.filter (fun f => !ns.contains f.dest) })
    let s3 := (ns.foldl (fun s n => s.modBu n Bu.vacate) s2).modRegion rid (fun g => { g with place := none, saved := none, waitSince := none })
    if r.queue.isEmpty then s3 else startWaiting s3 rid

/-- The controllers of a bank unit at placement (R100, R103, R105, R108): every producer stands at its placement weights. -/
def placedCtls (im : Image) (p : Nat × Nat × Nat) : NMap Ctl :=
  let rs := im.routesAt p.1 p.2.1 p.2.2
  rs.foldl (fun m e => match e.2 with
    | .recv route slot qi _ _ cap true =>
      match (rs.find? (fun x => x.1 = e.1 + 1)).map Prod.snd, im.sendsOf route with
      | some (Route.ext sp kp ki period imax), c :: _ =>
        mapSet (slot * 16 + qi)
          { acc := 0, adj := 0, set := sp, kp := kp, ki := ki, period := period, imax := imax, cap := cap,
            pstat := Ctx.reset.pstat, kpArm := kp, periodMin := 4 * (2 * hopDistance (c.die, c.x, c.y) p + 6), count := 0,
            running := period, sample := none } m
      | _, _ => m
    | _ => m) []

/-- The streams of a bank unit at placement: their primary handles are the programs' (R267). -/
def placedStrms (im : Image) (p : Nat × Nat × Nat) : Vector Strm 16 :=
  Vector.ofFn (fun k : Fin 16 =>
    let w := im.strmWord p k.val 0
    { Strm.reset with handle := if bitsOf w 0 4 = 0 then 0 else bitsOf w 32 32 })

/-- The handler blocks of an offset become resident and pinned (R43). -/
def pinHandlers (im : Image) (image : Nat) (p : Nat × Nat × Nat) (b : Bu) : Bu :=
  (im.blocksAt p.1 p.2.1 p.2.2 4 true).foldl (fun b k =>
    let others := b.cache.filter (fun c => !(c.image == image && c.slot == 4 && c.block == k.id))
    { b with cache := makeRoom others.length k.frames others ++
                      [{ image := image, slot := 4, block := k.id, frames := k.frames, stamp := b.stamp, pinned := true }],
             stamp := b.stamp + 1 }) b

/-- A bank unit as a new placement leaves it. (assumption 89, DEDUCED, unsafe) -/
def placedBu (im : Image) (rid image mode : Nat) (p : Nat × Nat × Nat) (b : Bu) : Bu :=
  let v := b.vacate
  pinHandlers im image p { v with
    region := some rid, offDie := p.1, offX := p.2.1, offY := p.2.2, ctls := placedCtls im p, strms := placedStrms im p,
    rns := { v.rns with mode := mode } }

/-- A new placement of a region (R359); the launch for which it is placed is charged from the placement on (R338). -/
def placeFresh (s : State) (r : Region) (im : Image) (pl : Place) : State :=
  let s1 := (boxOffsets im.dies im.width im.height).foldl (fun s o =>
    let n := pl.bu o.1 o.2.1 o.2.2
    s.modBu n (placedBu im r.id r.image (mapGetD n s.out.health.modes 0) o)) s
  s1.modRegion r.id (fun g => { g with
    hang := 0x00100000, map := 0, shown := 0, rb := 0, rbtotal := 0, idle := 0, commits := 0, opened := 0, norepRounds := [],
    dual := false, vote := none, wantRollback := false, rolledBack := false, placedClock := 0, started := false })

/-- A context of a placement after a ROLLBACK pre-emption: its weights are those of a new placement (R107). -/
def Ctx.reweigh (c : Ctx) : Ctx := { c with w := 16, wmin := 1, wmax := 255, pass := 0, lastadj := 0 }

/-- A saved bank unit put back on another (R365): its state, with what belongs to the unit itself. -/
def restoredBu (im : Image) (r : Region) (mode : Nat) (p : Nat × Nat × Nat) (saved old : Bu) : Bu :=
  let b := { saved with
    cache := old.vacate.cache, stamp := old.stamp, fetches := [], sec := old.sec, eccLine := old.eccLine, badBlocks := old.badBlocks,
    retention := false, rns := { old.rns with mode := mode, injs := if r.rolledBack then 0 else saved.rns.injs } }
  let b := pinHandlers im r.image p b
  if r.rolledBack then
    { b with ctls := placedCtls im p, ctxs := (b.ctxs.map Ctx.reweigh).set 4 Ctx.reset }
  else b

/-- The contexts of a bank unit enter their blocks again, which are fetched on demand (R45). -/
def reenter (s : State) (n : Nat) : State :=
  [0, 1, 2, 3, 4].foldl (fun s k =>
    let st := (s.ctx n k).st
    if (st == .active || st == .fetch) && !(s.ctx n k).blk.running then enterBlock s n k else s) s

/-- A pre-empted region placed again (R365): once every placement of its group has granules, it thaws. -/
def placeSaved (s : State) (r : Region) (im : Image) (pl : Place) (sv : Saved) : State :=
  let offs := boxOffsets im.dies im.width im.height
  let ns := offs.map (fun o => pl.bu o.1 o.2.1 o.2.2)
  let names := (List.range ns.length).map (parkNum r.id)
  let s1 := (withIndex 0 offs).foldl (fun s o =>
    let n := pl.bu o.2.1 o.2.2.1 o.2.2.2
    s.modBu n (restoredBu im r (mapGetD n s.out.health.modes 0) o.2 (sv.bus.getD o.1 Bu.reset))) s
  let s2 := (s1.renameBus (renamedTo names ns)).modRegion r.id (fun g => { g with saved := none })
  let clock := match ns with | n :: _ => (s2.bu n).cycle | [] => 0
  let s3 := s2.modRegion r.id (fun g => { g with placedClock := clock, rolledBack := false, idle := 0 })
  let s4 := if r.rolledBack then s3.restoreRound { r with place := some pl } else ns.foldl reenter s3
  if (s4.groupOf r).all (fun g => g.place.isSome || g.saved.isNone) then
    (s4.groupOf r).foldl (fun s g => (s.regionBus g).foldl (fun s n => s.thawBu n .preempt) s) s4
  else s4

/-- A region placed by a plan: idle regions are released first; a bank unit in retention is waited for (R280, R364). -/
def placeRegion (s : State) (r : Region) (p : Plan) : State :=
  match s.image r.image with
  | none => s
  | some im =>
    if (boxOffsets im.dies im.width im.height).any (fun o => (s.bu (p.place.bu o.1 o.2.1 o.2.2)).retention) then s
    else
      let (t, s2) := (p.evict.foldl releaseRegion s).stampNow
      let s3 := s2.modRegion r.id (fun g => { g with place := some p.place, placedAt := t, waitSince := none, quantumUsed := 0, expired := false })
      match r.saved with
      | some sv => placeSaved s3 r im p.place sv
      | none => placeFresh s3 r im p.place

/-! ### The scheduler (R327, R364) -/

/-- What a pool's scheduler does next. -/
inductive SchedAct where
  | none
  | place (rid : Nat) (p : Plan)
  | preempt (rid : Nat)
  | leave (gs : List Nat)
deriving DecidableEq, Repr

/-- The act that a plan for a region comes to: the retired granules that it would use leave the pool first (R357). -/
def State.actFor (s : State) (r : Region) (p : Plan) (act : SchedAct) : SchedAct :=
  match s.image r.image with
  | none => .none
  | some im =>
    match (boxGranules im p.place).filter s.retiredGranules.contains with
    | [] => act
    | gs => .leave gs

/-- The transforms that wait, each job's in request order: the first of each job that can be placed (R327). -/
def schedXforms (s : State) : List Region → List Nat → SchedAct
  | [], _ => .none
  | r :: rest, held =>
    if held.contains r.job then schedXforms s rest held
    else match planXform s r with
      | some p => s.actFor r p (.place r.id p)
      | none => schedXforms s rest (r.job :: held)

/-- The placed regions of a pool that a priority pre-empts: lowest priority first, the most recently placed first among equals. -/
def victims (s : State) (pool prio : Nat) : List Region :=
  (sortNats (((s.hub.regions.map (·.2)).filter (fun x =>
    x.pool = pool && x.primary && x.place.isSome && x.running.isSome && !s.isXform x && s.prioOf x < prio && s.preemptable x)).map
      (fun x => (s.prioOf x * 2 ^ 80 + (2 ^ 80 - 1 - x.placedAt), x)))).map (·.2)

/-- The placements that leave with regions. -/
def State.groupIds (s : State) (rs : List Region) : List Nat := rs.flatMap (fun r => (s.groupOf r).map Region.id)

/-- The regions that wait, by priority and time (R364): the first that fits is placed, or a placed region gives way; none of a lower
priority is placed while one of a higher does not fit. -/
def schedWaiting (s : State) : List Region → Option Nat → SchedAct
  | [], _ => .none
  | r :: rest, top =>
    if (match top with | some p => decide (s.prioOf r < p) | none => false) then .none
    else match planFor s r [] with
      | some p => s.actFor r p (.place r.id p)
      | none =>
        let vs := victims s r.pool (s.prioOf r)
        match vs.head?, planFor s r (s.groupIds vs) with
        | some v, some p => s.actFor r p (.preempt v.id)
        | _, _ => schedWaiting s rest (top.orElse (fun _ => some (s.prioOf r)))

/-- The next act of a pool's scheduler. -/
def nextAct (s : State) (pool : Nat) : SchedAct :=
  let waiting := (s.hub.regions.map (·.2)).filter (fun r => r.pool = pool && s.waits r)
  let key (r : Region) : Nat := r.waitSince.getD 0 * 2 ^ 20 + r.id
  let xs := (sortNats ((waiting.filter s.isXform).map (fun r => (key r, r)))).map (·.2)
  match schedXforms s xs [] with
  | .none =>
    schedWaiting s ((sortNats ((waiting.filter (fun r => !s.isXform r)).map (fun r => ((3 - s.prioOf r) * 2 ^ 120 + key r, r)))).map (·.2)) none
  | a => a

/-- The region of a pool whose pre-emption is under way. -/
def State.underPreempt (s : State) (pool : Nat) : Option Region :=
  ((s.hub.regions.map (·.2)).find? (fun r => r.pool = pool && r.primary && r.place.isSome && s.preempting r))

/-- REGION_PLACEMENT: one act of a pool's scheduler (R364): a pre-emption under way takes place once its region is frozen and at rest,
after a rollback it has been called to (R394); else the first waiting region that fits is placed, or the freeze of a pre-emption
starts. An `erase` alarm lets nothing be placed (R408). -/
def execRegionPlacement (s : State) : Host.Outcome State Fault Refusal :=
  let pool := s.my.arg.n
  nextState (
    if s.out.locked then s
    else match s.underPreempt pool with
    | some r =>
      if (s.groupOf r).all (fun g => g.place.isNone || (s.allFrozenBy g .preempt && s.atRest g && !g.wantRollback && g.vote.isNone)) then preemptNow s r else s
    | none =>
      match nextAct s pool with
      | .none => s
      | .place rid p => (match s.region rid with | some r => placeRegion s r p | none => s)
      | .preempt rid => (match s.region rid with | some r => startPreempt s r | none => s)
      | .leave gs => s.leavePool pool gs)

/-! ### The start of a launch (R54, R94, R276, R361, R362, R382, R433) -/

/-- The bindings of a launch for a context. -/
def Launch.bindsFor (l : Launch) (p : Nat × Nat × Nat) (slot : Nat) : List Bind :=
  l.binds.filter (fun b => b.die = p.1 && b.x = p.2.1 && b.y = p.2.2 && b.slot = slot)

/-- The registers of an instance at its start: the bound G registers, seed, generator and split (R54, R361). -/
def startRegs (seed : Word) (bs : List Bind) : Regs :=
  let r : Regs := { Regs.start with seed := seed, rng := if seed = 0 then 1 else seed }
  bs.foldl (fun r b => match b.what with
    | 0 => { r with g := r.g.set (Fin.ofNat 32 b.index) ⟨b.val, .full⟩ }
    | 5 => { r with expsplit := min b.val.toNat 16 }
    | _ => r) r

/-- The seed of a context (R361). -/
def instSeed (seed : Word) (p : Nat × Nat × Nat) (slot : Nat) : Word :=
  seed + BitVec.ofNat 64 (4 * ((96 * p.1 + p.2.1) * 64 + p.2.2) + slot)

/-- A context as its instance starts (R54, R94): the weights bound are applied as writes, in the order of the launch's bindings
(assumption 146, DESIGN CHOICE, unsafe). -/
def startCtx (l : Launch) (p : Nat × Nat × Nat) (slot : Nat) (c : Ctx) : Ctx :=
  let bs := l.bindsFor p slot
  let regs := startRegs (instSeed l.seed p slot) bs
  let c1 : Ctx := { c with
    regs := regs, st := .active, w := 16, wmin := 1, wmax := 255, blk := Blk.idle, launch := some l.id,
    ckpts := [{ round := 0, regs := regs, active := true }], replay := [], acquires := [], barrier := [], issued := [], relFence := [],
    seen := [], fblk := [] }
  bs.foldl (fun c b => if 2 ≤ b.what && b.what ≤ 4 then writeWeight (b.what - 2) b.val c else c) c1

/-- A context of a bank unit starts its instance: every write performed so far is in its past (R433). -/
def startInstance (s : State) (l : Launch) (n slot : Nat) : State :=
  let b := s.bu n
  let s1 := (s.modCtx n slot (startCtx l (b.offDie, b.offX, b.offY) slot)).modBu n (fun b => { b with reply := b.reply.set (Fin.ofNat 4 slot) 1 })
  enterBlock { s1 with ms := s1.ms.join (.ctx n slot) (s1.ms.done.flatMap Write.ids) } n slot

/-- The streams of a bank unit at the start of a launch: the programs' handles, or those bound (R361); those with `trig` 0 are
triggered. -/
def startStrms (s : State) (l : Launch) (n : Nat) : State :=
  match s.imageOf n with
  | none => s
  | some im =>
    let b := s.bu n
    let p := (b.offDie, b.offX, b.offY)
    (List.range 16).foldl (fun s k =>
      let w := im.strmWord p k 0
      if bitsOf w 0 4 = 0 then s
      else
        let bound := (l.bindsFor p (k / 4)).find? (fun b => b.what = 1 && b.index = k % 4)
        let h := match bound with | some b => b.val.toNat % 2 ^ 32 | none => bitsOf w 32 32
        let s1 := s.modStrm n k (fun t => { t with handle := h })
        if bitsOf w 12 2 = 0 then s1.modBu n (fun b => b.trigger k) else s1) s

/-- A launch starts on one placement of its region. -/
def startOn (s : State) (l : Launch) (r : Region) : State :=
  let ns := s.regionBus r
  let clock := match ns with | n :: _ => if r.started then (s.bu n).cycle else 0 | [] => 0
  let s0 := s.modRegion r.id (fun g => { g with
    running := some l.id, started := true, graphDone := false, commits := 0, opened := 1, norepRounds := [], rb := 0, wantRollback := false,
    vote := none, idle := 0, dual := l.dual, placedClock := clock })
  let s1 := ns.foldl (fun s n => s.modBu n (fun b => { b with wlog := [], replay := [] })) s0
  let s2 := ns.foldl (fun s n => [0, 1, 2, 3].foldl (fun s k => if (s.block n k 0).isSome then startInstance s l n k else s) s) s1
  ns.foldl (fun s n => startStrms s l n) s2

/-- The placements that a launch runs on: its region, and the second of a dual run. -/
def State.placesOf (s : State) (l : Launch) : List Region :=
  match s.region l.region with
  | none => []
  | some r => if l.dual then s.groupOf r else [r]

/-- LAUNCH_START: the first launch of a region's queue starts when its region is placed, the launch before has completed, its phase is
the job's current one and its tick has come (R362, R372); after an `erase` alarm nothing starts (R408). -/
def execLaunchStart (s : State) : Host.Outcome State Fault Refusal :=
  nextState (
    match s.region s.my.arg.n with
    | none => s
    | some r =>
      match r.running, r.queue.head?.bind s.launch with
      | none, some l =>
        if !s.out.locked && (s.placesOf l).all (fun g => g.place.isSome) && s.phaseDue l && l.tick ≤ s.out.tick && r.primary then
          let s1 := s.modRegion r.id (fun g => { g with queue := g.queue.drop 1 })
          let s2 := s1.modLaunch l.id (fun l => { l with st := .running, stage := 0 })
          let s3 := (s.placesOf l).foldl (fun s g => startOn s l g) s2
          let s4 := releaseCopies s3 l.id
          if l.skewed then s4.post (s4.hubRec .gangSkew true 0 0 l.id) 4 (jobOrigin l.job l.id r.id) else s4
        else s
      | _, _ => s)

/-! ### Completion (R352, R356, R366, R367) -/

/-- The parties of a placed region. -/
def State.partiesOf (s : State) (r : Region) : List Party :=
  (s.regionBus r).flatMap (fun n => [Party.ctx n 0, .ctx n 1, .ctx n 2, .ctx n 3])

/-- What its contexts release when a completion is counted. -/
def State.relsOf (s : State) (r : Region) : List (Party × Nat × List Nat) :=
  ((s.partiesOf r).map (fun p => (p, 4, s.ms.past p))).filter (fun x => !x.2.2.isEmpty)

/-- Nothing of a launch goes on at a bank unit (R352): the end of a run whose pulse is still to come, or whose target is about to fire, may
start another. -/
def buQuiet (s : State) (n : Nat) : Bool :=
  (s.bu n).ev.pulses.all (fun p => !(8 ≤ p.1 && p.1 < 24)) &&
  (s.bu n).ev.tgts.toList.all (fun t => [0, 1, 2, 3].all (fun k => !t.termDone (Fin.ofNat 4 k))) &&
  [0, 1, 2, 3].all (fun k => let c := s.ctx n k; (c.st == .idle || c.st == .stopped) && c.issued.all (fun id => !s.outstanding id)) &&
    (s.bu n).strms.toList.all (fun t => t.run.isNone && t.pend = 0 && t.redo.isEmpty)

/-- The records of a launch are posted and its instances are counted. -/
def countsMade (s : State) (id : Nat) : Bool :=
  s.hub.recs.all (fun p => p.org.launch ≠ id) && s.hub.reqs.all (fun q => !(q.begun && q.row == .cntAdd && q.org.launch = id))

/-- A running launch can complete (R352, R356): its instances, runs and starts have ended, its last round has committed, and everything
has performed. -/
def launchReady (s : State) (l : Launch) : Bool :=
  match l.st with
  | .queued => false
  | .finishing => countsMade s l.id
  | .running =>
    (s.placesOf l).all (fun r =>
      r.place.isSome && r.opened ≤ r.commits && r.vote.isNone && (s.regionBus r).all (buQuiet s) &&
        s.ms.pending.all (fun p => match p.w.party with | .ctx n _ | .node n => !(s.regionBus r).contains n | _ => true)) &&
      countsMade s l.id

/-- The launches of a job in a phase that have not completed, transforms apart. -/
def State.launchesIn (s : State) (job phase : Nat) : List Launch :=
  (s.hub.launches.map (·.2)).filter (fun l => l.job = job && l.phase = phase && l.build.isNone)

/-- The current phase of a job completes while it is closed and has no launch (R352, R367). -/
def settlePhases (fuel : Nat) (s : State) (job : Nat) : State :=
  match fuel with
  | 0 => s
  | n + 1 =>
    match mapGet job s.hub.jobs with
    | none => s
    | some j =>
      if !j.closedPhases.contains j.phase || !(s.launchesIn job j.phase).isEmpty then s
      else
        let s1 := match mapGet j.phase j.phaseCnts with
          | some (ctr, past) => countOn s job ctr [(.host, 4, past)]
          | none => s
        let later := ((s1.hub.launches.map (·.2)).filter (fun l =>
          l.job = job && l.build.isNone && l.st == .queued && j.phase < l.phase)).map (·.phase)
        settlePhases n (s1.modJob job (fun j => { j with
          phase := (minOf later).getD (j.phase + 1), closedPhases := j.closedPhases.filter (· != j.phase),
          phaseCnts := mapDel j.phase j.phaseCnts })) job

/-- A phase of a job closed (R367). -/
def closePhase (s : State) (job phase : Nat) : State :=
  let s1 := s.modJob job (fun j => { j with closedPhases := if j.closedPhases.contains phase then j.closedPhases else j.closedPhases ++ [phase] })
  settlePhases ((match mapGet job s1.hub.jobs with | some j => j.closedPhases.length | none => 0) + 1) s1 job

/-- A launch completes (R352, R356, R366, R367): its counts are made, `close` closes its phase, and a build takes its outcome; the
ladder engine then has the transform's writes in its past (R329). -/
def finishLaunch (s : State) (l : Launch) : State :=
  match s.region l.region with
  | none => s
  | some r =>
    let rels := s.relsOf r
    let past := rels.foldl (fun w x => joinNats w x.2.2) []
    let s1 := chargeBuild s r
    let s2 := (s1.placesOf l).foldl (fun s g => s.modRegion g.id (fun g => if g.running = some l.id then
      { g with running := none, quantumUsed := if l.quantum ≠ 0 && 1000 * l.quantum ≤ g.quantumUsed then 0 else g.quantumUsed,
               expired := false } else g)) s1
    let s3 := countOn s2 l.job (l.cnts.getD 1 0xFFFF) rels
    let last := l.eos && (match s3.region r.id with | some g => g.queue.isEmpty && g.running.isNone | none => true)
    let s4 := if last then (countOn s3 l.job (l.cnts.getD 2 0xFFFF) rels).modRegion r.id (fun g => { g with graphDone := true }) else s3
    let s5 := s4.modHub (fun h => { h with
      launches := mapDel l.id h.launches,
      builds := match l.build with
        | some b => h.builds.map (fun x => if x.id = b then
            { x with launch := none, failed := if l.cancelled then some Code.cancelled.num else x.failed } else x)
        | none => h.builds })
    let s6 := s5.modJob l.job (fun j => { j with phaseCnts := match mapGet l.phase j.phaseCnts with
      | some (c, w) => if l.build.isNone then mapSet l.phase (c, joinNats w past) j.phaseCnts else j.phaseCnts
      | none => j.phaseCnts })
    let s7 := (s1.placesOf l).foldl (fun s g => (s.regionBus g).foldl (fun s n => [0, 1, 2, 3].foldl (fun s k =>
      s.modCtx n k (fun c => { c with launch := none, ckpts := [] })) s) s)
      (if l.build.isSome then { s6 with ms := s6.ms.join .ladder past } else s6)
    if l.close && l.build.isNone then closePhase s7 l.job l.phase
    else settlePhases ((match mapGet l.job s7.hub.jobs with | some j => j.closedPhases.length | none => 0) + 1) s7 l.job

/-! ### Cancelling (R371, R394) -/

/-- An instance stops: its context, whose block is pinned no more (R43), and its streams as failed runs without a report; its held effects
of open rounds are dropped. -/
def stopInstance (s : State) (n k : Nat) : State :=
  let mine : List Nat := (List.range 4).map (fun j => 4 * k + j)
  let s1 := mine.foldl (fun s t =>
    let s1 := match (s.strm n t).run with | some r => stopRun s n t r | none => s
    s1.modStrm n t (fun x => { x with pend := 0, order := [], redo := [], old := [] })) (unpinSlot (s.stopCtx n k) n k)
  let gone (e : LogEnt) : Bool := match e.item with
    | .req id => (match s1.req id with | some q => q.org.slot = k | none => true)
    | .line id => s1.ms.pending.any (fun p => p.w.id == id && p.w.party == .ctx n k)
    | .poison slot _ _ => slot = k
    | .undo _ _ => false
  let dropped := (s1.bu n).wlog.filter gone
  let ids := dropped.filterMap (fun e => match e.item with | .req id | .line id => some id | _ => none)
  let lines := s1.ms.pending.filter (fun p => ids.contains p.w.id)
  let s2 := (s1.modBu n (fun b => { b with wlog := b.wlog.filter (fun e => !gone e) })).modHub (fun h =>
    { h with reqs := h.reqs.filter (fun q => !ids.contains q.id) })
  let s3 := { s2 with ms := { s2.ms with pending := s2.ms.pending.filter (fun p => !ids.contains p.w.id) } }
  (lines.foldl (fun s p => match p.ends with | some (job, h, role, _) => endRole s job h role false false | none => s) s3).modCtx n k
    (fun c => { c with ckpts := [], replay := [] })

/-- A cancel record, which begins its chain at stage 1 (R371, R377). (assumption 114, DEDUCED, unsafe) -/
def postCancelled (s : State) (l : Launch) : State :=
  s.post (s.hubRec .cancelled false 0 0 l.id) 1 (jobOrigin l.job l.id l.region)

/-- A placed region's launch is cancelled: its freezes end, its instances and streams stop, and its logs are dropped. -/
def stopRegion (s : State) (r : Region) (l : Launch) (ns : List Nat) : State :=
  let s1 := ns.foldl (fun s n => s.modBu n (fun b => { b with frozen := [], waves := [] })) s
  let s2 := ns.foldl (fun s n => [0, 1, 2, 3].foldl (fun s k =>
    if (s.ctx n k).launch = some l.id && (s.ctx n k).st != .idle && (s.ctx n k).st != .stopped then stopInstance s n k
    else
      ([0, 1, 2, 3].foldl (fun s j =>
        let t := 4 * k + j
        let s1 := match (s.strm n t).run with | some r => stopRun s n t r | none => s
        s1.modStrm n t (fun x => { x with pend := 0, order := [], redo := [], old := [] })) s)) s) s1
  let s3 := dropHeld (dropLines s2 s2 ns) ns
  (ns.foldl (fun s n => s.modBu n (fun b => { b with wlog := [], replay := [] })) s3).modRegion r.id (fun g =>
    { g with norepRounds := [], wantRollback := false, opened := g.commits, vote := none })

/-- What is done to the bank units of a saved region, which stand meanwhile under the numbers they are set aside by. -/
def onSaved (s : State) (r : Region) (sv : Saved) (f : List Nat → State → State) : State :=
  let names := (List.range sv.bus.length).map (parkNum r.id)
  let s2 := f names ((withIndex 0 sv.bus).foldl (fun s x => s.setBu (parkNum r.id x.1) x.2) s)
  { s2 with bus := s2.bus.filter (fun x => !names.contains x.1) }.modRegion r.id (fun g => { g with saved := some { bus := names.map s2.bu } })

/-- A pre-empted region's launch is cancelled: its saved image is discarded, after its instances have stopped. -/
def stopSaved (s : State) (r : Region) (l : Launch) (sv : Saved) : State :=
  (onSaved s r sv (fun names s => stopRegion s r l names)).modRegion r.id (fun g =>
    { g with saved := none, running := none, waitSince := none })

/-- A launch of a number is cancelled (R371): it leaves its queue, or stops, a transform being charged up to now (R328); it completes
once its record is posted. -/
def cancelOne (s : State) (id : Nat) : State :=
  match s.launch id with
  | none => s
  | some l =>
    let s0 := (s.placesOf l).foldl chargeBuild s
    let s1 := (postCancelled s0 l).modLaunch id (fun l => { l with cancelled := true })
    match l.st with
    | .finishing => s
    | .queued =>
      (s1.modRegion l.region (fun g => { g with
        queue := g.queue.filter (· != id),
        waitSince := if g.queue = [id] && g.running.isNone then none else g.waitSince })).modLaunch id (fun l => { l with st := .finishing })
    | .running =>
      let saved := (s1.placesOf l).any (fun r => r.place.isNone)
      let s2 := (s1.placesOf l).foldl (fun s r => match r.saved with
        | some sv => stopSaved s r l sv
        | none => stopRegion s r l (s.regionBus r)) s1
      let s3 := if saved then s2.modLaunch id (fun l => { l with st := .finishing }) else s2
      (s3.placesOf l).foldl (fun s r => if r.place.isNone && !r.queue.isEmpty then startWaiting s r.id else s) s3

/-- The transforms that the requests of launches run are cancelled with them (R371): the launches of their builds, and so on. -/
def withBuilds (fuel : Nat) (s : State) (ids : List Nat) : List Nat :=
  match fuel with
  | 0 => ids
  | n + 1 =>
    let more := s.hub.builds.filterMap (fun b => match b.launch, s.req b.req with
      | some l, some q => if ids.contains q.org.launch && !ids.contains l then some l else none
      | _, _ => none)
    if more.isEmpty then ids else withBuilds n s (ids ++ more)

/-- Launches cancelled. -/
def cancelLaunches (s : State) (ids : List Nat) : State :=
  (withBuilds s.hub.builds.length s ids).foldl cancelOne s

/-- The unfinished launches of a job that a cancel can name, transforms apart. -/
def State.launchesOf (s : State) (job : Nat) : List Launch :=
  (s.hub.launches.map (·.2)).filter (fun l => l.job = job && l.build.isNone && l.st != .finishing)

/-- The microprograms of a cancelled job stop at their engines (R313). -/
def stopProgs (s : State) (job : Nat) : State :=
  s.hub.progs.foldl (fun s p => match s.req p.req with
    | some q => if q.org.job = job then endProg s q p (some (.cancelled, 0)) else s
    | none => s) s

/-- The context at an offset of a placement, as it stands or as it is saved. -/
def State.ctxAt (s : State) (r : Region) (off : Nat × Nat × Nat) (k : Nat) : Option Ctx :=
  match s.image r.image, r.place, r.saved with
  | _, some p, _ => some (s.ctx (p.bu off.1 off.2.1 off.2.2) k)
  | some im, none, some sv =>
    ((boxOffsets im.dies im.width im.height).findIdx? (· == off)).map (fun i => (sv.bus.getD i Bu.reset).ctxs[Fin.ofNat 5 k])
  | _, _, _ => none

/-- The instance at an offset of a placement stops, wherever the placement stands, with the transforms that its requests run. -/
def cancelAt (s : State) (r : Region) (off : Nat × Nat × Nat) (k : Nat) : State :=
  let kill (n : Nat) (s : State) : State :=
    let mine := s.hub.builds.filterMap (fun b => match s.req b.req with
      | some q => if q.org.bu = n && q.org.slot = k then b.launch else none
      | none => none)
    cancelLaunches (stopInstance s n k) mine
  match s.image r.image, r.place, r.saved with
  | _, some p, _ => kill (p.bu off.1 off.2.1 off.2.2) s
  | some im, none, some sv =>
    match (boxOffsets im.dies im.width im.height).findIdx? (· == off) with
    | some i => onSaved s r sv (fun _ s => kill (parkNum r.id i) s)
    | none => s
  | _, _, _ => s

/-- `cancel` at a level for a job (R371), from a region: how many it cancelled, or CANCEL_ARG. (assumption 124, DEDUCED, unsafe) -/
def cancelWork (s : State) (job level a : Nat) (rid : Option Nat) : Except Code (Nat × State) :=
  let all := s.launchesOf job
  let kill (ls : List Launch) (s : State) : Except Code (Nat × State) := .ok (ls.length, cancelLaunches s (ls.map (·.id)))
  match level with
  | 0 =>
    match rid.bind s.region with
    | none => .error .cancelArg
    | some r =>
      let k := bitsOf a 15 2
      let off := (bitsOf a 0 2, bitsOf a 2 7, bitsOf a 9 6)
      match s.image r.image, (s.lead r).running.bind s.launch with
      | some im, some l =>
        if 2 ^ 17 ≤ a || !(im.blocksAt off.1 off.2.1 off.2.2 k false).any (fun b => b.id == 0) then .error .cancelArg
        else match s.ctxAt r off k with
          | none => .error .cancelArg
          | some c =>
            if c.launch ≠ some l.id || c.st == .idle || c.st == .stopped then .ok (0, s)
            else .ok (1, (s.placesOf l).foldl (fun s g => cancelAt s g off k) (postCancelled s l))
      | _, _ => .error .cancelArg
  | 1 =>
    match all.filter (fun l => l.id = a % 2 ^ 16) with
    | [] => .error .cancelArg
    | ls => kill ls s
  | 2 =>
    match s.image (a % 2 ^ 12) with
    | none => .error .cancelArg
    | some im =>
      if im.job ≠ job || s.hub.xforms.any (fun x => x.2 == a % 2 ^ 12) then .error .cancelArg
      else kill (all.filter (fun l => match s.region l.region with | some r => r.image = a % 2 ^ 12 | none => false)) s
  | 3 =>
    match mapGet job s.hub.jobs with
    | none => .error .cancelArg
    | some j =>
      let p := a % 2 ^ 16
      if p < j.phase then .error .cancelArg
      else
        let ls := all.filter (fun l => l.phase = p)
        .ok (ls.length, closePhase (cancelLaunches s (ls.map (·.id))) job p)
  | 4 =>
    match mapGet job s.hub.jobs with
    | none => .error .cancelArg
    | some _ => .ok (all.length, stopProgs ((cancelLaunches s (all.map (·.id))).modJob job (fun j => { j with closed := true })) job)
  | _ => .error .cancelArg

/-! ### The quantum (R364, R365) -/

/-- A waiting region of at least a launch's priority would fit once the region that runs it leaves (R364). -/
def State.yields (s : State) (r : Region) (l : Launch) : Bool :=
  let s0 := s.leavePool r.pool s.retiredGranules
  (s.hub.regions.map (·.2)).any (fun w =>
    w.pool = r.pool && s.waits w && !s.isXform w && l.prio ≤ s.prioOf w && (planFor s0 w (s.groupIds [r])).isSome)

/-- The quantum of a placed region has passed (R364): it is pre-empted when a waiting region would take its place, and its quantum starts
again when none would. A region that cannot be pre-empted is left, and the scheduler tries again at the commits of its rounds (R365). -/
def expireRegion (s : State) (r : Region) (l : Launch) : State :=
  let yields := s.yields r l && !s.isXform r
  let s1 := s.modRegion r.id (fun g => { g with quantumUsed := 0, expired := yields && !s.preemptable r })
  if yields && s.preemptable r then startPreempt s1 r else s1

end Sys2Proof.Machine
end

