-- ==== Sys2Proof/Machine/Ladder.lean ====
section
/-!
DEFINITION. The ladder engine's service: the checks of R332, making, building, recalling and freeing spans, attention pages of requests,
and what ends a build (R325 to R340, R344 to R347, R363).
-/
namespace Sys2Proof.Machine

/-! ### Requests of the ladder -/

/-- The rows of R331. -/
def isLadder (r : Row) : Bool :=
  match r with
  | .spNew | .spFree | .lift | .lower | .recall | .probe | .drop | .spPin | .spUnpin | .kvApp | .pgRef | .pgUnref => true
  | _ => false

/-- `rung` of a request. -/
def Req.rung (q : Req) : Nat := bitsOf q.mod 3 3
/-- `rmode`. -/
def Req.rmode (q : Req) : Nat := bitsOf q.mod 6 2
/-- The directory slot that a request's name names. -/
def Req.spanSlot (q : Req) : Nat := bitsOf q.a 28 24
/-- A request that names a span. -/
def Req.namesSpan (q : Req) : Bool := match q.row with | .spNew | .pgRef | .pgUnref => false | r => isLadder r

/-- What serving a request comes to: it must wait, something of it happened, or it fails, on the state as it was or on one in which a
header was mended (R342). -/
inductive LadRes where
  | wait
  | go (s : State)
  | fail (c : Code) (address extra : Nat)
  | failIn (s : State) (c : Code) (address extra : Nat)

/-- A failure with the rung in its detail (R332). -/
def LadRes.bad (q : Req) (c : Code) : LadRes := .fail c 0 q.rung

/-- A request answered without a rung. -/
def answer (s : State) (q : Req) (val : Nat) : State := unpark (s.reply q.id val) q.id

/-- A request answered with rung k of its span: the reply synchronises with the release that set it FULL (R333). -/
def answerRung (s : State) (q : Req) (p : Span) (k : Nat) : State :=
  answer (s.modReq q.id (fun r => { r with obs := (s.hq (0, hSlot (p.handle k))).rel.toList })) q (recallWord p k)

/-- The engine's accesses for a request with a `sync` are ordered after its release (R305, R333). -/
def ladderAcquire (s : State) (q : Req) : State :=
  match q.release with
  | some (p, scope, past) => synchronise s .ladder 4 p scope past
  | none => s

/-- The release of the ladder engine when it sets a rung FULL (R329). -/
def State.ladderRel (s : State) : Option (Party × Nat × List Nat) := some (.ladder, 3, s.ms.past .ladder)

/-- A rung set FULL (R329). -/
def setFull (s : State) (h : Nat) : State :=
  match s.rungOf h with
  | some r => s.putHent 0 h { r.ent with state := 2 } s.ladderRel
  | none => s

/-- A rung set FILLING. -/
def setFilling (s : State) (h : Nat) : State :=
  match s.rungOf h with
  | some r => s.putHent 0 h { r.ent with state := 1 } none
  | none => s

/-! ### The checks of R332 -/

/-- The job that pays for a request's builds (R339). -/
def payerOf (q : Req) (p : Span) : Nat := if q.row == .recall && p.opay then p.owner else q.org.job

/-- The boundaries that a request must cross: by `lift` or not, and which. -/
def boundaries (s : State) (q : Req) (p : Span) : List (Bool × Nat) :=
  let k := q.rung
  let ready := p.has k && s.rungState p k ≠ 1
  match q.row with
  | .lift => if ready || k = 0 then [] else [(true, k - 1)]
  | .lower => if ready then [] else [(false, k)]
  | .recall =>
    if q.rmode ≠ 2 || p.has k then []
    else
      match p.all.filter (fun r => k < r) with
      | h :: _ => (List.range (h - k)).map (fun i => (false, k + i))
      | [] => match p.all.getLast? with
        | some h => (List.range (k - h)).map (fun i => (true, h + i))
        | none => []
  | _ => []

/-- A transform of a class at a boundary, when it is bound. -/
def State.transformAt (s : State) (cls : List Byte) (x : Bool × Nat) : Option (Nat × List Byte) :=
  let t := classTransform cls x.1 x.2
  (mapGet t s.hub.transforms).map (fun r => (t, r))

/-- The checks of R332 and R363, made once; none when they pass. (assumption 98, DEDUCED, unsafe) -/
def ladderChecks (s : State) (q : Req) (p : Span) : Option Code :=
  let free := match q.row with | .recall | .probe => true | _ => false
  if !free && q.org.job ≠ p.owner then some .ladderOwner
  else match s.classRec p.cls with
    | none => some .ladderClass
    | some cls =>
      let bs := boundaries s q p
      if bs.any (fun x => (s.transformAt cls x).isNone) then some .ladderClass
      else if bs.isEmpty then none
      else
        let poor := match mapGet (payerOf q p) s.hub.jobs with | some j => j.budget ≤ 0 | none => true
        let limit := match s.launch q.org.launch with | some l => l.lbudget ≠ 0 && l.lbudget ≤ l.spent | none => false
        if poor || limit then some .ladderBudget else none

/-! ### Transforms (R324, R325, R327) -/

/-- What kept a transform's image from arming: a code, or the status of the arm (R325). -/
def xformFail (status code : Nat) : LadRes := .fail .ladderXform 0 (status + code * 2 ^ 8)

/-- Words of 8 bytes. -/
def words64 (bs : List Byte) : List Nat := (List.range (bs.length / 8)).map (fun i => natOfBytes ((bs.drop (8 * i)).take 8))

/-- Frames of an image in a buffer of a job. -/
def imageFrames (s : State) (job va size n : Nat) : Except Nat (List Nat) :=
  if size < 32 * n then .error Code.handleRange.num
  else match readVa s job .ladder va (32 * n) with
    | .error e => .error e.1.num
    | .ok (bs, _) => .ok (words64 bs)

/-- The copy of a transform's image for a payer's oasis, armed when there is none (R325): its identifier. (assumption 102, DEDUCED, unsafe) -/
def xformImage (s : State) (t : Nat) (rec32 : List Byte) (payer : Nat) : Except (Nat × Nat) (Nat × State) :=
  match mapGet (t * 2 ^ 16 + payer) s.hub.xforms with
  | some id => .ok (id, s)
  | none =>
    let job := recField rec32 4 2
    match s.hentKind job (recField rec32 0 4) [1] with
    | .error c => .error (0, c.num)
    | .ok e => match imageFrames s job e.base e.size 1 with
      | .error c => .error (0, c)
      | .ok head => match armFrames (head.getD 0 0) (head.getD 1 0) with
        | .error f => .error (f.status, 0)
        | .ok n => match s.armRoom n with
          | none => .error (armStore.status, 0)
          | some id => match imageFrames s job e.base e.size n with
            | .error c => .error (0, c)
            | .ok ws => match armImage ws.toArray payer n with
              | .error f => .error (f.status, 0)
              | .ok im => .ok (id, s.modHub (fun h => { h with
                  images := mapSet id im h.images, xforms := mapSet (t * 2 ^ 16 + payer) id h.xforms }))

/-- The bindings of a transform's launch (R324, R325): its streams, and G28 to G31 of every context. -/
def xformBinds (im : Image) (rec32 : List Byte) (name src dst length : Nat) : List Bind :=
  let ports := (List.range 6).filterMap (fun i =>
    let n := recField rec32 (8 + 4 * i) 4
    match bitsOf n 19 2 with
    | 0 => none
    | w => some ({ die := bitsOf n 0 2, x := bitsOf n 2 7, y := bitsOf n 9 6, slot := bitsOf n 15 2, what := 1, index := bitsOf n 17 2,
                   val := BitVec.ofNat 64 (if w = 1 then src else dst) } : Bind))
  let entries := im.blocks.filter (fun b => !b.handler && b.id == 0)
  ports ++ entries.flatMap (fun b => (withIndex 28 [name, src, dst, length]).map (fun v =>
    ({ die := b.die, x := b.x, y := b.y, slot := b.slot, what := 0, index := v.1, val := BitVec.ofNat 64 v.2 } : Bind)))

/-- The launch of a build (R325). (assumption 103, DEDUCED, unsafe) -/
def buildLaunch (payer : Job) (build : Nat) (binds : List Bind) : Launch :=
  { id := 0, job := payer.id, region := 0, prio := 0, rollbackMode := false, eos := true, close := false, phase := payer.phase, quantum := 0,
    cnts := List.replicate 4 0xFFFF, reply := 0, lbudget := 0, seed := 0, copies := [], binds := binds, tick := 0, skewed := false,
    st := .queued, stage := 0, spent := 0, build := some build, cancelled := false, dual := false, counted := [] }

/-! ### Buffers of rungs (R322, R327) -/

/-- A buffer and its rung handle taken for rung k of a span, FILLING; for an ATTEND rung with pages taken for it, whose list is
written (R335). -/
def allotRung (s : State) (p : Span) (k size : Nat) : Except Code (Nat × State) :=
  match heapTake s p.owner size with
  | .error c => .error c
  | .ok (base, s1) =>
    if k ≠ 1 then .ok (takeRung s1 p k base size)
    else match takePages s1 p.owner (size / 8) with
      | .error c => .error c
      | .ok (pages, s2) => match writeVa s2 p.owner .ladder base (pages.flatMap (bytesOfNat 8)) with
        | .error e => .error e.1
        | .ok s3 => .ok (takeRung s3 p k base size)

/-! ### Builds (R335, R338) -/

/-- A build of rung k from a source rung starts (R335): buffers, states, and the launch. -/
def startBuild (s : State) (q : Req) (p : Span) (k src : Nat) (lift : Bool) (payer : Nat) : LadRes :=
  match s.classRec p.cls, mapGet payer s.hub.jobs with
  | some cls, some j =>
    match s.transformAt cls (lift, min k src) with
    | none => .bad q .ladderClass
    | some (t, rec32) =>
      match xformImage s t rec32 payer with
      | .error (status, code) => xformFail status code
      | .ok (image, s1) =>
        match s1.image image with
        | none => xformFail 0 0
        | some im =>
          if j.oasis < im.granules then .bad q .ladderOasis
          else if (fitBox im (s1.poolOf j.pool)).isNone then xformFail 0 Code.launchSize.num
          else
            match allotRung s1 p k (rungBytes cls k p.length) with
            | .error c => .bad q c
            | .ok (h, s2) =>
              let srcH := p.handle src
              let s3 := match s2.rungOf srcH with | some r => startRole s2 0 srcH 2 r.ent | none => s2
              let (id, s4) := s3.fresh
              let (rid, s5) := needRegion s4 image payer j.pool
              let (ln, s6) := queueLaunch s5 (buildLaunch j id (xformBinds im rec32 (s.spanName p) srcH h p.length)) rid
              let b : Build := { id := id, req := q.id, slot := p.slot, gen := p.gen, rung := k, src := src, lift := lift, payer := payer,
                                 launch := some ln, cost := 0, failed := none }
              .go ((s6.putSpan (p.with_ k h false)).modHub (fun g => { g with builds := g.builds ++ [b] }))
  | _, _ => .bad q .ladderClass

/-- Rung k built from its neighbour, or the answer with it (R335, and Build of R337). -/
def buildRung (s : State) (q : Req) (p : Span) (k src : Nat) (lift : Bool) : LadRes :=
  if p.has k then (if s.rungState p k = 1 then .wait else .go (answerRung s q p k))
  else if !p.has src then .bad q .ladderState
  else if s.rungState p src = 1 then .wait
  else startBuild s q p k src lift (payerOf q p)

/-- `recall` (R337). -/
def serveRecall (s : State) (q : Req) (p : Span) : LadRes :=
  let k := q.rung
  let ready := p.all.filter (fun r => s.rungState p r ≠ 1)
  if p.all.isEmpty then .bad q .recallDead
  else if q.rmode ≠ 2 then
    let pick (l : List Nat) : Option Nat := if q.rmode = 0 then l.getLast? else l.head?
    if bitOf q.mod 8 && pick p.all != pick ready then .wait
    else match pick ready with
      | none => .bad q .recallBusy
      | some r => .go (answerRung s q p r)
  else if p.has k then (if ready.contains k then .go (answerRung s q p k) else .wait)
  else match p.all.filter (fun r => k < r), p.all.getLast? with
    | h :: _, _ => buildRung s q p (h - 1) h false
    | [], some h => buildRung s q p (h + 1) h true
    | [], none => .bad q .recallDead

/-! ### Freeing (R321, R336, R340) -/

/-- The parked requests of a span, in arrival order. -/
def State.parkedOn (s : State) (slot : Nat) : List Req :=
  (s.hub.parked.filterMap s.req).filter (fun q => q.namesSpan && q.spanSlot = slot && q.stage == .waiting)

/-- A span is killed: its rungs are dropped and what is parked on it fails, but for the request that kills it (R321, R340). -/
def killSpan (s : State) (p : Span) (but : Option Nat) : State :=
  let s1 := p.all.foldl (fun s k => freeRungHandle s (p.handle k)) s
  ((s.parkedOn p.slot).filter (fun q => some q.id != but)).foldl (fun s q => unpark (s.failReq q.id .name 0 q.rung) q.id)
    (s1.putSpan p.dead)

/-- `drop` (R336). -/
def serveDrop (s : State) (q : Req) (p : Span) : LadRes :=
  let k := q.rung
  let kill := bitOf q.mod 9
  if !p.has k || (!kill && p.all = [k]) then .bad q .ladderState
  else if kill && p.pins ≠ 0 then .bad q .ladderPinned
  else if s.rungState p k ≠ 2 then .wait
  else if p.all = [k] then
    let s1 := killSpan s p (some q.id)
    .go (answer s1 q (s1.probeWord (p.without k)))
  else
    let s1 := (freeRungHandle s (p.handle k)).putSpan (p.without k)
    .go (answer s1 q (s1.probeWord (p.without k)))

/-- `sp.free` (R336). -/
def serveFree (s : State) (q : Req) (p : Span) : LadRes :=
  if p.pins ≠ 0 then .bad q .ladderPinned
  else if p.all.any (fun k => s.rungState p k ≠ 2) then .wait
  else .go (answer (killSpan s p (some q.id)) q 0)

/-- `sp.pin` and `sp.unpin` (R336). -/
def servePin (s : State) (q : Req) (p : Span) (up : Bool) : LadRes :=
  if p.pins = (if up then 65535 else 0) then .bad q .ladderPinned
  else
    let n := if up then p.pins + 1 else p.pins - 1
    .go (answer (s.putSpan { p with pins := n }) q n)

/-! ### `kv.app` (R347) -/

/-- Bytes of the heap moved: a buffer of a job made longer, in place while its units hold it; its base after (R347). -/
def growBuffer (s : State) (job base size bigger : Nat) : Except (Code × Nat) (Nat × State) :=
  if heapUnits bigger = heapUnits size then .ok (base, s)
  else match heapTake s job bigger with
    | .error c => .error (c, 0)
    | .ok (to_, s1) => match readVa s1 job .ladder base size with
      | .error e => .error e
      | .ok (bs, s2) => match writeVa s2 job .ladder to_ bs with
        | .error e => .error e
        | .ok s3 => .ok (to_, heapFree s3 job base size)

/-- The header of a page opened: its format, and neutral scales unless elements carry theirs (R341). -/
def openHeader (s : State) (owner va kvl kvt : Nat) : Except (Code × Nat) State :=
  match s.place owner va true with
  | .error c => .error (c, va)
  | .ok t =>
    let key := t.keyOf va
    let scales := if kvt = 8 then s.ms.mem.readBytes (key + 16) 128 else List.replicate 128 0x38
    .ok (writeNow s .ladder key (bytesOfNat 8 0 ++ bytesOfNat 1 kvt ++ bytesOfNat 1 kvl ++ bytesOfNat 6 0 ++ scales ++ List.replicate 48 0))

/-- New pages opened at the end of a list (R347). -/
def openPages (s : State) (owner kvl kvt : Nat) : Nat → List Nat → Except (Code × Nat) (List Nat × State)
  | 0, l => .ok (l, s)
  | n + 1, l => match takePages s owner 1 with
    | .error c => .error (c, 0)
    | .ok (vs, s1) => match openHeader s1 owner (vs.getD 0 0) kvl kvt with
      | .error e => .error e
      | .ok s2 => openPages s2 owner kvl kvt n (l ++ vs)

/-- Other spans share a page (R344). -/
def State.sharedPage (s : State) (owner va : Nat) : Bool := match mapGet (pageKey owner va) s.hub.pages with | some g => 1 < g.count | none => false

/-- The key and value lines of a page as the ladder engine may read them for a request (R343): KV_ECC for an uncorrectable one, and for one
that is bad in its low mantissa bits alone unless the bank unit of the request tolerates it, which KV_SOFT tells (assumption 154,
DEDUCED, unsafe). -/
def checkLines (s : State) (o : Origin) (owner va : Nat) : Except (Code × Nat) State :=
  match s.places owner (va + 384) 65152 false with
  | .error e => .error e
  | .ok ps =>
    let soft := ps.any (fun c => s.ms.softWords.any (fun w => w < c.1 + c.2.2 && c.1 < w + 8))
    if ps.any (fun c => s.ms.bad c.1 c.2.2) || (soft && !(s.bu o.bu).kv.tol) then .error (.kvEcc, va)
    else .ok (if soft then logSoft s { o with op := 0, block := 0 } 7 owner va else s)

/-- The last page made the span's own: a page that other spans share is copied, with its header as it is used, and unreffed (R347). -/
def ownPage (s : State) (owner va : Nat) (header : List Byte) : Except (Code × Nat) (Nat × State) :=
  if !s.sharedPage owner va then .ok (va, s)
  else match takePages s owner 1 with
    | .error c => .error (c, 0)
    | .ok (vs, s1) =>
      let to_ := vs.getD 0 0
      match readVa s1 owner .ladder (va + 384) 65152 with
      | .error e => .error e
      | .ok (bs, s2) => match writeVa s2 owner .ladder to_ (header ++ header ++ bs) with
        | .error e => .error e
        | .ok s3 => match pageDown s3 owner va with
          | .error c => .error (c, va)
          | .ok (_, s4) => .ok (to_, s4)

/-- The headers of pages from page `q` on, set for a length (R341). -/
def setHeaders (s : State) (owner length : Nat) (q : Nat) : List Nat → Except (Code × Nat) State
  | [] => .ok s
  | va :: rest => match s.place owner va true with
    | .error c => .error (c, va)
    | .ok t => setHeaders (writeHeader s (t.keyOf va) (pageMask length q)) owner length (q + 1) rest

/-- A page's header used by the ladder engine (R342), and the state, in which a rewrite stands and is logged whatever the header reads. -/
def checkHeader (s : State) (o : Origin) (owner va kvl kvt : Nat) : Except (Code × Nat) (List Byte) × State :=
  match s.place owner va false with
  | .error c => (.error (c, va), s)
  | .ok t =>
    let (h, fixed, s1) := useHeader s .ladder (t.keyOf va) kvl kvt
    (match h with | none => .error (.kvEcc, va) | some h => .ok h,
     if fixed then logSoft s1 { o with op := 0, block := 0 } 7 owner va else s1)

/-- The vectors of one position written (R341). -/
def putPosition (owner kvb : Nat) (pages : List Nat) (src : List Byte) (n : Nat) (length i : Nat) (s : State) : Except (Code × Nat) State :=
  let pos := length + i
  let page := pages.getD (pos / 64) 0 + 384
  match writeVa s owner .ladder (page + pos % 64 * kvb) ((src.drop (i * kvb)).take kvb) with
  | .error e => .error e
  | .ok s1 => writeVa s1 owner .ladder (page + 64 * kvb + pos % 64 * kvb) ((src.drop ((n + i) * kvb)).take kvb)

/-- The vectors of n positions written. -/
def putPositions (owner kvb : Nat) (pages : List Nat) (src : List Byte) (n length : Nat) : List Nat → State → Except (Code × Nat) State
  | [], s => .ok s
  | i :: rest, s => match putPosition owner kvb pages src n length i s with
    | .error e => .error e
    | .ok s1 => putPositions owner kvb pages src n length rest s1

/-- The last page of a rung, when an append goes on filling it: its header as it is used, its lines being good where it must be copied (R342,
R343, R347); and the state. -/
def lastPage (s : State) (q : Req) (p : Span) (cls : List Byte) (r1 : Rung) : Except (Code × Nat) (List Byte) × State :=
  let full := p.length / 64
  if r1.size / 8 ≤ full then (.ok [], s)
  else match pageList s p.owner (r1.base + 8 * full) 1 with
    | .error c => (.error (c, r1.base), s)
    | .ok l =>
      let va := l.getD 0 0
      match checkHeader s q.org p.owner va (classKvl cls) (classKvt cls) with
      | (.error e, t) => (.error e, t)
      | (.ok h, t) =>
        if !t.sharedPage p.owner va then (.ok h, t)
        else match checkLines t q.org p.owner va with
          | .error e => (.error e, t)
          | .ok u => (.ok h, u)

/-- The append itself, once the request's rules hold and the header of the last page is known: the pages and buffers as they become, and the
rungs FULL (R347). -/
def appendKv (s : State) (q : Req) (p : Span) (cls : List Byte) (n : Nat) (e : HEnt) (r1 : Rung) (header : List Byte) :
    Except (Code × Nat) (Span × State) := do
  let kvl := classKvl cls
  let kvb := 64 * kvl
  let tokens := p.has 0
  let (bs, s1) ← readVa s q.org.job .ladder e.base (2 * n * kvb + (if tokens then 4 * n else 0))
  let old ← (pageList s1 p.owner r1.base (r1.size / 8)).mapError (fun c => (c, r1.base))
  let full := p.length / 64
  let (kept, s2) ← match old.drop full with
    | [] => pure (old, s1)
    | va :: _ => do
      let (mine, sb) ← ownPage s1 p.owner va header
      pure (old.take full ++ [mine], sb)
  let total := (p.length + n + 63) / 64
  let (pages, s3) ← openPages s2 p.owner kvl (classKvt cls) (total - kept.length) kept
  let (lbase, s4) ← growBuffer s3 p.owner r1.base r1.size (8 * total)
  let s5 ← writeVa s4 p.owner .ladder lbase (pages.flatMap (bytesOfNat 8))
  let s6 ← putPositions p.owner kvb pages bs n p.length (List.range n) s5
  let (tbase, s7) ← match (if tokens then s6.rungOf (p.handle 0) else none) with
    | none => pure (0, s6)
    | some r0 => do
      let (b, sa) ← growBuffer s6 p.owner r0.base r0.size (4 * (p.length + n))
      let sb ← writeVa sa p.owner .ladder (b + 4 * p.length) (bs.drop (2 * n * kvb))
      pure (b, sb)
  let s8 ← setHeaders s7 p.owner (p.length + n) full (pages.drop full)
  let s9 := s8.putHent 0 (p.handle 1) { r1.ent with state := 2, base := lbase, size := 8 * total } s8.ladderRel
  let s10 := match (if tokens then s9.rungOf (p.handle 0) else none) with
    | none => s9
    | some r0 => s9.putHent 0 (p.handle 0) { r0.ent with state := 2, base := tbase, size := 4 * (p.length + n) } s9.ladderRel
  let p' := { p with length := p.length + n }
  pure (p', s10.putSpan p')

/-- `kv.app` (R347). -/
def serveApp (s : State) (q : Req) (p : Span) : LadRes :=
  let n := q.c % 2 ^ 28
  let st := s.rungState p 1
  if !(st = 2 || st = 3) || p.has 2 || p.has 3 || p.has 4 then .bad q .ladderState
  else if n = 0 then .go (answerRung s q p 1)
  else if st = 3 || (p.has 0 && s.rungState p 0 ≠ 2) then .wait
  else if 2 ^ 28 ≤ p.length + n then .bad q .ladderArg
  else match s.classRec p.cls, s.rungOf (p.handle 1) with
    | some cls, some r1 =>
      match s.hentKind q.org.job (q.b % 2 ^ 32) [1] with
      | .error c => .bad q c
      | .ok e =>
        if e.state < 2 then .bad q .ladderArg
        else if e.size < 128 * n * classKvl cls + (if p.has 0 then 4 * n else 0) then .bad q .handleRange
        else match lastPage s q p cls r1 with
          | (.error (c, va), t) => .failIn t c va q.rung
          | (.ok header, t) => match appendKv t q p cls n e r1 header with
            | .error (c, va) => .failIn t c va q.rung
            | .ok (p', s1) => .go (answerRung s1 q p' 1)
    | _, _ => .bad q .ladderClass

/-! ### Service (R326, R331, R335 to R337) -/

/-- The rules of a request whose name and checks have passed. -/
def ladderRules (s : State) (q : Req) (p : Span) : LadRes :=
  match q.row with
  | .probe => .go (answer s q (s.probeWord p))
  | .lift => buildRung s q p q.rung (q.rung - 1) true
  | .lower => buildRung s q p q.rung (q.rung + 1) false
  | .recall => serveRecall s q p
  | .drop => serveDrop s q p
  | .spFree => serveFree s q p
  | .spPin => servePin s q p true
  | .spUnpin => servePin s q p false
  | .kvApp => serveApp s q p
  | _ => .bad q .ladderArg

/-- A request that names a span, served or tried again: one whose build runs waits for its end. -/
def tryRequest (s : State) (q : Req) : LadRes :=
  if s.hub.builds.any (fun b => b.req = q.id) then .wait
  else match s.spanNamed q.a with
    | .error c => .bad q c
    | .ok p =>
      match (if q.begun then none else ladderChecks s q p) with
      | some c => .bad q c
      | none => ladderRules s q p

/-- A request parked: its checks have been made (R326, R337). (assumption 101, DEDUCED, unsafe) -/
def parkReq (s : State) (q : Req) : State :=
  (s.modReq q.id (fun r => { r with stage := .waiting, begun := true })).modHub (fun h =>
    { h with parked := if h.parked.contains q.id then h.parked else h.parked ++ [q.id] })

/-- What a service came to, done: a request whose build has started stays parked. -/
def settleRes (s : State) (q : Req) (r : LadRes) : State :=
  match r with
  | .wait => parkReq s q
  | .go t => if t.hub.builds.any (fun b => b.req = q.id) then parkReq t q else t
  | .fail c a x => unpark (s.failReq q.id c a x) q.id
  | .failIn t c a x => unpark (t.failReq q.id c a x) q.id

/-- The first parked request of a list that something comes of. -/
def firstDue (s : State) : List Req → Option (Req × LadRes)
  | [] => none
  | q :: rest => match tryRequest s q with
    | .wait => firstDue s rest
    | r => some (q, r)

/-- The parked requests of a span tried again, in arrival order, until nothing comes of any (R326). -/
def retrySpan (fuel : Nat) (s : State) (slot : Nat) : State :=
  match fuel with
  | 0 => s
  | n + 1 => match firstDue s (s.parkedOn slot) with
    | none => s
    | some (q, r) => retrySpan n (settleRes s q r) slot

/-- The parked requests of a span tried again. -/
def retryAll (s : State) (slot : Nat) : State := retrySpan (2 * s.hub.parked.length + 1) s slot

/-! ### `sp.new` (R334) -/

/-- The lowest slot from k on that holds no span. -/
def freeSpanSlot (s : State) : Nat → Nat → Option Nat
  | 0, _ => none
  | n + 1, k => if (s.span k).live then freeSpanSlot s n (k + 1) else some k

/-- The span that `sp.new` makes in a slot, without its rung. -/
def newSpan (s : State) (q : Req) (slot n : Nat) : Span :=
  { slot := slot, present := 0, regen := 0, cls := q.a % 256, opay := bitOf q.mod 9, live := true, gen := (s.span slot).gen,
    owner := q.org.job, length := n, pins := 0, rungs := [0, 0, 0, 0, 0], spent := 0 }

/-- The content of a rung put into its buffer, FULL, and the span's entry (R329, R334). -/
def fillNew (s : State) (q : Req) (p : Span) (k size : Nat) (content : List Byte) : Except (Code × Nat) State :=
  match heapTake s p.owner size with
  | .error c => .error (c, 0)
  | .ok (base, s1) => match writeVa s1 p.owner .ladder base content with
    | .error e => .error e
    | .ok s2 =>
      let (h, s3) := takeRung s2 p k base size
      let p' := p.with_ k h false
      .ok (answer ((setFull s3 h).putSpan p') q (s3.spanName p'))

/-- The headers of adopted pages checked: each passes R342 and covers its positions; the page of a breach, which is LADDER_ARG (R334), and the
state. -/
def adoptChecks (s : State) (q : Req) (cls : List Byte) (length : Nat) (i : Nat) : List Nat → Option Nat × State
  | [] => (none, s)
  | va :: rest => match checkHeader s q.org q.org.job va (classKvl cls) (classKvt cls) with
    | (.error _, s1) => (some va, s1)
    | (.ok h, s1) => if recField h 0 8 ≠ pageMask length i then (some va, s1) else adoptChecks s1 q cls length (i + 1) rest

/-- One more reference to each page of a list. -/
def pagesUp (s : State) (owner : Nat) : List Nat → Except (Code × Nat) State
  | [] => .ok s
  | va :: rest => match pageUp s owner va with
    | .error c => .error (c, va)
    | .ok (_, s1) => pagesUp s1 owner rest

/-- Pages that have passed their checks adopted by a new span (R334). -/
def adoptPages (s : State) (q : Req) (p : Span) (pages : List Nat) : Except (Code × Nat) State := do
  let s2 ← pagesUp s q.org.job pages
  let s3 ← setHeaders s2 q.org.job p.length 0 pages
  fillNew s3 q p 1 (8 * pages.length) (pages.flatMap (bytesOfNat 8))

/-- `sp.new` of rung 1: the pages of a list checked and adopted (R334). (assumption 100, DEDUCED, unsafe) -/
def serveAdopt (s : State) (q : Req) (cls : List Byte) (p : Span) (e : HEnt) : LadRes :=
  let m := (p.length + 63) / 64
  if e.size < 8 * m then .bad q .ladderArg
  else match pageList s q.org.job e.base m with
    | .error c => .fail c e.base q.rung
    | .ok pages => match adoptChecks s q cls p.length 0 pages with
      | (some va, t) => .failIn t .ladderArg va q.rung
      | (none, t) => match adoptPages t q p pages with
        | .error (c, va) => .failIn t c va q.rung
        | .ok s1 => .go s1

/-- `sp.new` of another rung: the bytes of a buffer copied (R334). -/
def serveCopy (s : State) (q : Req) (p : Span) (k size : Nat) (e : HEnt) : LadRes :=
  match readVa s q.org.job .ladder e.base size with
  | .error (c, va) => .fail c va k
  | .ok (bs, s1) => match fillNew s1 q p k size bs with
    | .error (c, va) => .fail c va k
    | .ok s2 => .go s2

/-- `sp.new` (R334). (assumption 97, DESIGN CHOICE, unsafe) -/
def serveNew (s : State) (q : Req) : LadRes :=
  let n := q.c % 2 ^ 64
  let k := q.rung
  let h := q.b % 2 ^ 32
  match mapGet (q.a % 256) s.hub.classes, s.classRec (q.a % 256) with
  | some _, none => .bad q .ladderClass
  | none, _ => .bad q .ladderArg
  | some _, some cls =>
    if 2 ^ 28 ≤ n then .bad q .ladderArg
    else match s.hentKind q.org.job h [if k = 1 then 4 else 1] with
      | .error _ => .bad q .ladderArg
      | .ok e =>
        let size := rungBytes cls k n
        if k ≠ 1 && (e.state < 2 || e.size < size) then .bad q .ladderArg
        else match freeSpanSlot s s.hub.spanSize 0 with
          | none => .bad q .ladderFull
          | some slot =>
            let p := newSpan s q slot n
            if k = 1 then serveAdopt s q cls p e else serveCopy s q p k size e

/-! ### `pg.ref` and `pg.unref` (R346) -/

/-- A reference to a page of a list taken or given up. -/
def servePage (s : State) (q : Req) (up : Bool) : LadRes :=
  let h := q.a % 2 ^ 32
  let b := q.b % 2 ^ 32
  match s.hentKind q.org.job h [3, 4] with
  | .error c => .bad q c
  | .ok e =>
    let attend := match (if isRungHandle h then s.rungOf h else none) with | some r => r.rung = 1 | none => true
    if !attend || e.size / 8 ≤ b then .bad q .ladderArg
    else
      let owner := s.hJob q.org.job h
      match readVa s owner .ladder (e.base + 8 * b) 8 with
      | .error (c, va) => .fail c va 0
      | .ok (bs, s1) =>
        match (if up then pageUp s1 owner (natOfBytes bs) else pageDown s1 owner (natOfBytes bs)) with
        | .error c => .bad q c
        | .ok (n, s2) => .go (answer s2 q n)

/-! ### Spans of other modules (R319, R404) -/

/-- The other module of its job's caravan whose ladder engine a request is for (R319). (assumption 99, DEDUCED, unsafe) -/
def State.farHome (s : State) (q : Req) : Option Nat :=
  let home := bitsOf q.a 52 12
  let mods := match mapGet q.org.job s.hub.jobs with | some j => j.caravan | none => []
  if q.namesSpan && q.org.bu < peerBase && bitsOf q.a 0 12 = 0 && home ≠ s.out.moduleId.getD 0 && mods.contains home then some home else none

/-- A request for a span of another module goes there over its link, and its answer or its failure comes from there: what that is stands
in the argument of the step. -/
def serveFar (s : State) (q : Req) (module : Nat) : State :=
  let a := s.my.arg
  match q.stage with
  | .waiting =>
    if !a.flag then s
    else if a.m = 0 then s.reply q.id (natOfBytes a.bytes % 2 ^ 64)
    else s.modReq q.id (fun r => { r with stage := .failed a.m a.cmd.a0.toNat q.rung, hold := [], after := [] })
  | _ =>
    if s.mayServe q && s.maySend module then (s.sendPeer module).modReq q.id (fun r => { r with stage := .waiting, begun := true }) else s

/-- A request of a peer module for a span of this one arrives over its link, under the identity of its job: its opcode, `mod` field, operands
and job stand in the argument of the step (R319, R404). -/
def peerLadder (s : State) : State :=
  let a := s.my.arg
  match decodeRow a.m false a.cmd.a3.toNat, s.linkTo a.n with
  | .ok row, some link =>
    if !isLadder row || row == .spNew || row == .pgRef || row == .pgUnref || s.out.moduleId.isNone || s.out.window link = 0 then s
    else
      let (id, s1) := s.fresh
      let o : Origin := { bu := peerBase + a.n, slot := 0, block := 0, op := 0, elem := 0, round := 0, region := 0, launch := 0,
                          job := a.cmd.job.toNat }
      let q : Req :=
        { id := id, org := o, row := row, port := 0, a := a.cmd.a0.toNat, b := a.cmd.a1.toNat, c := a.cmd.a2.toNat, mod := a.cmd.a3.toNat,
          ty := .i8, rm := .rne, ovf := .sat, imm := true, dst := .none, committed := true, dead := false, stage := .sent,
          sync := bitsOf a.cmd.a3.toNat 0 3, past := s.ms.past (.peer a.n), after := [], hold := [], flags := 0, begun := false, rel := [],
          obs := [] }
      { s1 with hub := { s1.hub with reqs := s1.hub.reqs ++ [q] },
                out := { s1.out with peerWindows := mapSet link (s1.out.window link - 1) s1.out.peerWindows } }
  | _, _ => s

/-- LADDER_REQUEST_SERVICE: the ladder engine serves a request that has arrived (R326): what is parked on its span goes first when the
entry has changed, and what is parked is tried again after it. A request for a span of another module is served there (R319), and one
of a peer comes in by this step too. -/
def execLadderRequestService (s : State) : Host.Outcome State Fault Refusal :=
  nextState (
    if s.my.arg.flag2 then peerLadder s
    else match s.req s.my.arg.n with
    | none => s
    | some q =>
      if !isLadder q.row then s
      else match s.farHome q with
      | some m => serveFar s q m
      | none =>
      if !s.mayServe q then s
      else
        let s0 := ladderAcquire s q
        if q.namesSpan then
          let s1 := retryAll s0 q.spanSlot
          retryAll (settleRes s1 q (tryRequest s1 q)) q.spanSlot
        else settleRes s0 q (match q.row with
          | .spNew => serveNew s0 q
          | .pgRef => servePage s0 q true
          | _ => servePage s0 q false))

/-- PARKED_RETRY: the requests parked on the span of a parked request are tried again (R326). -/
def execParkedRetry (s : State) : Host.Outcome State Fault Refusal :=
  nextState (
    match s.req s.my.arg.n with
    | some q => if q.namesSpan && q.stage == .waiting then retryAll s q.spanSlot else s
    | none => s)

/-! ### The end of a transform (R325, R329, R330, R338, R363) -/

/-- A build's cost charged: to the payer, to the span of another owner, and to the launch whose request it serves. -/
def chargeCost (s : State) (b : Build) : State :=
  let s1 := s.modJob b.payer (fun j => { j with budget := j.budget - b.cost })
  let p := s1.span b.slot
  let s2 := if p.live && p.gen = b.gen && p.owner ≠ b.payer then s1.putSpan { p with spent := (p.spent + b.cost) % 2 ^ 64 } else s1
  match s2.req b.req with
  | some q => s2.modLaunch q.org.launch (fun l => { l with spent := l.spent + b.cost })
  | none => s2

/-- The rung of a build that has failed is absent again (R329). -/
def buildFailed (s : State) (b : Build) (p : Span) (c : Nat) : State :=
  let s1 := (freeRungHandle s (p.handle b.rung)).putSpan (p.without b.rung)
  unpark (s1.failReq b.req .ladderXform 0 (c * 2 ^ 8)) b.req

/-- The rung of a build that has succeeded is FULL (R329, R330, R335). -/
def buildDone (s : State) (b : Build) (p : Span) : State :=
  let h := p.handle b.rung
  let regen := if b.lift then bitOf p.regen b.src else true
  let headed : Except (Code × Nat) State :=
    if b.rung ≠ 1 then .ok s
    else match s.rungOf h with
      | some r => setHeaders s r.owner p.length 0 (rungPages s r)
      | none => .ok s
  match headed with
  | .error (c, _) => buildFailed s b p c.num
  | .ok s1 => (setFull s1 h).putSpan (p.with_ b.rung h regen)

/-- A build ends: its cost is charged, its source restored, and its rung FULL or absent; what is parked on the span is tried again. -/
def endBuild (s : State) (b : Build) : State :=
  let s1 := (chargeCost s b).modHub (fun h => { h with builds := h.builds.filter (fun x => x.id != b.id) })
  let p := s1.span b.slot
  if !p.live || p.gen ≠ b.gen then s1
  else
    let s2 := endRole s1 0 (p.handle b.src) 2 false false
    let s3 := match b.failed with
      | some c => buildFailed s2 b p c
      | none => buildDone s2 b p
    retryAll s3 b.slot

/-! ### Copies of transform images (R325) -/

/-- An armed image and its regions are gone. -/
def dropImage (s : State) (image : Nat) : State :=
  let rs := (s.hub.regions.map (·.2)).filter (fun r => r.image = image)
  let s1 := (rs.filter (fun r => r.place.isSome)).foldl (fun s r => releaseRegion s r.id) s
  s1.modHub (fun h => { h with
    regions := h.regions.filter (fun e => e.2.image != image),
    images := mapDel image h.images,
    badSlots := h.badSlots.filter (fun b => b.1 != image) })

/-- A launch runs or waits on some region of an image. (assumption 104, DEDUCED, unsafe) -/
def State.imageBusy (s : State) (image : Nat) : Bool :=
  s.hub.regions.any (fun e => e.2.image == image && (e.2.running.isSome || !e.2.queue.isEmpty))

/-- Copies given up, whose keys lie above every transform's: those that no launch uses any more are gone. -/
def sweepXforms (s : State) : State :=
  (s.hub.xforms.filter (fun x => 2 ^ 32 ≤ x.1 && !s.imageBusy x.2)).foldl (fun s x =>
    dropImage (s.modHub (fun h => { h with xforms := mapDel x.1 h.xforms })) x.2) s

/-- The copies that a test takes are given up: no later build uses them. -/
def retireXforms (s : State) (hit : Nat → Bool) : State :=
  sweepXforms ((s.hub.xforms.filter (fun x => x.1 < 2 ^ 32 && hit x.1)).foldl (fun s x => s.modHub (fun h =>
    { h with xforms := mapSet (2 ^ 32 * (x.2 + 1) + x.1) x.2 (mapDel x.1 h.xforms) })) s)

end Sys2Proof.Machine
end

