-- ==== Sys2Proof/Machine/Jobs.lean ====
section
/-!
DEFINITION. The delivery of fault records, the end of jobs, the completion of launches and transforms, and the requests of completion
counters, cancels and closings (R325, R328, R352, R355, R356, R368, R370, R371, R377 to R380).
-/
namespace Sys2Proof.Machine

/-! ### Slots and queues in memory (R377, R378, R380) -/

/-- A record written in a memory slot of a job when byte 0 of the slot reads 0; none when the slot does not take it. -/
def postSlot (s : State) (job va : Nat) (r : FaultRec) : Option State :=
  match s.peekVa job va 1 with
  | some [0] => match writeVa s job .host va r.bytes with
    | .ok t => some t
    | .error _ => none
  | _ => none

/-- A record appended to a job fault queue at a VA: the record performs before `tail` rises; a full queue drops it (R380).
(assumption 105, DEDUCED, unsafe) -/
def fqAppend (s : State) (job fq : Nat) (r : FaultRec) : State :=
  match s.peekVa job fq 24 with
  | none => s
  | some bs =>
    let n := natOfBytes bs
    let tail := bitsOf n 0 64
    let slots := bitsOf n 128 32
    let lost := bitsOf n 160 32
    let put (va : Nat) (bytes : List Byte) (s : State) : State := match writeVa s job .host va bytes with | .ok t => t | .error _ => s
    if bitsOf n 64 64 + slots ≤ tail then put (fq + 20) (bytesOfNat 4 (min (lost + 1) 0xFFFFFFFF)) s
    else put fq (bytesOfNat 8 ((tail + 1) % 2 ^ 64)) (put (fq + 64 + 32 * (tail % slots)) r.bytes s)

/-- The `flt.reply` word of a context, in its bank unit or in its saved region. -/
def replyWord (s : State) (o : Origin) : Nat :=
  if 3 < o.slot then 0
  else if o.bu < Config.bankUnits then ((s.bu o.bu).reply[Fin.ofNat 4 o.slot]).toNat
  else match (s.region o.region).bind (·.saved) with
    | some v => (((v.bus.getD (o.bu % 2 ^ 15) Bu.reset).reply)[Fin.ofNat 4 o.slot]).toNat
    | none => 0

/-- The handler queue of a context takes an asynchronous record (R377, R379). -/
def handlerTakes (s : State) (o : Origin) : Bool :=
  o.bu < Config.bankUnits && o.slot < 4 && (s.ctx o.bu o.slot).launch.isSome && (s.regionOf o.bu).isSome && s.hasHandler o.bu &&
    (s.bu o.bu).hq.length < 8 && (s.bu o.bu).faultWait.isEmpty

/-- The phase queue of a job. -/
def State.phaseQueue (s : State) (job phase : Nat) : List FaultRec :=
  match s.hub.phaseQueues.find? (fun e => e.1 == job && e.2.1 == phase) with | some e => e.2.2 | none => []

/-- It changed. -/
def State.setPhaseQueue (s : State) (job phase : Nat) (l : List FaultRec) : State :=
  s.modHub (fun h => { h with phaseQueues := h.phaseQueues.filter (fun e => !(e.1 == job && e.2.1 == phase)) ++
    (if l.isEmpty then [] else [(job, phase, l)]) })

/-- Stage 0 takes a record (R377, R378). (assumption 106, DEDUCED, unsafe) -/
def stage0 (s : State) (p : PRec) : Option State :=
  let o := p.org
  let w := replyWord s o
  match w % 4 with
  | 1 => if handlerTakes s o then
      some (s.modBu o.bu (fun b => { b with hq := b.hq ++ [{ record := { p.record with level := 0 }, slot := o.slot, cycle := b.cycle }] }))
    else none
  | 2 => postSlot s o.job (bitsOf w 5 52 * 32) { p.record with level := 0 }
  | _ => none

/-- Stage 1: the `reply` of the launch record. -/
def stage1 (s : State) (p : PRec) : Option State := if p.reply = 0 then none else postSlot s p.org.job p.reply { p.record with level := 1 }

/-- Stage 2: the graph fault queue. -/
def stage2 (s : State) (p : PRec) : Option State :=
  match s.region p.org.region with
  | some r => if r.graphDone || 16 ≤ r.gq.length then none
    else some (s.modRegion r.id (fun g => { g with gq := g.gq ++ [{ p.record with level := 2 }] }))
  | none => none

/-- Stage 3: the phase fault queue. -/
def stage3 (s : State) (p : PRec) : Option State :=
  match mapGet p.org.job s.hub.jobs with
  | some j =>
    let q := s.phaseQueue j.id p.phase
    if p.phase < j.phase || 16 ≤ q.length then none else some (s.setPhaseQueue j.id p.phase (q ++ [{ p.record with level := 3 }]))
  | none => none

/-- Stage 4: the job fault queue. -/
def stage4 (s : State) (p : PRec) : State :=
  match mapGet p.org.job s.hub.jobs with
  | some j => fqAppend s j.id j.fq { p.record with level := 4 }
  | none => s

/-- The chain of R377 from a stage: the stage that takes the record, and the state. -/
def deliverFrom (s : State) (p : PRec) : Nat → Nat → Nat × State
  | 0, _ => (4, stage4 s p)
  | n + 1, stage =>
    match (match stage with | 0 => stage0 s p | 1 => stage1 s p | 2 => stage2 s p | 3 => stage3 s p | _ => some (stage4 s p)) with
    | some t => (stage, t)
    | none => deliverFrom s p n (stage + 1)

/-- The first fault that goes past the launch of a transform ends it in failure (R325). -/
def markBuild (s : State) (p : PRec) (stage : Nat) : State :=
  if p.stage ≤ 1 && 2 ≤ stage then
    s.modHub (fun h => { h with builds := h.builds.map (fun b =>
      if b.launch = some p.org.launch && b.failed.isNone then { b with failed := some p.record.code } else b) })
  else s

/-- A record under delivery passes along its chain, and is posted (R377). -/
def deliverRec (s : State) (p : PRec) : State :=
  let (stage, s1) := deliverFrom s p 4 p.stage
  (markBuild s1 p stage).modHub (fun h => { h with recs := h.recs.filter (fun r => r.id != p.id) })

/-! ### The end of a job (R328, R354, R368) -/

/-- The spans that a job owns. -/
def State.spansOf (s : State) (job : Nat) : List Span :=
  (((s.hub.rungs.filter (fun r => r.2.used && r.2.owner = job)).map (fun r => r.2.span)).eraseDups.map s.span).filter
    (fun p => p.live && p.owner = job)

/-- The builds that a job pays for, or that build its spans. (assumption 107, DEDUCED, unsafe) -/
def State.buildsOf (s : State) (job : Nat) : List Build :=
  s.hub.builds.filter (fun b => b.payer = job || (s.span b.slot).owner = job)

/-- A job at its completion: spans, images, handles, counters and oasis, then its record (R368), which belongs to no launch, graph or
phase, so that its chain from stage 1 ends at stage 4 (R377). -/
def endJob (s : State) (j : Job) : State :=
  let s1 := (s.spansOf j.id).foldl (fun s p => killSpan s p none) s
  let s2 := retireXforms s1 (fun k => k % 2 ^ 16 = j.id)
  let s3 := ((s2.hub.images.filter (fun e => e.2.job = j.id && !s2.hub.xforms.any (fun x => x.2 == e.1))).map (·.1)).foldl dropImage s2
  let s4 := dropTrans (dropWalks s3 (fun e => e.job = j.id)) (fun t => t.job = j.id)
  let s5 := fqAppend s4 j.id j.fq { s4.hubRec .jobEnd false 0 0 0 with level := 4 }
  s5.modHub (fun h => { h with
    jobs := mapDel j.id h.jobs,
    counters := h.counters.filter (fun c => !(j.cntBase ≤ c.1 && c.1 < j.cntBase + j.ncnt)),
    cntRels := h.cntRels.filter (fun c => !(j.cntBase ≤ c.1 && c.1 < j.cntBase + j.ncnt)),
    handleQs := h.handleQs.filter (fun q => q.job != j.id),
    phaseQueues := h.phaseQueues.filter (fun q => q.1 != j.id),
    pages := h.pages.filter (fun p => p.2.owner != j.id),
    reqs := h.reqs.filter (fun q => q.org.job != j.id),
    progs := h.progs.filter (fun p => h.reqs.any (fun q => q.id == p.req && q.org.job != j.id)) })

/-- A closed job that has no launch left: its transforms are cancelled, then it completes once they have ended and what it posts is
delivered (R328, R352, R368). (assumption 84, DEDUCED, unsafe) -/
def settleJob (s : State) (j : Job) : State :=
  if !j.closed || (s.hub.launches.any (fun l => l.2.job == j.id && l.2.build.isNone)) then s
  else match s.buildsOf j.id with
    | [] => if s.hub.recs.any (fun p => p.org.job == j.id) then s else endJob s j
    | bs => cancelLaunches s (bs.filterMap (fun b => b.launch.filter (fun l => match s.launch l with | some l => !l.cancelled | none => false)))

/-- Every job that may complete does. -/
def settleJobs (s : State) : State := (s.hub.jobs.map (·.2)).foldl settleJob s

/-- FAULT_RECORD_DELIVERY: a record passes along its chain of stages until one accepts it (R377). -/
def execFaultRecordDelivery (s : State) : Host.Outcome State Fault Refusal :=
  nextState (
    match s.hub.recs.find? (fun p => p.id == s.my.arg.n) with
    | some p => settleJobs (deliverRec s p)
    | none => s)

/-- LAUNCH_COMPLETION: a launch completes once everything of it has (R352, R356). -/
def execLaunchCompletion (s : State) : Host.Outcome State Fault Refusal :=
  nextState (
    match s.launch s.my.arg.n with
    | some l => if launchReady s l then settleJobs (finishLaunch s l) else s
    | none => s)

/-- QUANTUM_EXPIRY: the quantum of a placed region has passed (R364, R365). A completion of its launch in the same cycle wins (R366). -/
def execQuantumExpiry (s : State) : Host.Outcome State Fault Refusal :=
  nextState (
    match s.region s.my.arg.n with
    | none => s
    | some r =>
      match r.running.bind s.launch with
      | none => s
      | some l =>
        if l.quantum = 0 || r.place.isNone || r.quantumUsed < 1000 * l.quantum || !r.primary then s
        else if launchReady s l then settleJobs (finishLaunch s l)
        else expireRegion s r l)

/-- TRANSFORM_END: the transform of a build whose launch has completed ends (R325, R329, R338). -/
def execTransformEnd (s : State) : Host.Outcome State Fault Refusal :=
  nextState (
    match s.hub.builds.find? (fun b => b.id == s.my.arg.n) with
    | some b => if b.launch.isNone then settleJobs (sweepXforms (endBuild s b)) else s
    | none => s)

/-! ### Counters, cancels and closings (R355, R356, R370, R371) -/

/-- The completion of an instance is counted, once what it issued and what its streams wrote has performed and been published, and its
records are posted (R352, R356). -/
def countInstance (s : State) (q : Req) : State :=
  if q.after.any s.outstanding || s.ms.pending.any (fun p => p.w.party == q.party) then s
  else ((countOn s q.org.job q.a [(q.party, 4, q.past)]).modLaunch q.org.launch (fun l =>
    { l with counted := if l.counted.contains q.c then l.counted else l.counted ++ [q.c] })).dropReq q.id

/-- The entry of a job's counter, or CNT_RANGE. -/
def State.counterOf (s : State) (job i : Nat) : Option Nat :=
  match mapGet job s.hub.jobs with
  | some j => if i < j.ncnt then some (j.cntBase + i) else none
  | none => none

/-- `done.phase` (R367, R370): the phase of the issuing launch closes. -/
def serveDonePhase (s : State) (q : Req) : State :=
  let s1 := s.dropReq q.id
  match s.launch q.org.launch, mapGet q.org.job s.hub.jobs with
  | some l, some j => if j.phase ≤ l.phase then closePhase s1 j.id l.phase else s1
  | _, _ => s1

/-- A request of R370 at the hub. -/
def serveWork (s : State) (q : Req) : State :=
  match q.row with
  | .cntAdd => match addCounter s q.org.job q.a (q.b % 2 ^ 32) q.release.toList with
    | some t => t.dropReq q.id
    | none => s.failReq q.id .cntRange 0 0
  | .cntRd => match s.counterOf q.org.job q.a with
    | some k => s.reply q.id (s.counterVal k).toNat
    | none => s.failReq q.id .cntRange 0 0
  | .cntWait => match s.counterOf q.org.job q.a with
    | some k => wakeCounter (s.modReq q.id (fun r => { r with stage := .waiting, a := k, b := q.b % 2 ^ 32, c := 0 })) k
    | none => s.failReq q.id .cntRange 0 0
  | .cancel => match cancelWork s q.org.job (bitsOf q.mod 8 3) q.a (some q.org.region) with
    | .ok (n, t) => settleJobs (t.reply q.id n)
    | .error c => s.failReq q.id c 0 0
  | .donePhase => serveDonePhase s q
  | .doneJob => settleJobs ((s.dropReq q.id).modJob q.org.job (fun j => { j with closed := true }))
  | _ => s

/-- The rows of R370 that COUNTER_REQUEST serves. (assumption 59, DESIGN CHOICE, safe) -/
def isWork (r : Row) : Bool :=
  match r with | .cntAdd | .cntRd | .cntWait | .cancel | .donePhase | .doneJob => true | _ => false

/-- COUNTER_REQUEST: a completion counter serves an add, a read, a wait or a count, or the hub serves a cancel or a closing (R355, R356,
R370). -/
def execCounterRequest (s : State) : Host.Outcome State Fault Refusal :=
  nextState (
    match s.req s.my.arg.n with
    | none => s
    | some q =>
      if q.row == .cntAdd && q.begun then countInstance s q
      else if isWork q.row && s.mayServe q then serveWork s q
      else s)

/-- CNT_WAIT_ANSWER: a `cnt.wait` whose target is reached is answered with the counter's value (R370). -/
def execCntWaitAnswer (s : State) : Host.Outcome State Fault Refusal :=
  nextState (
    match s.req s.my.arg.n with
    | some q => if q.row == .cntWait && q.stage == .waiting && q.c = 1 then s.reply q.id q.b else s
    | none => s)

end Sys2Proof.Machine
end

