-- ==== Sys2Proof/Machine/Recovery.lean ====
section
/-!
DEFINITION. Rounds that commit, rollbacks, dual runs and their votes, the hang monitor, freeze waves, bank retention and the move of
lines after a bank drop (R279, R280, R376, R382 to R391, R394).
-/
namespace Sys2Proof.Machine

/-! ### Committing a round (R382, R384) -/

/-- A context has closed round q, counted from the launch's start. -/
def closedRound (q : Nat) (c : Ctx) : Bool :=
  let d := (c.regs.round + 4096 - q % 4096) % 4096
  1 ≤ d && d ≤ 2047

/-- A context's part of the launch is over. -/
def Ctx.isOver (c : Ctx) : Bool := c.st == .idle || c.st == .stopped

/-- A region's next round may commit (R382): every context has closed it, or is IDLE or STOPPED; when all are, the round was opened. A
region that a rollback is called for commits none, nor one that waits for its vote. -/
def roundDue (s : State) (r : Region) : Bool :=
  let cs := (s.regionBus r).flatMap (fun n => [0, 1, 2, 3].map (s.ctx n))
  r.running.isSome && r.place.isSome && !r.wantRollback && r.vote.isNone &&
    cs.all (fun c => c.isOver || closedRound r.commits c) && (!cs.all Ctx.isOver || r.commits < r.opened)

/-- A context's rollback point as round q commits: its checkpoint of that round, or an ended instance (R384, R386). -/
def Ctx.advance (q : Nat) (c : Ctx) : Ctx :=
  match c.ckpts with
  | [] => c
  | _ :: rest =>
    let later := rest.dropWhile (fun p => p.round < q)
    match later with
    | p :: _ => { c with ckpts := if p.round = q then later else { round := q, regs := c.regs, active := false } :: later }
    | [] => { c with ckpts := [{ round := q, regs := c.regs, active := false }] }

/-- A bank unit as round q commits: the entries of the round leave replay storage, and the runs of it are made again no more (R384). -/
def Bu.advance (after : Region) (q : Nat) (b : Bu) : Bu :=
  { b with
    ctxs := b.ctxs.map (Ctx.advance q),
    replay := b.replay.filter (fun e => q < e.round),
    strms := b.strms.map (fun t => { t with old := t.old.filter (fun x => after.uncommitted x.lineRound) }) }

/-- A region after its round q has committed. -/
def Region.advance (q : Nat) (g : Region) : Region :=
  { g with commits := q + 1, shown := q % 4096, rb := 0, norepRounds := g.norepRounds.filter (· != q), vote := none }

/-- Round q of a region commits, once its log has been dealt with. -/
def advanceRegion (s : State) (r : Region) (q : Nat) : State :=
  ((s.regionBus r).foldl (fun s n => s.modBu n (Bu.advance (r.advance q) q)) s).modRegion r.id (Region.advance q)

/-- Round q of a region commits, and its held effects are published (R384). -/
def commitRound (s : State) (r : Region) (q : Nat) : State :=
  advanceRegion ((s.regionBus r).foldl (publishBu (fun e => e.round ≤ q)) s) r q

/-! ### Dual runs (R388, R389) -/

/-- A register's state as the comparison takes it: its value, unless it waits or has failed. -/
def stBytes (st : RegState) (n v : Nat) : List Byte :=
  match st with
  | .full => 0 :: bytesOfNat n v
  | .pending _ => 1 :: bytesOfNat n 0
  | .failed => 2 :: bytesOfNat n 0

/-- A checkpoint as bytes. -/
def Ckpt.bytes (p : Ckpt) : List Byte :=
  let r := p.regs
  r.g.toList.flatMap (fun x => stBytes x.st 8 x.val.toNat) ++ r.v.toList.flatMap (fun x => stBytes x.st 64 x.val.toNat) ++
    r.p.toList.flatMap (fun x => stBytes x.st 8 x.val.toNat) ++
    ([r.bc.toNat] ++ r.stack.toList.map (·.toNat) ++ [r.depth, r.round, r.flags.toNat, r.fmask.toNat, r.ovr.toNat, r.seed.toNat,
      r.rng.toNat, r.expsplit, if p.active then 1 else 0]).flatMap (bytesOfNat 8)

/-- An entry of a write log as bytes; none for an undo entry. -/
def entryBytes (s : State) (e : LogEnt) : List Byte :=
  match e.item with
  | .undo _ _ => []
  | .poison slot block route => bytesOfNat 8 slot ++ bytesOfNat 8 block ++ bytesOfNat 8 route
  | .line id => match s.ms.pending.find? (fun p => p.w.id == id) with
    | some p => bytesOfNat 8 p.w.key ++ p.w.bytes
    | none => []
  | .req id => match s.req id with
    | some q => [q.row.spec.opcode, q.org.slot, q.org.block, q.org.op, q.org.elem, q.mod].flatMap (bytesOfNat 8) ++
        [q.a, q.b, q.c].flatMap (bytesOfNat 65)
    | none => []

/-- The comparison value of round q of a placement (R388): log entries but for undo entries, then checkpoints, bank unit by bank unit. -/
def voteValue (s : State) (r : Region) (q : Nat) : Nat :=
  crc64 ((s.regionBus r).flatMap (fun n =>
    ((s.bu n).wlog.filter (fun e => e.round = q)).flatMap (entryBytes s) ++
      [0, 1, 2, 3].flatMap (fun k => match ((s.ctx n k).advance q).ckpts with | p :: _ => p.bytes | [] => [])))

/-- The entries of the logs of bank units up to a round are dropped: what they held does not happen, and its writers end. -/
def dropEntries (s : State) (ns : List Nat) (q : Nat) : State :=
  let out := ns.flatMap (fun n => ((s.bu n).wlog.filter (fun e => e.round ≤ q)).filterMap (fun e => match e.item with
    | .req id | .line id => some id
    | _ => none))
  let lines := s.ms.pending.filter (fun p => out.contains p.w.id)
  let s1 := ns.foldl (fun s n => s.modBu n (fun b => { b with wlog := b.wlog.filter (fun e => q < e.round) })) s
  let s2 := s1.modHub (fun h => { h with reqs := h.reqs.filter (fun r => !(r.stage == .held && out.contains r.id)) })
  let s3 := { s2 with ms := { s2.ms with pending := s2.ms.pending.filter (fun p => !out.contains p.w.id) } }
  lines.foldl (fun s p => match p.ends with | some (job, h, role, _) => endRole s job h role false false | none => s) s3

/-- The held requests of the rounds up to q of a bank unit's log, in order. -/
def heldIds (s : State) (q n : Nat) : List Nat :=
  ((s.bu n).wlog.filter (fun e => e.round ≤ q)).filterMap (fun e => match e.item with | .req id => some id | _ => none)

/-- Held requests of one placement that have a destination take the answers of those of another (R388). -/
def mirrorHeld (s : State) (q : Nat) (from_ to_ : List Nat) : State :=
  let pairs := (List.zip from_ to_).flatMap (fun x => List.zip (heldIds s q x.1) (heldIds s q x.2))
  s.modHub (fun h => { h with reqs := h.reqs.map (fun r =>
    match (if r.stage == .held && r.dst != .none && !r.dead then pairs.find? (fun x => x.2 = r.id) else none) with
    | some x => { r with stage := .mirror x.1 }
    | none => r) })

/-- One placement's round is published and the other's is dropped, when they agree (R389). -/
def publishOne (s : State) (main other : Region) (q : Nat) : State :=
  let s1 := dropEntries (mirrorHeld s q (s.regionBus main) (s.regionBus other)) (s.regionBus other) q
  advanceRegion (commitRound s1 main q) other q

/-- The other placement of a dual run. -/
def State.twinOf (s : State) (r : Region) : Option Region := r.twins.head?.bind s.region

/-- The third placement that a dual run waits for. -/
def State.thirdOf (s : State) (r : Region) : Option Region :=
  (s.hub.regions.find? (fun e => e.2.voting && e.2.twins == [r.id])).map (·.2)

/-- Both placements have their value: the round is published when they agree; else both freeze, and a third placement is asked for
(R388, R389). -/
def compareVotes (s : State) (r t : Region) (q : Nat) : State :=
  if r.vote = t.vote then publishOne s r t q
  else
    let s1 := (s.startWave (s.regionBus r) .vote).startWave (s.regionBus t) .vote
    let (id, s2) := addRegion s1 { Region.fresh 0 r.image r.job r.pool with primary := false, voting := true, twins := [r.id] }
    startWaiting s2 id

/-- A placement of a dual run commits its round: its value is formed, and compared once both are. -/
def voteRound (s : State) (r : Region) : State :=
  let q := r.commits
  let s1 := s.modRegion r.id (fun g => { g with vote := some (voteValue s r q) })
  if r.voting then s1
  else
    match s1.region (s1.lead r).id with
    | some m => match s1.twinOf m with
      | some t => if m.vote.isSome && t.vote.isSome && m.commits = t.commits then compareVotes s1 m t q else s1
      | none => s1
    | none => s1

/-- A quantum expiry that was suppressed is tried again (R365). -/
def retryExpiry (s : State) (rid : Nat) : State :=
  match s.region rid with
  | some r => match r.running.bind s.launch with
    | some l => if r.expired then expireRegion s r l else s
    | none => s
  | none => s

/-- ROUND_COMMIT: a region commits its next round once every context has closed it (R382, R384, R388); the scheduler then tries again to
pre-empt a region whose quantum has passed (R365). -/
def execRoundCommit (s : State) : Host.Outcome State Fault Refusal :=
  nextState (
    match s.region s.my.arg.n with
    | none => s
    | some r =>
      if !roundDue s r then s
      else retryExpiry (if r.dual then voteRound s r else commitRound s r r.commits) (s.lead r).id)

/-! ### The third placement (R389) -/

/-- A region gone, with what it holds of its granules. -/
def removeRegion (s : State) (r : Region) : State :=
  let s1 := if r.place.isSome then releaseRegion s r.id else s
  s1.modHub (fun h => { h with regions := mapDel r.id h.regions })

/-- No rollback point of a region waits for a read that has not been answered. -/
def pointsAnswered (s : State) (r : Region) : Bool :=
  (s.regionBus r).all (fun n => [0, 1, 2, 3].all (fun k => match (s.ctx n k).ckpts with
    | p :: _ => p.regs.waiting.all (fun w => (s.req w.1).isNone)
    | [] => true))

/-- A third placement takes the primary's state at its rollback point, and its logs (R389). -/
def loadThird (s : State) (r t : Region) (im : Image) : State :=
  let ns := s.regionBus r
  let ms := s.regionBus t
  let f := renamedTo ns ms
  let offs := boxOffsets im.dies im.width im.height
  let s1 := (List.zip (List.zip ns ms) offs).foldl (fun s x =>
    let old := s.bu x.1.2
    s.modBu x.1.2 (fun _ => { restoredBu im { t with rolledBack := false } old.rns.mode x.2 ((s.bu x.1.1).rename f) old with
      region := some t.id, frozen := [], waves := [], hq := [], faultWait := [], hrun := none })) s
  let s2 := { s1 with ms := ns.foldl (fun m n => [0, 1, 2, 3, 4].foldl (fun m k => m.join (.ctx (f n) k) (m.past (.ctx n k))) m) s1.ms }
  let t' : Region := { t with running := r.running, started := true, commits := r.commits, opened := r.opened, shown := r.shown,
                              norepRounds := r.norepRounds, dual := true, rb := r.rb, hang := r.hang, map := 0 }
  let s3 := s2.modRegion t.id (fun _ => t')
  (s3.dropRounds t').restoreRound t'

/-- The round of a region is not replayed (R373). -/
def State.regionNorep (s : State) (r : Region) : Bool := match s.regionBus r with | n :: _ => s.noReplay n r.commits | [] => false

/-- A record of a region, in its round (R373). -/
def State.regionRec (s : State) (r : Region) (c : Code) (async : Bool) (extra launch : Nat) : FaultRec :=
  { s.hubRec c async 0 extra launch with round := r.commits % 4096, norep := s.regionNorep r }

/-- A placement is suspect: its granules are recorded and leave their pool, and it is gone (R389). -/
def suspectPlace (s : State) (r : Region) (launch : Nat) : State :=
  let gs := s.granulesOf r
  let s1 := s.post (s.regionRec r .voteSuspect true 0 launch) 4 (jobOrigin r.job launch r.id)
  let s2 := s1.modHub (fun h => { h with suspect := joinNats h.suspect gs, pools := h.pools.filter (fun e => !gs.contains e.1) })
  { s2 with out := { s2.out with health := { s2.out.health with suspects := joinNats s2.out.health.suspects gs } } }

/-- A region's effects held so far do not happen. -/
def forgetHeld (s : State) (r : Region) : State :=
  let ns := s.regionBus r
  ns.foldl (fun s n => s.modBu n (fun b => { b with wlog := [] })) (dropHeld (dropLines s s ns) ns)

/-- A third placement becomes the second one. -/
def adoptThird (s : State) (rid tid : Nat) : State :=
  (s.modRegion tid (fun g => { g with voting := false, twins := [rid] })).modRegion rid (fun g => { g with twins := [tid] })

/-- The freeze of a vote ends in a region. -/
def endVote (s : State) (rid : Nat) : State :=
  match s.region rid with
  | some r => (s.regionBus r).foldl (fun s n => s.thawBu n .vote) s
  | none => s

/-- The third agrees with the primary: the second is suspect, and the third takes its part. -/
def settleForMain (s : State) (r t x : Region) (launch : Nat) : State :=
  let s1 := removeRegion (suspectPlace (forgetHeld s t) t launch) t
  endVote (publishOne (adoptThird s1 r.id x.id) r x r.commits) r.id

/-- The third agrees with the second: the primary is suspect, the second takes its granules' part, and the third that of the second. -/
def settleForTwin (s : State) (r t x : Region) (launch : Nat) : State :=
  let s1 := suspectPlace (forgetHeld s r) r launch
  let ns := s1.regionBus t
  let s2 := releaseRegion s1 r.id
  let s3 := ns.foldl (fun s n => s.modBu n (fun b => { b with region := some r.id })) s2
  let s4 := s3.modHub (fun h => { h with
    regions := mapDel t.id (mapMod r.id (fun g => { g with place := t.place, placedAt := t.placedAt, waitSince := none,
                                                            placedClock := t.placedClock, opened := max g.opened t.opened }) h.regions),
    reqs := h.reqs.map (fun q => if ns.contains q.org.bu then { q with org := { q.org with region := r.id } } else q) })
  match (adoptThird s4 r.id x.id).region r.id with
  | some m => endVote (publishOne (adoptThird s4 r.id x.id) m x m.commits) r.id
  | none => s4

/-- The third agrees with neither: the graph's launches are cancelled, and all three placements are released. -/
def settleForNone (s : State) (r t x : Region) (launch : Nat) : State :=
  let s1 := s.postTo (s.regionRec r .voteUnresolved false 0 launch) 2 (jobOrigin r.job launch r.id) 0 (s.replyOf launch r.job).2
  let s2 := removeRegion (forgetHeld s1 x) x
  let s3 := cancelLaunches s2 (r.running.toList ++ r.queue)
  let s4 := r.running.toList.foldl (fun s id => s.modLaunch id (fun l => { l with st := .finishing })) s3
  [r.id, t.id].foldl releaseRegion s4

/-- THIRD_PLACEMENT_VOTE: the third placement of a disputed round is loaded once it is placed and both placements are frozen, and its
value decides (R389). (assumption 108, DEDUCED, unsafe) -/
def execThirdPlacementVote (s : State) : Host.Outcome State Fault Refusal :=
  nextState (
    match s.region s.my.arg.n with
    | none => s
    | some r =>
      match s.twinOf r, s.thirdOf r, s.image r.image with
      | some t, some x, some im =>
        if r.vote.isNone then removeRegion s x
        else if x.place.isNone then s
        else if x.running.isNone then
          if s.allFrozenBy r .vote && s.allFrozenBy t .vote && pointsAnswered s r then loadThird s r x im else s
        else
          let launch := r.running.getD 0
          if x.vote.isNone then s
          else if x.vote = r.vote then settleForMain s r t x launch
          else if x.vote = t.vote then settleForTwin s r t x launch
          else settleForNone s r t x launch
      | _, _, _ => s)

/-! ### Rollback (R376, R386, R394) -/

/-- ROLLBACK: a region that a rollback is called for freezes; frozen, it rolls back to its last committed round, and thaws (R386). One
that other parties freeze rolls back when they have released it, but for a pre-emption, which comes after (R376, R394). The placements of a dual
run are frozen together (R388). -/
def execRollback (s : State) : Host.Outcome State Fault Refusal :=
  nextState (
    match s.region s.my.arg.n with
    | none => s
    | some r =>
      if !r.wantRollback || r.place.isNone then s
      else
        let ns := s.regionBus r
        let group := if r.dual then s.groupOf r else [r]
        let all := group.flatMap s.regionBus
        if !s.allFrozenBy r .rollback then s.startWave all .rollback
        else if ns.any (fun n => (s.bu n).frozen.any (fun f => f != .rollback && f != .preempt) || !(s.bu n).node.started.isEmpty) then s
        else
          let s1 := ((s.dropRounds r).restoreRound r).modRegion r.id (fun g =>
            { g with wantRollback := false, rb := g.rb + 1, rbtotal := g.rbtotal + 1, idle := 0 })
          if group.any (fun g => g.id ≠ r.id && g.wantRollback) then s1 else all.foldl (fun s n => s.thawBu n .rollback) s1)

/-- A commit that is due at a bank unit meets a freeze, and comes first (R65, R391). -/
def commitsDue (s : State) (n : Nat) : Bool := [0, 1, 2, 3].any (commitReady s n)

/-- FREEZE_WAVE: the freeze waves on their way to a bank unit reach it, after the commits that meet them (R65, R391). -/
def execFreezeWave (s : State) : Host.Outcome State Fault Refusal :=
  let n := s.my.arg.n
  nextState (if commitsDue s n then s else (s.bu n).waves.foldl (fun s f => s.freezeBu n f) s)

/-! ### The hang monitor (R390) -/

/-- The consumer queues of an image's channels in ascending route, the primary first: route, consumer, bank unit, and the tokens.
(assumption 110, DEDUCED, unsafe) -/
def hangQueues (s : State) (r : Region) (im : Image) : List (Nat × Nat × List Token) :=
  let sends := im.routeOffsets.flatMap (fun o => (im.routesAt o.1 o.2.1 o.2.2).filterMap (fun e => match e.2 with
    | .send rt d x y toop slot qi .. => some (rt, (d, x, y, toop, slot, qi))
    | _ => none))
  let routes := sortNats ((sends.map (·.1)).eraseDups.map (fun x => (x, x)))
  routes.flatMap (fun rt => (withIndex 0 (sends.filter (fun x => x.1 = rt.1))).filterMap (fun c =>
    let (d, x, y, toop, slot, qi) := c.2.2
    match s.regionBu r.id d x y with
    | none => none
    | some n =>
      let toks := if toop then
          (s.routes n).flatMap (fun e => match e.2 with
            | .oper _ a b ct _ _ =>
              let o := s.oper n e.1
              if a = rt.1 then o.a else if b = rt.1 then o.b else if ct = rt.1 then o.c else []
            | _ => [])
        else (match s.qiTokens n slot qi with | some (_, ts) => ts | none => [])
      some (rt.1, c.1, toks)))

/-- An entry of the occupancy map. -/
def hangEntry (x : Nat × Nat × List Token) : Nat :=
  x.1 + x.2.1 * 2 ^ 12 + x.2.2.length * 2 ^ 16 +
    (match x.2.2 with
      | t :: _ => t.round % 2 ^ 12 * 2 ^ 25 + (match t.kind with | .data => 0 | .marker => 1 | .control => 2 | .poison => 3) * 2 ^ 37
      | [] => 2 ^ 39)

/-- A region is stuck: a queue of it holds a token, or a context waits on a request that its log holds. -/
def hangStuck (s : State) (r : Region) : Bool :=
  let ns := s.regionBus r
  ns.any (fun n => (s.bu n).queues.any (fun q => !q.2.isEmpty)) ||
    s.hub.reqs.any (fun q => q.stage == .held && ns.contains q.org.bu && (s.ctx q.org.bu q.org.slot).regs.waiting.any (fun w => w.1 = q.id))

/-- HANG posted for a region, which counts no cycle while it is frozen. -/
def postHang (s : State) (r : Region) (entries : Nat) (cut : Bool) : State :=
  let launch := r.running.getD 0
  let f := s.regionRec r .hang true (entries % 2 ^ 16 + (if cut then 2 ^ 16 else 0)) launch
  (s.post f 1 (jobOrigin r.job launch r.id)).modRegion r.id (fun g => { g with idle := 0 })

/-- The map written, when the region names a buffer, and HANG posted; the write waits for the buffer as a writer does (R261). -/
def writeHang (s : State) (r : Region) (im : Image) : State :=
  let es := (hangQueues s r im).map hangEntry
  if r.map = 0 then postHang s r es.length false
  else
    let bytes := padBytes 64 (bytesOfNat 4 es.length ++ bytesOfNat 2 (r.commits % 4096)) ++ es.flatMap (bytesOfNat 8)
    match s.hent r.job r.map with
    | .error _ => postHang s r es.length true
    | .ok e =>
      if !roleReady 0 e then s
      else
        let s1 := startRole s r.job r.map 0 e
        let s2 := match writeVa s1 (s.hJob r.job r.map) .host e.base (bytes.take e.size) with | .ok t => t | .error _ => s1
        postHang (endRole s2 r.job r.map 0 false false) r es.length (decide (e.size < bytes.length))

/-- HANG: a placed region that has not fired for `rgn.hang` cycles while it is stuck freezes, with the other placement of a dual run (R388),
its map is written, and HANG is posted; a completion that is due comes first, and so does a commit (R65, R390). (assumption 109, DESIGN CHOICE, unsafe) -/
def execHang (s : State) : Host.Outcome State Fault Refusal :=
  nextState (
    match s.region s.my.arg.n with
    | none => s
    | some r =>
      match s.image r.image with
      | none => s
      | some im =>
        let ns := (if r.dual then s.groupOf r else [r]).flatMap s.regionBus
        let due := r.place.isSome && r.hang ≠ 0 && r.hang ≤ r.idle
        if !due then s
        else if s.allFrozenBy r .monitor then writeHang s r im
        else if s.regionFrozen r || ns.any (commitsDue s) || !hangStuck s r ||
            (match r.running.bind s.launch with | some l => launchReady s l | none => false) then s
        else writeHang (ns.foldl (fun s n => s.freezeBu n .monitor) s) r im)

/-! ### Retention (R280) and bank drops (R279) -/

/-- RETENTION_ENTRY: firmware puts the bank of a bank unit that holds no running context into retention (R280). (assumption 111, DEDUCED, unsafe) -/
def execRetentionEntry (s : State) : Host.Outcome State Fault Refusal :=
  let n := s.my.arg.n
  nextState (if (s.bu n).region.isNone && n < Config.bankUnits then s.modBu n (fun b => { b with retention := true }) else s)

/-- RETENTION_EXIT: a bank leaves retention; corrected bits are counted, and an uncorrectable line that the exit finds is marked
(R280). -/
def execRetentionExit (s : State) : Host.Outcome State Fault Refusal :=
  let a := s.my.arg
  nextState (
    if (s.bu a.n).retention then
      s.modBu a.n (fun b => { b with
        retention := false, sec := min (b.sec + a.m) 0xFFFFFFFF,
        badWords := if a.flag then joinNats b.badWords ((List.range 8).map (fun i => 8 * (a.cmd.a0.toNat % 1024) + i)) else b.badWords })
    else s)

/-- BANK_DROP_MIGRATION: firmware drops a failed bank, whose capacity it takes from free memory, and the migration engine moves the next
1 KiB unit to the new striping, in ascending order; while too little memory is free, firmware reports the shortage and the migration
waits (R279). (assumption 156, DEDUCED, safe) -/
def execBankDropMigration (s : State) : Host.Outcome State Fault Refusal :=
  nextState (
    if s.my.arg.flag then s.modHub (fun h => { h with shortage := true })
    else s.modHub (fun h => match h.watermark with
      | none => { h with watermark := some 0, dropped := h.dropped + 1, shortage := false }
      | some w => if w + 1024 < Config.deviceBytes then { h with watermark := some (w + 1024), shortage := false }
        else { h with watermark := none, epoch := h.epoch + 1 }))

end Sys2Proof.Machine
end

