-- ==== Sys2Proof/Machine/Outside.lean ====
section
/-!
DEFINITION. The module's outside: the host link and its registers, the host's accesses to memory, the peer links, the module clock,
alarms, temperature, power, and the firmware calls of programs (R12, R396 to R399, R403 to R409).
-/
namespace Sys2Proof.Machine

/-- What is outside changes. -/
def State.modOut (s : State) (f : Outside → Outside) : State := { s with out := f s.out }

/-- Firmware freezes every placed region (R391, R396, R408). -/
def State.freezeAll (s : State) : State :=
  s.hub.regions.foldl (fun s e => if e.2.place.isSome then s.startWave (s.regionBus e.2) .firmware else s) s

/-! ### The host link and its registers (R396, R398, R399) -/

/-- JONDOVY_LINK_TRAINING: the link trains to 32, 16 or 8 lanes, and firmware is ready (R396, R398); until a bell it knows of no
command. (assumption 40, DEDUCED, unsafe) -/
def execJondovyLinkTraining (s : State) : Host.Outcome State Fault Refusal :=
  let n := s.my.arg.n
  nextState (
    if n = 8 || n = 16 || n = 32 then
      s.modOut (fun o => { o with lanes := n, ready := true, fwTail := if o.ready then o.fwTail else s.cmdHead,
                                  bells := if o.ready then o.bells else [] })
    else s)

/-- LINK_RETRAIN_FAILURE: the link is down, and firmware freezes every placed region (R396). -/
def execLinkRetrainFailure (s : State) : Host.Outcome State Fault Refusal :=
  nextState ((s.modOut (fun o => { o with lanes := 0, linkFailed := true })).freezeAll)

/-- `unsync` (R405): firmware is ready, and the clock's error may be too great. (assumption 130, DEDUCED, unsafe) -/
def Outside.unsync (o : Outside) : Bool := o.ready && !o.synced

/-- The `status` register (R398). -/
def Outside.status (o : Outside) : Nat :=
  (if o.ready then 1 else 0) + (if o.locked then 2 else 0) + (match o.lanes with | 8 => 4 | 16 => 8 | 32 => 12 | _ => 0) +
    (if o.unsync then 16 else 0)

/-- BELL: firmware reads the queue's `tail`; the host's writes to device memory that are under way come before the commands that the bell
announces (R398, R399). -/
def execBell (s : State) : Host.Outcome State Fault Refusal :=
  let ids := (s.ms.pending.filter (fun p => p.w.party == .host)).map (fun p => p.w.id)
  nextState (s.modOut (fun o => { o with
    fwTail := s.cmdTail, bells := if s.cmdTail = o.fwTail then o.bells else o.bells ++ [(o.fwTail, s.cmdTail, ids)] }))

/-- HBELL: a write of ones clears bits of `hbell` (R398), while the link is up (R396). -/
def execHbell (s : State) : Host.Outcome State Fault Refusal :=
  nextState (
    if s.out.linkFailed then s
    else s.modOut (fun o => { o with hbell := o.hbell &&& ~~~(BitVec.ofNat 16 s.my.arg.cmd.a0.toNat) }))

/-- HOST_REGISTER_WRITE: `qbase` takes an address of 64 bytes' alignment; `status` is read-only (R398). Firmware knows of no command
in a new queue until a bell. -/
def execHostRegisterWrite (s : State) : Host.Outcome State Fault Refusal :=
  nextState (
    if s.my.arg.n = 0x08 && !s.out.linkFailed then
      let t := s.modOut (fun o => { o with qbase := s.my.arg.cmd.a0.toNat / 64 * 64 })
      t.modOut (fun o => { o with fwTail := t.cmdHead, bells := [] })
    else s)

/-! ### The host's accesses (R282, R397) -/

/-- The parts of a write that fall in one line of 64 bytes each: at most `fuel` of them. -/
def lineParts : Nat → Nat → List Byte → List (Nat × List Byte)
  | 0, _, _ => []
  | fuel + 1, a, bs =>
    if bs.isEmpty then [] else (a, bs.take (64 - a % 64)) :: lineParts fuel (a + (64 - a % 64)) (bs.drop (64 - a % 64))

/-- A store of the host on its way to its home. -/
def hostStoreOut (s : State) (key : Nat) (bytes : List Byte) : State :=
  let (id, s1) := s.freshFor bytes.length
  let w : Write := { id := id, key := key, bytes := bytes, party := .host, past := s1.ms.past .host, rel := [] }
  let p : PWrite := { w := w, org := none, after := [], ends := none, logged := false, shadow := none }
  { s1 with ms := ({ s1.ms with pending := s1.ms.pending ++ [p] }).join .host w.ids }

/-- HOST_MEMORY_WRITE: the host stores bytes of any alignment in device memory, as ordinary stores at `sys` scope that perform at
their engines; or, at keys of host memory, in its own memory, at once (R282, R397). -/
def execHostMemoryWrite (s : State) : Host.Outcome State Fault Refusal :=
  let a := s.my.arg
  nextState (
    if 2 ^ 60 ≤ a.n && a.n + a.bytes.length ≤ 2 ^ 61 then writeNow s .host a.n a.bytes
    else if a.n + a.bytes.length ≤ Config.deviceBytes && !s.out.linkFailed then
      (lineParts (a.bytes.length + 1) a.n a.bytes).foldl (fun s p => hostStoreOut s p.1 p.2) s
    else s)

/-- HOST_MEMORY_READ: the host reads bytes of device memory (R286, R397), after its own writes to them (R295). -/
def execHostMemoryRead (s : State) : Host.Outcome State Fault Refusal :=
  let a := s.my.arg
  let own (p : PWrite) : Bool := p.w.party == .host && p.w.key < a.n + a.m && a.n < p.w.key + p.w.bytes.length
  nextState (
    if a.n + a.m ≤ Config.deviceBytes && !s.out.linkFailed && !s.ms.pending.any own then
      let (bs, t) := readMem s .host a.n a.m
      t.modOut (fun o => { o with lastRead := bs })
    else s)

/-! ### Peer links (R135, R282, R404) -/

/-- PEER_LINK_GRANT: the receiver of a link grants eight more flits, as its buffer has drained (R135, R404). -/
def execPeerLinkGrant (s : State) : Host.Outcome State Fault Refusal :=
  let n := s.my.arg.n
  nextState (
    if n < 32 && s.out.window n + 8 ≤ 32 then
      s.modOut (fun o => { o with peerWindows := mapSet n (o.window n + 8) o.peerWindows })
    else s)

/-- PEER_REQUEST: a request of a peer module to a page of this one arrives over a link that lets it (R282, R404). It reads the bytes
of its length, and a write's bytes perform; an atomic does both. It needs a module that firmware found, and a module ID here.
(assumption 123, DEDUCED, safe) -/
def execPeerRequest (s : State) : Host.Outcome State Fault Refusal :=
  let a := s.my.arg
  let link := a.cmd.a0.toNat % 16
  let len := max a.cmd.a1.toNat a.bytes.length
  nextState (
    if s.out.moduleId.isSome && (mapGet a.n s.out.routeTable).isSome && 0 < s.out.window link && a.m + len ≤ Config.deviceBytes then
      let s1 := s.modOut (fun o => { o with peerWindows := mapSet link (o.window link - 1) o.peerWindows })
      let s2 := (readMem s1 (.peer a.n) a.m a.cmd.a1.toNat).2
      if a.flag then writeNow s2 (.peer a.n) a.m a.bytes else s2
    else s)

/-! ### Clocks (R12, R364, R372, R405, R409) -/

/-- The module clock reaches a tick: a caravan launch whose tick passes while its region is not placed is late (R372). -/
def State.tickTo (s : State) (t : Nat) : State :=
  let late (l : Launch) : Bool := l.tick ≠ 0 && s.out.tick < l.tick && l.tick ≤ t && l.st == .queued &&
    (match s.region l.region with | some r => r.place.isNone | none => false)
  (s.modHub (fun h => { h with launches := h.launches.map (fun e => (e.1, if late e.2 then { e.2 with skewed := true } else e.2)) })).modOut
    (fun o => { o with tick := t })

/-- MODULE_CLOCK_TICK: the module clock advances by one, and with it the quantum of each placed region that runs a launch (R12, R364). -/
def execModuleClockTick (s : State) : Host.Outcome State Fault Refusal :=
  nextState ((s.tickTo ((s.out.tick + 1) % 2 ^ 64)).modHub (fun h => { h with regions := h.regions.map (fun e =>
    (e.1, if e.2.place.isSome && e.2.running.isSome then { e.2 with quantumUsed := e.2.quantumUsed + 1 } else e.2)) }))

/-- CLOCK_SYNC: timestamps correct the clock of a module that is not the root; while its error may be too great it is `unsync` (R405). -/
def execClockSync (s : State) : Host.Outcome State Fault Refusal :=
  let a := s.my.arg
  nextState (
    if s.out.timeRoot then s
    else ((if a.flag then s.tickTo (a.n % 2 ^ 64) else s).modOut (fun o => { o with synced := a.flag })))

/-- THERMAL_CLOCK_STEP: above 100 °C the main clock falls by 250 MHz, to no lower than 1,250; below 95 °C it rises again (R409). -/
def execThermalClockStep (s : State) : Host.Outcome State Fault Refusal :=
  nextState (s.modOut (fun o => { o with
    clockMHz := if s.my.arg.flag then max 1250 (o.clockMHz - 250) else min 2250 (o.clockMHz + 250) }))

/-! ### Alarms and power (R403, R407, R408) -/

/-- ALARM: a source fires; the alarm is logged, and an erasing source erases the derived keys, freezes every region and locks the
module. A command in progress then writes no completion (R408). (assumption 125, DEDUCED, unsafe) -/
def execAlarm (s : State) : Host.Outcome State Fault Refusal :=
  let n := s.my.arg.n
  let s1 := s.modOut (fun o => { o with
    alarmCount := o.alarmCount + 1, health := { o.health with alarms := o.health.alarms + 1 }, cmdMute := o.cmdMute || o.cmdBegun })
  nextState (
    if 4 ≤ n then s
    else match s.out.alarmAct[Fin.ofNat 4 n] with
      | .log => s1
      | .erase => (s1.modOut (fun o => { o with keyErased := true, locked := true })).freezeAll)

/-- The route table that firmware builds from the modules it finds: in each four bytes a module and a link (R404). -/
def routesFound (bs : List Byte) : NMap Nat :=
  (List.range (bs.length / 4)).foldl (fun m k =>
    mapSet (natOfBytes ((bs.drop (4 * k)).take 2) % 4096) (natOfBytes ((bs.drop (4 * k + 2)).take 2) % 16) m) []

/-- POWER_ON: everything is at its reset value but the health record, in flash; the keys are derived again, and firmware finds the
modules around (R403, R404, R407). Device memory and the banks hold nothing; the host's memory and the peers' is their own. -/
def execPowerOn (s : State) : Host.Outcome State Fault Refusal :=
  let r := State.reset
  nextState { r with
    ms := { r.ms with mem := s.ms.mem.filter (fun c => 2 ^ 60 ≤ c.1), base := s.ms.mem.filter (fun c => 2 ^ 60 ≤ c.1) }
    hub := { r.hub with nextId := s.hub.nextId, suspect := s.out.health.suspects }
    out := { r.out with health := s.out.health, around := s.my.arg.bytes, routeTable := routesFound s.my.arg.bytes }
    my := s.my }

/-! ### Firmware calls (R406) -/

/-- What a firmware call answers; none for a row that is no call. (assumption 121, DEDUCED, unsafe) (assumption 122, DEDUCED, unsafe) -/
def fwcallAnswer (s : State) (q : Req) : Option Nat :=
  match q.row with
  | .fwcallId => some ((s.out.moduleId.getD 0) % 4096)
  | .fwcallTick => some s.out.tick
  | .fwcallBell => some 0
  | .fwcallHealth =>
    some ((if s.out.health.modes.any (fun e => e.2 == 7) then 1 else 0) + (if s.hub.suspect.isEmpty then 0 else 2) +
      s.out.alarmCount % 256 * 256)
  | _ => none

/-- A bell follows its context's earlier stores to host pages: those on their way, and those still with it (R295, R406). -/
def bellInOrder (s : State) (q : Req) : Bool :=
  s.ms.pending.all (fun w => !(w.w.party == q.party && w.w.id < q.id && onHost w.w.key)) &&
    (s.olderReqs q).all (fun r => !(r.row == .stm && s.onHostPage r))

/-- FWCALL_SERVICE: firmware serves a call of a program (R406). -/
def execFwcallService (s : State) : Host.Outcome State Fault Refusal :=
  nextState (
    match s.req s.my.arg.n with
    | none => s
    | some q =>
      match fwcallAnswer s q with
      | none => s
      | some v =>
        if !s.mayServe q || (q.row == .fwcallBell && !bellInOrder s q) then s
        else
          let s1 := if q.row = .fwcallBell then s.modOut (fun o => { o with hbell := o.hbell ||| BitVec.ofNat 16 (2 ^ (q.a % 16)) }) else s
          s1.reply q.id v)

end Sys2Proof.Machine
end

