-- ==== Sys2Proof/Machine/Sha.lean ====
section
/-!
DEFINITION. The SHA-256 digest of an attestation report (R407).
-/
namespace Sys2Proof.Machine

/-- A word of the digest. -/
abbrev W32 := BitVec 32

/-- The greatest x below 2^bits + lo with x^e at most n, from a lower bound lo with lo^e at most n, bit by bit. -/
def rootFrom (e n : Nat) : Nat → Nat → Nat
  | 0, lo => lo
  | bits + 1, lo => rootFrom e n bits (if (lo + 2 ^ bits) ^ e ≤ n then lo + 2 ^ bits else lo)

/-- The first 32 bits of the fraction of the e-th root of n, which is below 2^8 here. -/
def rootFraction (e n : Nat) : Nat := rootFrom e (n * 2 ^ (32 * e)) 40 0 % 2 ^ 32

/-- n has no divisor from 2 to the square root of n; used below 312. -/
def isPrime (n : Nat) : Bool := 2 ≤ n && (List.range 18).all (fun d => d < 2 || n ≤ d || n % d != 0)

/-- The first 64 primes, which end at 311. -/
def shaPrimes : List Nat := (List.range 312).filter isPrime

/-- The round constants: fractions of the cube roots of the first 64 primes. -/
def shaK : List Nat := shaPrimes.map (rootFraction 3)

/-- The starting value: fractions of the square roots of the first eight. -/
def shaStart : List W32 := (shaPrimes.take 8).map (fun p => BitVec.ofNat 32 (rootFraction 2 p))

/-- The message schedule, latest word first, longer by k words. -/
def shaExtend : Nat → List W32 → List W32
  | 0, w => w
  | k + 1, w =>
    let x := w.getD 1 0
    let y := w.getD 14 0
    let s1 := x.rotateRight 17 ^^^ x.rotateRight 19 ^^^ x >>> 10
    let s0 := y.rotateRight 7 ^^^ y.rotateRight 18 ^^^ y >>> 3
    shaExtend k ((s1 + w.getD 6 0 + s0 + w.getD 15 0) :: w)

/-- One round on the working words. -/
def shaRound (v : List W32) (kw : Nat × W32) : List W32 :=
  match v with
  | [a, b, c, d, e, f, g, h] =>
    let t1 := h + (e.rotateRight 6 ^^^ e.rotateRight 11 ^^^ e.rotateRight 25) + ((e &&& f) ^^^ (~~~e &&& g)) + BitVec.ofNat 32 kw.1 + kw.2
    let t2 := (a.rotateRight 2 ^^^ a.rotateRight 13 ^^^ a.rotateRight 22) + ((a &&& b) ^^^ (a &&& c) ^^^ (b &&& c))
    [t1 + t2, a, b, c, d + t1, e, f, g]
  | _ => v

/-- A big-endian word of bytes. -/
def shaWord (bs : List Byte) : W32 := BitVec.ofNat 32 (bs.foldl (fun n b => n * 256 + b.toNat) 0)

/-- Words of four bytes: n of them. -/
def shaWords : Nat → List Byte → List W32
  | 0, _ => []
  | n + 1, bs => shaWord (bs.take 4) :: shaWords n (bs.drop 4)

/-- A block of 64 bytes compressed into the value. -/
def shaBlock (h : List W32) (bs : List Byte) : List W32 :=
  let w := (shaExtend 48 (shaWords 16 bs).reverse).reverse
  List.zipWith (· + ·) h ((shaK.zip w).foldl shaRound h)

/-- n blocks. -/
def shaBlocks : Nat → List W32 → List Byte → List W32
  | 0, h, _ => h
  | n + 1, h, bs => shaBlocks n (shaBlock h (bs.take 64)) (bs.drop 64)

/-- The padding of a message of n bytes. -/
def shaPad (n : Nat) : List Byte :=
  0x80 :: (List.replicate ((119 - n % 64) % 64) 0 ++ (bytesOfNat 8 (8 * n)).reverse)

/-- The 32 bytes of the digest. -/
def sha256 (bs : List Byte) : List Byte :=
  let m := bs ++ shaPad bs.length
  (shaBlocks (m.length / 64) shaStart m).flatMap (fun w => (bytesOfNat 4 w.toNat).reverse)

end Sys2Proof.Machine
end

