-- ==== Sys2Proof/Machine/Firmware.lean ====
section
/-!
DEFINITION. The commands that firmware serves from the host's queue (R39, R47, R48, R258, R320, R323, R324, R338, R353, R357, R371, R372,
R399 to R403, R407).
-/
namespace Sys2Proof.Machine

/-! ### Completions -/

/-- The command under service. -/
def State.cmd (s : State) : Cmd := s.my.arg.cmd

/-- It completes with a status and results (R400). -/
def State.finish (s : State) (code : Nat) (st : CmdStatus) (r r2 : Nat) : State := s.complete code s.cmd.reply.toNat st r r2

/-- It completes well. -/
def State.ok (s : State) (code r : Nat) : State := s.finish code .ok r 0
/-- It is refused for its arguments. -/
def State.badArg (s : State) (code r : Nat) : State := s.finish code .badArg r 0

/-- A command of a job: job 0 submits none (R401). -/
def jobCommand (s : State) (code : Nat) (f : Nat → State) : State :=
  if s.cmd.job = 0 then s.finish code .denied 0 0 else f s.cmd.job.toNat

/-- A command of the host's own: no job submits it (R401; assumption 15, DEDUCED, unsafe). -/
def hostCommand (s : State) (code : Nat) (t : State) : State :=
  if s.cmd.job = 0 then t else s.finish code .denied 0 0

/-- A range of device memory. -/
def onModule (a n : Nat) : Bool := a + n ≤ Config.deviceBytes

/-- Bytes of device memory as firmware finds them; there are none beyond its end. (assumption 85, DEDUCED, unsafe)
(assumption 115, DESIGN CHOICE, unsafe) -/
def State.devNat (s : State) (a n : Nat) : Nat := if onModule a n then s.ms.mem.readNat a n else 0

/-! ### ARM (R39, R47, R48) -/

/-- What an arm of the image at an address of device memory gives: the report's contents, and the state (R47). R16 has the image begin on a
32-byte boundary and names no failure: at any other address its bytes are read as they stand (assumption 148, DESIGN CHOICE, unsafe). -/
def armAt (s : State) (job a : Nat) : Except ArmFail Nat × State :=
  match armFrames (s.devNat a 8) (s.devNat (a + 8) 8) with
  | .error e => (.error e, s)
  | .ok n =>
    match s.armRoom n with
    | none => (.error armStore, s)
    | some id =>
      match armImage (words64 (lastBytes s a (if onModule a (32 * n) then 32 * n else 0))).toArray job n with
      | .error e => (.error e, s)
      | .ok im => (.ok id, s.modHub (fun h => { h with images := mapSet id im h.images }))

/-- ARM: the image is checked and armed, and the report written to the reply address (R47, R48, R400). -/
def execArm (s : State) : Host.Outcome State Fault Refusal :=
  nextState (jobCommand s 1 (fun job =>
    let (r, t) := armAt s job s.cmd.a0.toNat
    let reply := s.cmd.reply.toNat
    (t.answerHost reply (natOfBytes (armReport r))).cmdDone))

/-- The launches of an armed image that have not ended. -/
def State.launchesUnder (s : State) (image : Nat) : List Nat :=
  ((s.hub.launches.map (·.2)).filter (fun l => match s.region l.region with | some r => r.image == image | none => false)).map (·.id)

/-- ARM_RELEASE: the extents and the identifier return once no launch of the image is left; those that are left are cancelled (R39,
R371). -/
def execArmRelease (s : State) : Host.Outcome State Fault Refusal :=
  nextState (jobCommand s 1 (fun job =>
    let id := s.cmd.a1.toNat
    match s.image id with
    | none => s.badArg 1 0
    | some im =>
      if s.hub.xforms.any (fun x => x.2 == id) then s.badArg 1 0
      else if im.job ≠ job then s.finish 1 .denied 0 0
      else if s.launchesUnder id = [] then (dropImage s id).ok 1 0
      else (cancelLaunches s ((s.launchesUnder id).filter (fun l => match s.launch l with | some l => !l.cancelled | none => false))).cmdWaits))

/-! ### LAUNCH, GANG and CANCEL (R353, R362, R371, R372, R388) -/

/-- The launch queue is full: a launch command waits (assumption 16, DESIGN CHOICE, unsafe). -/
def State.launchesFull (s : State) : Bool := launchLimit ≤ s.queued

/-- The outcome of a launch command. -/
def launchDone (s : State) (code : Nat) (r : Except Code Nat) : State :=
  match r with
  | .ok id => s.ok code id
  | .error c => s.badArg code c.num

/-- A launch of a job from a record in device memory, which R360 aligns to 64 bytes (R362). -/
def launchAt (s : State) (code job a : Nat) (dual : Bool) : State :=
  match mapGet job s.hub.jobs with
  | none => s.badArg code Code.jobStart.num
  | some j =>
    if a % 64 ≠ 0 then launchDone (rejectLaunch s j (launchRec (s.devNat a 128) false) .launchBad) code (.error .launchBad)
    else
      let (r, t) := submitLaunch s j (s.devNat a 128) false dual
      launchDone t code r

/-- JOB_START for a launch whose job record, at an address, is rejected (R353, R362): by the chain of the running job, or, when none runs,
at the launch's reply or else in the fault queue that the record names, both in the address space it names (assumption 157,
DEDUCED, unsafe). -/
def launchRefused (s : State) (job a0 a1 : Nat) : State :=
  let r := launchRec (s.devNat a1 128) false
  match mapGet job s.hub.jobs with
  | some j => rejectLaunch s j r .jobStart
  | none =>
    let t := s.modHub (fun h => { h with jobs := mapSet job (recordJob job (s.devNat a0 128) 0) h.jobs })
    let p : PRec := { id := 0, record := t.hubRec .jobStart false 0 0 0, stage := 1, org := jobOrigin job 0 0, reply := r.reply, phase := 0 }
    (match stage1 t p with | some u => u | none => stage4 t p).modHub (fun h => { h with jobs := mapDel job h.jobs })

/-- A LAUNCH command: it starts the job from its record, when it names one, and queues the launch (R353, R362). A record of another job than
the one that submits it is denied (R401). -/
def runLaunch (s : State) (dual : Bool) : State :=
  jobCommand s 2 (fun job =>
    let a0 := s.cmd.a0.toNat
    let a1 := s.cmd.a1.toNat
    if s.launchesFull then s.cmdWaits
    else if a0 = 0 then launchAt s 2 job a1 dual
    else if s.devNat a0 2 ≠ job then s.finish 2 .denied 0 0
    else match startJob s job (s.devNat a0 128) with
      | none => (launchRefused s job a0 a1).badArg 2 Code.jobStart.num
      | some t => launchAt t 2 job a1 dual)

/-- LAUNCH. -/
def execLaunch (s : State) : Host.Outcome State Fault Refusal := nextState (runLaunch s false)
/-- LAUNCH_DUAL: the launch runs on two congruent placements (R388). -/
def execLaunchDual (s : State) : Host.Outcome State Fault Refusal := nextState (runLaunch s true)

/-- A caravan's launch on this module, from a record of 128 bytes that is aligned or not: its tick must lie far enough ahead of a clock that
can be relied on (R372, R405). -/
def submitGang (s : State) (j : Job) (n : Nat) (aligned : Bool) : Except Code Nat × State :=
  let r := launchRec n true
  match (if aligned then checkLaunch s j r false else .error .launchBad) with
  | .error c => (.error c, rejectLaunch s j r c)
  | .ok l =>
    if s.out.unsync || l.tick < s.out.tick + 2000 then
      (.error .gangLate, s.postTo (s.hubRec .gangLate false 0 0 0) 1 (jobOrigin j.id 0 s.hub.nextRegion) r.reply r.phase)
    else
      let (rid, s1) := needRegion s r.image j.id j.pool
      let (id, s2) := queueLaunch s1 l rid
      (.ok id, s2)

/-- The module IDs of a list in device memory. -/
def State.moduleList (s : State) (a n : Nat) : List Nat := (List.range n).map (fun k => s.devNat (a + 2 * k) 2)

/-- GANG: one launch record on every module of a list, which is its job's caravan (R319); this module queues it when the list names it
(R372). (assumption 114, DEDUCED, unsafe) -/
def execGang (s : State) : Host.Outcome State Fault Refusal :=
  nextState (jobCommand s 7 (fun job =>
    let c := s.cmd
    let list := s.moduleList c.a1.toNat (c.a2.toNat % 4097)
    let mine : Bool := match s.out.moduleId with | some m => list.contains m | none => false
    if 4096 < c.a2.toNat then s.badArg 7 0
    else if !mine then s.ok 7 0
    else if s.launchesFull then s.cmdWaits
    else match mapGet job s.hub.jobs with
      | none => s.badArg 7 Code.jobStart.num
      | some j =>
        let (r, t) := submitGang (s.modJob job (fun j => { j with caravan := joinNats j.caravan list })) j (s.devNat c.a0.toNat 128)
          (c.a0.toNat % 64 = 0)
        launchDone t 7 r))

/-- CANCEL: work is cancelled at a level; the result is how many launches (R371, R401). -/
def execCancelCommand (s : State) : Host.Outcome State Fault Refusal :=
  nextState (jobCommand s 3 (fun job =>
    if (mapGet job s.hub.jobs).isNone then s.badArg 3 Code.cancelArg.num
    else match cancelWork s job s.cmd.a0.toNat s.cmd.a1.toNat none with
      | .ok (n, t) => settleJobs (t.ok 3 n)
      | .error c => s.badArg 3 c.num))

/-! ### QUERY (R356, R377, R378, R401, R403) -/

/-- QUERY_COUNTER: the value of a completion counter of the job; the host then sees what its counts released (R356). -/
def execQueryCounter (s : State) : Host.Outcome State Fault Refusal :=
  nextState (jobCommand s 4 (fun job =>
    match s.counterOf job s.cmd.a1.toNat with
    | none => s.badArg 4 0
    | some k =>
      let t := (mapGetD k s.hub.cntRels []).foldl (fun s r => synchronise s .host 4 r.1 r.2.1 r.2.2) s
      t.ok 4 (s.counterVal k).toNat))

/-- What a QUERY that pops a queue answers: the first two words of the record (assumption 17, DEDUCED, unsafe), or zeros. -/
def popAnswer (s : State) (q : List FaultRec) : State :=
  match q with
  | [] => s.ok 4 0
  | r :: _ => s.finish 4 .ok (r.word 0) (r.word 1)

/-- An image that a query names, of the job that submits it: the region, or the status that refuses it. -/
def queryRegion (s : State) (job image : Nat) : Except CmdStatus Region :=
  match s.image image with
  | none => .error .badArg
  | some im =>
    if im.job ≠ job then .error .denied
    else match s.regionFor image with
      | some r => .ok r
      | none => .ok (Region.fresh 0 image job 0)

/-- QUERY_GRAPH_QUEUE: the oldest record of an image's graph queue leaves it (R377, R401). -/
def execQueryGraphQueue (s : State) : Host.Outcome State Fault Refusal :=
  nextState (jobCommand s 4 (fun job =>
    match queryRegion s job s.cmd.a1.toNat with
    | .error st => s.finish 4 st 0 0
    | .ok r => popAnswer (s.modRegion r.id (fun g => if g.image = r.image then { g with gq := g.gq.tail } else g)) r.gq))

/-- QUERY_PHASE_QUEUE: the oldest record of a phase's queue leaves it (R377, R401). -/
def execQueryPhaseQueue (s : State) : Host.Outcome State Fault Refusal :=
  nextState (jobCommand s 4 (fun job =>
    if (mapGet job s.hub.jobs).isNone then s.badArg 4 0
    else
      let q := s.phaseQueue job s.cmd.a1.toNat
      popAnswer (s.setPhaseQueue job s.cmd.a1.toNat q.tail) q))

/-- QUERY_RGN_STAT: `rgn.stat` of an image's region (R378, R401). -/
def execQueryRgnStat (s : State) : Host.Outcome State Fault Refusal :=
  nextState (jobCommand s 4 (fun job =>
    match queryRegion s job s.cmd.a1.toNat with
    | .error st => s.finish 4 st 0 0
    | .ok r =>
      let norep : Bool := match s.regionBus r with | n :: _ => r.place.isSome && !s.replayable n r.commits | [] => false
      s.ok 4 (r.stat norep)))

/-- Bytes of the health record that QUERY 4 writes (assumption 18, DESIGN CHOICE, unsafe). -/
def healthBytes : Nat := 64

/-- QUERY_HEALTH: the health record is written; its layout is left open (R401). -/
def execQueryHealth (s : State) : Host.Outcome State Fault Refusal :=
  nextState (jobCommand s 4 (fun _ =>
    let a := s.cmd.a2.toNat
    if !onModule a healthBytes then s.badArg 4 0
    else
      let t : State := { s with my := { s.my with freeCtr := s.my.freeCtr + 1 } }
      (writeNow t .host a ((List.range healthBytes).map (Config.healthByte s.my.freeCtr))).ok 4 0))

/-! ### MAP and BIND (R258, R323, R324) -/

/-- The pairs that MAP writes: a table entry's address and its value. -/
def State.mapPairs (s : State) (a n : Nat) : List (Nat × Nat) :=
  (List.range n).map (fun k => (s.devNat (a + 16 * k) 8, s.devNat (a + 16 * k + 8) 8))

/-- MAP: table entries are written, and every entry of the walk caches and of address generators of the job that covers the range is
invalidated (R258). -/
def execMap (s : State) : Host.Outcome State Fault Refusal :=
  nextState (jobCommand s 5 (fun job =>
    let c := s.cmd
    let ps := s.mapPairs c.a0.toNat (c.a1.toNat % 257)
    if 256 < c.a1.toNat || ps.any (fun p => !onModule p.1 8) then s.badArg 5 0
    else
      let t := ps.foldl (fun s p => writeNow s .host p.1 (bytesOfNat 8 p.2)) s
      let lo := c.a2.toNat
      let hi := c.a2.toNat + c.a3.toNat
      let meets (vpage bit : Nat) : Bool := vpage * 2 ^ bit < hi && lo < (vpage + 1) * 2 ^ bit
      (dropTrans (dropWalks t (fun e => e.job == job && meets e.vpage e.lo))
        (fun e => e.job == job && meets e.vpage (if e.big then 29 else 16))).ok 5 0))

/-- A class record breaks R323. -/
def classBad (n : Nat) : Bool :=
  let f (lo len : Nat) : Nat := bitsOf n (8 * lo) (8 * len)
  f 6 2 ≠ 0 || f 14 2 ≠ 0 || f 16 1 = 0 || 7 < f 16 1 || !([8, 10, 11, 12].contains (f 17 1)) || f 18 2 = 0 || 4096 < f 18 2 ||
    f 20 1 = 0 || 16 < f 20 1 || 1 < f 21 1 || f 22 2 = 0 || f 24 4 % 144 ≠ 0 || f 28 4 ≠ 0

/-- BIND_CLASS: a ladder class record is stored; one that breaks its table leaves the old one (R323). -/
def execBindClass (s : State) : Host.Outcome State Fault Refusal :=
  nextState (jobCommand s 6 (fun _ =>
    let i := s.cmd.a0.toNat
    let n := s.devNat s.cmd.a1.toNat 32
    if 256 ≤ i || classBad n then s.badArg 6 0
    else (s.modHub (fun h => { h with classes := mapSet i (bytesOfNat 32 n) h.classes })).ok 6 0))

/-- A transform record breaks R324. -/
def transformBad (n : Nat) : Bool :=
  bitsOf n 48 16 ≠ 0 || (List.range 6).any (fun k => let p := bitsOf n (64 + 32 * k) 32; bitsOf p 21 11 ≠ 0 || bitsOf p 19 2 = 3)

/-- BIND_TRANSFORM: a transform record is stored, and the armed copies of the old one are given up (R324, R325). -/
def execBindTransform (s : State) : Host.Outcome State Fault Refusal :=
  nextState (jobCommand s 6 (fun _ =>
    let i := s.cmd.a0.toNat
    let n := s.devNat s.cmd.a1.toNat 32
    if i = 0 || Config.transforms ≤ i || transformBad n then s.badArg 6 0
    else
      (retireXforms (s.modHub (fun h => { h with transforms := mapSet i (bytesOfNat 32 n) h.transforms }))
        (fun key => key / 2 ^ 16 == i)).ok 6 0))

/-! ### ATTEST (R407) -/

/-- An entry of a report: kind and index, and the digest of some bytes. (assumption 116, DEDUCED, unsafe) -/
def reportEntry (kind index : Nat) (bytes : List Byte) : List Byte := bytesOfNat 4 kind ++ bytesOfNat 4 index ++ sha256 bytes

/-- The entries: images armed by ARM, bound classes, bound transforms. -/
def State.reportEntries (s : State) : List (List Byte) :=
  (s.hub.images.filter (fun e => !s.hub.xforms.any (fun x => x.2 == e.1))).map (fun e =>
      reportEntry 1 e.1 (e.2.words.flatMap (fun w => bytesOfNat 8 w.toNat))) ++
    (s.hub.classes.filter (fun e => e.2.getD 21 0 == 1)).map (fun e => reportEntry 2 e.1 e.2) ++
    s.hub.transforms.map (fun e => reportEntry 3 e.1 e.2)

/-- The part of a report that is signed. -/
def State.reportBody (s : State) (nonce : List Byte) : List Byte :=
  bytesOfNat 4 0x4B344154 ++ bytesOfNat 2 (s.out.moduleId.getD 0) ++ bytesOfNat 2 s.reportEntries.length ++ nonce ++
    (List.range 64).map Config.publicKeyByte ++ s.reportEntries.flatten

/-- ATTEST: the signed report of what is armed and bound is written (R407). -/
def execAttest (s : State) : Host.Outcome State Fault Refusal :=
  nextState (hostCommand s 8 (
    let a := s.cmd.a0.toNat
    let b := s.cmd.a1.toNat
    let body := s.reportBody (lastBytes s a 32)
    if !onModule a 32 || !onModule b (body.length + 64) then s.badArg 8 0
    else
      let t : State := { s with my := { s.my with freeCtr := s.my.freeCtr + 1 } }
      (writeNow t .host b (body ++ (List.range 64).map (Config.signatureByte s.my.freeCtr (natOfBytes body)))).ok 8 0))

/-! ### RESET (R241, R401, R403) -/

/-- A bank unit that the health record holds a mode for: only its mode is left, and the counts of a retired one. -/
def Bu.afterReset (b : Bu) (mode : Nat) : Bu :=
  { Bu.reset with rns := { Bu.reset.rns with mode := mode, cnt := if mode = 7 then b.rns.cnt else Bu.reset.rns.cnt } }

/-- The module after RESET: every job has ended, the stores are empty, and every setting stands at its reset value, but for the
health record and the counts of retired bank units. What the memories hold stays, with the clocks and the striping. (assumption 117, DEDUCED, unsafe) -/
def State.afterReset (s : State) : State :=
  let r := State.reset
  { s with
    bus := s.out.health.modes.map (fun e => (e.1, (s.bu e.1).afterReset e.2))
    net := r.net
    ms := { s.ms with pending := [], bars := [] }
    hub := { r.hub with nextId := s.hub.nextId, suspect := s.hub.suspect, epoch := s.hub.epoch, watermark := s.hub.watermark,
                        dropped := s.hub.dropped, shortage := s.hub.shortage }
    out := { r.out with tick := s.out.tick, clockMHz := s.out.clockMHz, health := s.out.health, keyErased := s.out.keyErased,
                        around := s.out.around, routeTable := routesFound s.out.around }
    my := { s.my with issueQ := [] } }

/-- RESET (R401). -/
def execReset (s : State) : Host.Outcome State Fault Refusal :=
  nextState (hostCommand s 9 (s.ok 9 0).afterReset)

/-! ### POLICY (R402) -/

/-- A POLICY command. -/
def policy (s : State) (good : Bool) (t : State) : State :=
  hostCommand s 10 (if good then t.ok 10 0 else s.badArg 10 0)

/-- POLICY_MODULE_ID: key 1 (R404). -/
def execPolicyModuleId (s : State) : Host.Outcome State Fault Refusal :=
  nextState (policy s true (s.modOut (fun o => { o with moduleId := some (s.cmd.a1.toNat % 4096) })))

/-- POLICY_POOL: key 2; the granules whose bits are set are those of the pool (R357). (assumption 120, DEDUCED, unsafe) -/
def execPolicyPool (s : State) : Host.Outcome State Fault Refusal :=
  let p := s.cmd.a1.toNat
  let a := s.cmd.a2.toNat
  let bits := s.devNat a 192
  nextState (policy s (p < 16 && onModule a 192) (s.modHub (fun h => { h with
    pools := (List.range Config.granules).foldl (fun m g =>
      if bitOf bits g then mapSet g p m else if mapGet g m = some p then mapDel g m else m) h.pools })))

/-- POLICY_SPAN_DIRECTORY: key 3 (R320). -/
def execPolicySpanDirectory (s : State) : Host.Outcome State Fault Refusal :=
  let n := s.cmd.a2.toNat
  nextState (policy s (1 ≤ n && n ≤ 2 ^ 24) (s.modHub (fun h => { h with spanBase := s.cmd.a1.toNat, spanSize := n })))

/-- POLICY_CE_WIN: key 4 (R313). -/
def execPolicyCeWin (s : State) : Host.Outcome State Fault Refusal :=
  let n := s.cmd.a1.toNat
  nextState (policy s (1 ≤ n && n ≤ 65535) (s.modHub (fun h => { h with ceWin := n })))

/-- POLICY_TEST_MODE: key 5; every region is in test mode while the setting is 1 (R252). -/
def execPolicyTestMode (s : State) : Host.Outcome State Fault Refusal :=
  nextState (policy s true (s.modOut (fun o => { o with testMode := bitOf s.cmd.a1.toNat 0 })))

/-- POLICY_CLEAR_MODE: key 6; a bank unit is whole again, in the health record and in the unit (R241). (assumption 119, DEDUCED, unsafe) -/
def execPolicyClearMode (s : State) : Host.Outcome State Fault Refusal :=
  let a := s.cmd.a1.toNat
  let n := buNum (bitsOf a 0 2) (bitsOf a 2 7) (bitsOf a 9 6)
  nextState (policy s (a < 2 ^ 17 && bitsOf a 2 7 < Config.cols)
    ((s.modBu n (fun b => { b with rns := { b.rns with mode := 0 } })).modOut (fun o =>
      { o with health := { o.health with modes := mapDel n o.health.modes } })))

/-- POLICY_BUDGET: key 7; a job's ladder budget rises (R338). -/
def execPolicyBudget (s : State) : Host.Outcome State Fault Refusal :=
  let j := s.cmd.a1.toNat
  nextState (policy s (mapGet j s.hub.jobs).isSome (s.modJob j (fun x => { x with budget := x.budget + s.cmd.a2.toInt })))

/-- POLICY_ALARM: key 8; the action of a source: 0 log, 1 erase (R408; assumption 19, DEDUCED, unsafe). -/
def execPolicyAlarm (s : State) : Host.Outcome State Fault Refusal :=
  let k := s.cmd.a1.toNat
  let v := s.cmd.a2.toNat
  nextState (policy s (k < 4 && v < 2) (s.modOut (fun o =>
    { o with alarmAct := o.alarmAct.set (Fin.ofNat 4 k) (if v = 1 then .erase else .log) })))

/-- POLICY_TIME_ROOT: key 9; the root's own clock is the time (R405). -/
def execPolicyTimeRoot (s : State) : Host.Outcome State Fault Refusal :=
  let root := bitOf s.cmd.a1.toNat 0
  nextState (policy s true (s.modOut (fun o => { o with timeRoot := root, synced := root })))

end Sys2Proof.Machine
end

