-- ==== Sys2Proof/Machine/Scalar.lean ====
section
/-!
DEFINITION. The scalar integer, compare, predicate and select operations (R77 to R84).
-/
namespace Sys2Proof.Machine

/-- d of R77: the result modulo 2^w, sign-extended to 64 bits for an even type code and zero-extended for an odd one. -/
def extend64 (t : Ty) (res : Int) : Nat :=
  let r := wrapNat t.bits res
  if t.code % 2 = 0 then wrapNat 64 (signedOf t.bits r) else r

/-- A scalar operation on A and B (R77): its result, and the flags it raises. -/
def scalarBody (f : Nat → Nat → Nat → Int × Nat) (v : View) (x : Srcs) : Except Stop Res :=
  let w := v.o.ty.bits
  let (res, fl) := f w (x.a % 2 ^ w) (v.bOrImm x % 2 ^ w)
  .ok { Res.ofVal (extend64 v.o.ty res) with flags := fl }

/-- The number of bits of a number's binary form. -/
def bitLength (n : Nat) : Nat := if n = 0 then 0 else Nat.log2 n + 1

/-- The number of 1 bits among the low w bits. -/
def popCount (w n : Nat) : Nat := ((List.range w).filter (fun k => bitOf n k)).length

/-- The lowest 1 bit among the low w bits; w when there is none. -/
def trailingZeros (w n : Nat) : Nat := ((List.range w).find? (fun k => bitOf n k)).getD w

/-- Quotient and remainder of R79, with the flags. -/
def divide (signed : Bool) (w a b : Nat) : Int × Int × Nat :=
  if b = 0 then (((2 ^ w - 1 : Nat) : Int), (a : Int), divFlags b)
  else if signed then
    let sa := signedOf w a
    let sb := signedOf w b
    if sa = -((2 ^ (w - 1) : Nat) : Int) && sb = -1 then (sa, 0, 0)
    else let q := Int.tdiv sa sb; (q, sa - sb * q, 0)
  else ((a / b : Nat), (a % b : Nat), 0)

/-- The field length of R78 and R80: 64 when 0. -/
def lenOr64 (n : Nat) : Nat := if n = 0 then 64 else n

/-- `bfx` (R80) on 64 bits. -/
def bitExtract (signExt : Bool) (a b : Nat) : Int :=
  let pos := bitsOf b 0 6
  let len := lenOr64 (bitsOf b 8 6)
  let high := if signExt && bitOf a 63 then (2 ^ 64 - 1) * 2 ^ 64 else 0
  let field := bitsOf (a + high) pos len
  if signExt then signedOf len field else (field : Int)

/-- `bfi` (R80): c with bits pos to min(pos + len, 64) - 1 replaced by the low bits of a. -/
def bitInsert (a b c : Nat) : Nat :=
  let pos := bitsOf b 0 6
  let n := min (lenOr64 (bitsOf b 8 6)) (64 - pos)
  c - bitsOf c pos n * 2 ^ pos + bitsOf a 0 n * 2 ^ pos

/-- A condition written as R82 states: all ones or zeros to a P register, 1 or 0 elsewhere. (assumption 11, DEDUCED, unsafe) -/
def condVal (d : Opnd) (c : Bool) : Nat :=
  match d.reg with
  | .p _ => if c then 2 ^ 64 - 1 else 0
  | _ => if c then 1 else 0

/-- A compare (R82). -/
def cmpBody (f : Nat → Nat → Nat → Bool) (v : View) (x : Srcs) : Except Stop Res :=
  let w := v.o.ty.bits
  .ok (Res.ofVal (condVal v.o.dst (f w (x.a % 2 ^ w) (v.bOrImm x % 2 ^ w))))

/-- A predicate operation on 64 bits (R83). -/
def predBody (f : Nat → Nat → Nat) (_ : View) (x : Srcs) : Except Stop Res :=
  .ok (Res.ofVal (f (x.a % 2 ^ 64) (x.b % 2 ^ 64) % 2 ^ 64))

/-- A predicate condition (R83), written as a compare's. -/
def predCondBody (f : Nat → Nat → Bool) (v : View) (x : Srcs) : Except Stop Res :=
  .ok (Res.ofVal (condVal v.o.dst (f (x.a % 2 ^ 64) (x.b % 2 ^ 64))))

/-- `sel` (R84). -/
def selBody (v : View) (x : Srcs) : Except Stop Res :=
  let pick := if x.c % 2 = 1 then x.a else x.b
  .ok (Res.ofVal (extend64 v.o.ty ((pick % 2 ^ v.o.ty.bits : Nat) : Int)))

/-- `add`: A + B (R78). -/
def execAdd (o : Op) (s : State) : Host.Outcome State Fault Refusal :=
  nextState (runScalar .add o s always (scalarBody fun _ a b => ((a : Int) + b, 0)))

/-- `sub`: A - B (R78). -/
def execSub (o : Op) (s : State) : Host.Outcome State Fault Refusal :=
  nextState (runScalar .sub o s always (scalarBody fun _ a b => ((a : Int) - b, 0)))

/-- `mul`: A x B (R78). -/
def execMul (o : Op) (s : State) : Host.Outcome State Fault Refusal :=
  nextState (runScalar .mul o s always (scalarBody fun _ a b => ((a : Int) * b, 0)))

/-- `mulh`: floor(sA x sB / 2^w) (R78). -/
def execMulh (o : Op) (s : State) : Host.Outcome State Fault Refusal :=
  nextState (runScalar .mulh o s always (scalarBody fun w a b => (signedOf w a * signedOf w b / ((2 ^ w : Nat) : Int), 0)))

/-- `mulhu`: floor(A x B / 2^w) (R78). -/
def execMulhu (o : Op) (s : State) : Host.Outcome State Fault Refusal :=
  nextState (runScalar .mulhu o s always (scalarBody fun w a b => (((a * b / 2 ^ w : Nat) : Int), 0)))

/-- `div`: the signed quotient of R79. -/
def execDiv (o : Op) (s : State) : Host.Outcome State Fault Refusal :=
  nextState (runScalar .div o s always (scalarBody fun w a b => let q := divide true w a b; (q.1, q.2.2)))

/-- `divu`: the unsigned quotient of R79. -/
def execDivu (o : Op) (s : State) : Host.Outcome State Fault Refusal :=
  nextState (runScalar .divu o s always (scalarBody fun w a b => let q := divide false w a b; (q.1, q.2.2)))

/-- `rem`: the signed remainder of R79. -/
def execRem (o : Op) (s : State) : Host.Outcome State Fault Refusal :=
  nextState (runScalar .rem o s always (scalarBody fun w a b => let q := divide true w a b; (q.2.1, q.2.2)))

/-- `remu`: the unsigned remainder of R79. -/
def execRemu (o : Op) (s : State) : Host.Outcome State Fault Refusal :=
  nextState (runScalar .remu o s always (scalarBody fun w a b => let q := divide false w a b; (q.2.1, q.2.2)))

/-- `and`: A AND B (R78). -/
def execAnd (o : Op) (s : State) : Host.Outcome State Fault Refusal :=
  nextState (runScalar .and o s always (scalarBody fun _ a b => (((a &&& b : Nat) : Int), 0)))

/-- `or`: A OR B (R78). -/
def execOr (o : Op) (s : State) : Host.Outcome State Fault Refusal :=
  nextState (runScalar .or o s always (scalarBody fun _ a b => (((a ||| b : Nat) : Int), 0)))

/-- `xor`: A XOR B (R78). -/
def execXor (o : Op) (s : State) : Host.Outcome State Fault Refusal :=
  nextState (runScalar .xor o s always (scalarBody fun _ a b => (((a ^^^ b : Nat) : Int), 0)))

/-- `andn`: A AND NOT B (R78). -/
def execAndn (o : Op) (s : State) : Host.Outcome State Fault Refusal :=
  nextState (runScalar .andn o s always (scalarBody fun w a b => (((a &&& (2 ^ w - 1 - b) : Nat) : Int), 0)))

/-- `shl`: A x 2^k, k := B mod w (R78). -/
def execShl (o : Op) (s : State) : Host.Outcome State Fault Refusal :=
  nextState (runScalar .shl o s always (scalarBody fun w a b => (((a * 2 ^ (b % w) : Nat) : Int), 0)))

/-- `shr`: floor(A / 2^k) (R78). -/
def execShr (o : Op) (s : State) : Host.Outcome State Fault Refusal :=
  nextState (runScalar .shr o s always (scalarBody fun w a b => (((a / 2 ^ (b % w) : Nat) : Int), 0)))

/-- `sar`: floor(sA / 2^k) (R78). -/
def execSar (o : Op) (s : State) : Host.Outcome State Fault Refusal :=
  nextState (runScalar .sar o s always (scalarBody fun w a b => (signedOf w a / ((2 ^ (b % w) : Nat) : Int), 0)))

/-- `rol`: A x 2^k + floor(A / 2^(w-k)) (R78). -/
def execRol (o : Op) (s : State) : Host.Outcome State Fault Refusal :=
  nextState (runScalar .rol o s always (scalarBody fun w a b => (((a * 2 ^ (b % w) + a / 2 ^ (w - b % w) : Nat) : Int), 0)))

/-- `min`: min(sA, sB) (R78). -/
def execMin (o : Op) (s : State) : Host.Outcome State Fault Refusal :=
  nextState (runScalar .min o s always (scalarBody fun w a b => (min (signedOf w a) (signedOf w b), 0)))

/-- `max`: max(sA, sB) (R78). -/
def execMax (o : Op) (s : State) : Host.Outcome State Fault Refusal :=
  nextState (runScalar .max o s always (scalarBody fun w a b => (max (signedOf w a) (signedOf w b), 0)))

/-- `minu`: min(A, B) (R78). -/
def execMinu (o : Op) (s : State) : Host.Outcome State Fault Refusal :=
  nextState (runScalar .minu o s always (scalarBody fun _ a b => (((min a b : Nat) : Int), 0)))

/-- `maxu`: max(A, B) (R78). -/
def execMaxu (o : Op) (s : State) : Host.Outcome State Fault Refusal :=
  nextState (runScalar .maxu o s always (scalarBody fun _ a b => (((max a b : Nat) : Int), 0)))

/-- `clz`: w - bit length of A (R78). -/
def execClz (o : Op) (s : State) : Host.Outcome State Fault Refusal :=
  nextState (runScalar .clz o s always (scalarBody fun w a _ => (((w - bitLength a : Nat) : Int), 0)))

/-- `ctz`: trailing zero bits of A, w when A = 0 (R78). -/
def execCtz (o : Op) (s : State) : Host.Outcome State Fault Refusal :=
  nextState (runScalar .ctz o s always (scalarBody fun w a _ => (((trailingZeros w a : Nat) : Int), 0)))

/-- `popc`: one bits of A (R78). -/
def execPopc (o : Op) (s : State) : Host.Outcome State Fault Refusal :=
  nextState (runScalar .popc o s always (scalarBody fun w a _ => (((popCount w a : Nat) : Int), 0)))

/-- `sext`: a[n-1:0] sign-extended, n := B[5:0], 64 when 0 (R78). -/
def execSext (o : Op) (s : State) : Host.Outcome State Fault Refusal :=
  nextState (runScalar .sext o s always (scalarBody fun _ a b => (signedOf (lenOr64 (bitsOf b 0 6)) a, 0)))

/-- `zext`: a[n-1:0], n as for `sext` (R78). -/
def execZext (o : Op) (s : State) : Host.Outcome State Fault Refusal :=
  nextState (runScalar .zext o s always (scalarBody fun _ a b => (((bitsOf a 0 (lenOr64 (bitsOf b 0 6)) : Nat) : Int), 0)))

/-- `bfx`: bits pos to pos + len - 1 of a (R80). -/
def execBfx (o : Op) (s : State) : Host.Outcome State Fault Refusal :=
  nextState (runScalar .bfx o s always (fun v x => .ok (Res.ofVal (wrapNat 64 (bitExtract (v.o.ty == .i64) (x.a % 2 ^ 64) (v.bOrImm x % 2 ^ 64))))))

/-- `bfi`: c with a field replaced by the low bits of a (R80). -/
def execBfi (o : Op) (s : State) : Host.Outcome State Fault Refusal :=
  nextState (runScalar .bfi o s always (fun _ x => .ok (Res.ofVal (bitInsert (x.a % 2 ^ 64) (x.b % 2 ^ 64) (x.c % 2 ^ 64)))))

/-- `shadd`: A x 2^s + B, s := `mod`[2:0] (R78). -/
def execShadd (o : Op) (s : State) : Host.Outcome State Fault Refusal :=
  nextState (runScalar .shadd o s always (fun v x => .ok (Res.ofVal (extend64 v.o.ty (((x.a % 2 ^ v.o.ty.bits) * 2 ^ v.o.modBits 0 3 + x.b % 2 ^ v.o.ty.bits : Nat) : Int)))))

/-- `mov`: A (R78). -/
def execMov (o : Op) (s : State) : Host.Outcome State Fault Refusal :=
  nextState (runScalar .mov o s always (scalarBody fun _ a _ => ((a : Int), 0)))

/-- `movi`: the 64-bit immediate value (R81). -/
def execMovi (o : Op) (s : State) : Host.Outcome State Fault Refusal :=
  nextState (runScalar .movi o s always (fun v _ => .ok (Res.ofVal (immValue v.cur v.o))))

/-- `movh`: value[31:0] x 2^32 + a[31:0] (R81). -/
def execMovh (o : Op) (s : State) : Host.Outcome State Fault Refusal :=
  nextState (runScalar .movh o s always (fun v x => .ok (Res.ofVal (bitsOf (immValue v.cur v.o) 0 32 * 2 ^ 32 + x.a % 2 ^ 32))))

/-- `ceq`: A = B (R82). -/
def execCeq (o : Op) (s : State) : Host.Outcome State Fault Refusal :=
  nextState (runScalar .ceq o s always (cmpBody fun _ a b => a == b))

/-- `cne`: A ≠ B (R82). -/
def execCne (o : Op) (s : State) : Host.Outcome State Fault Refusal :=
  nextState (runScalar .cne o s always (cmpBody fun _ a b => a != b))

/-- `clt`: sA < sB (R82). -/
def execClt (o : Op) (s : State) : Host.Outcome State Fault Refusal :=
  nextState (runScalar .clt o s always (cmpBody fun w a b => decide (signedOf w a < signedOf w b)))

/-- `cle`: sA ≤ sB (R82). -/
def execCle (o : Op) (s : State) : Host.Outcome State Fault Refusal :=
  nextState (runScalar .cle o s always (cmpBody fun w a b => decide (signedOf w a ≤ signedOf w b)))

/-- `cltu`: A < B (R82). -/
def execCltu (o : Op) (s : State) : Host.Outcome State Fault Refusal :=
  nextState (runScalar .cltu o s always (cmpBody fun _ a b => decide (a < b)))

/-- `cleu`: A ≤ B (R82). -/
def execCleu (o : Op) (s : State) : Host.Outcome State Fault Refusal :=
  nextState (runScalar .cleu o s always (cmpBody fun _ a b => decide (a ≤ b)))

/-- `ctst`: (A AND B) ≠ 0 (R82). -/
def execCtst (o : Op) (s : State) : Host.Outcome State Fault Refusal :=
  nextState (runScalar .ctst o s always (cmpBody fun _ a b => (a &&& b) != 0))

/-- `pand`: a AND b (R83). -/
def execPand (o : Op) (s : State) : Host.Outcome State Fault Refusal :=
  nextState (runScalar .pand o s always (predBody fun a b => a &&& b))

/-- `por`: a OR b (R83). -/
def execPor (o : Op) (s : State) : Host.Outcome State Fault Refusal :=
  nextState (runScalar .por o s always (predBody fun a b => a ||| b))

/-- `pxor`: a XOR b (R83). -/
def execPxor (o : Op) (s : State) : Host.Outcome State Fault Refusal :=
  nextState (runScalar .pxor o s always (predBody fun a b => a ^^^ b))

/-- `pnot`: NOT a (R83). -/
def execPnot (o : Op) (s : State) : Host.Outcome State Fault Refusal :=
  nextState (runScalar .pnot o s always (predBody fun a _ => 2 ^ 64 - 1 - a))

/-- `pmov`: a (R83). -/
def execPmov (o : Op) (s : State) : Host.Outcome State Fault Refusal :=
  nextState (runScalar .pmov o s always (predBody fun a _ => a))

/-- `pany`: (a AND b) ≠ 0 (R83). -/
def execPany (o : Op) (s : State) : Host.Outcome State Fault Refusal :=
  nextState (runScalar .pany o s always (predCondBody fun a b => (a &&& b) != 0))

/-- `pall`: (a AND b) = b (R83). -/
def execPall (o : Op) (s : State) : Host.Outcome State Fault Refusal :=
  nextState (runScalar .pall o s always (predCondBody fun a b => (a &&& b) == b))

/-- `sel`: a when c[0] is 1 and b otherwise (R84). -/
def execSel (o : Op) (s : State) : Host.Outcome State Fault Refusal :=
  nextState (runScalar .sel o s always selBody)

end Sys2Proof.Machine
end

