-- ==== Sys2Proof/Machine/VecMem.lean ====
section
/-!
DEFINITION. Vector loads and stores, described blocks, gathers and scatters, and the sparse operations (R194 to R203).
-/
namespace Sys2Proof.Machine

/-! ### Lines (R195) -/

/-- The offset of `vld` and `vst`: `disp` counts lines. -/
def lineOffset (v : View) (x : Srcs) : Nat := memOffset x (v.o.modBit 9) (dispOf v.o 9) 64

/-- `vld` (R195). -/
def execVld (o : Op) (s : State) : Host.Outcome State Fault Refusal :=
  nextState (runVector .vld o s storesDone (fun v x =>
    let off := lineOffset v x
    match checkAccess v off 64 with
    | .error e => .error e
    | .ok _ =>
      match v.load off 64 with
      | .error e => .error e
      | .ok bs =>
        let line := natOfBytes bs
        withLoads [(v.bankByte off, 64)] (tyLanes v x v.o.ty (plain (fun k => laneOf v.o.ty.bits line k)))))

/-- `vst` (R195): the bytes of selected lanes; one predicate bit governs both codes of an nq4 byte. -/
def execVst (o : Op) (s : State) : Host.Outcome State Fault Refusal :=
  nextState (runVector .vst o s always (fun v x =>
    let off := lineOffset v x
    match checkAccess v off 64 with
    | .error e => .error e
    | .ok _ =>
      let a := (v.s.window v.cur.bu v.cur.slot).1 + off
      let sz := max v.o.ty.bytes 1
      .ok { Res.none with effs := ((List.range (64 / sz)).filter (fun k => bitOf x.sel k)).map (fun k =>
        .store (a + sz * k) (bytesOfNat sz (laneOf (8 * sz) x.c k))) }))

/-! ### Described blocks (R196, R197) -/

/-- `vldb` (R196): one part of a described block, decoded. -/
def execVldb (o : Op) (s : State) : Host.Outcome State Fault Refusal :=
  nextState (runVector .vldb o s storesDone (fun v x =>
    let off := memOffset x (v.o.modBit 9) 0 0
    match v.load off 1 with
    | .error e => .error e
    | .ok b0 =>
      let first := natOfBytes b0
      let len := if off % 2 ≠ 0 then 1 else blockLen first
      match v.load off len with
      | .error e => .error e
      | .ok bs =>
        match checkBlock bs off with
        | some e => .error (.fault ⟨.format, off + e.at_, e.byte + e.reason * 2 ^ 8⟩)
        | none =>
          let t := v.o.ty
          let base := v.o.modBits 0 5 * t.lanes
          withLoads [(v.bankByte off, len)] (tyLanes v x t (fun k g =>
            if base + k < blockCount first then roundLane v t (blockElem bs (base + k)) g else ⟨0, 0, g, false⟩))))

/-- The store of `vstb`'s lane i: its bytes, its flags and generator, or its fault, after the lanes before it. (assumption 27, DEDUCED, unsafe) -/
def stbLane (v : View) (x : Srcs) (a : Nat) (et : Ty) (scale : Q) (i : Nat) (acc : Except Stop (List Eff × Nat × Word)) :
    Except Stop (List Eff × Nat × Word) :=
  match acc with
  | .error e => .error e
  | .ok (effs, flags, g) =>
    if !bitOf x.sel i then .ok (effs, flags, g)
    else
      let t := v.o.ty
      let q := divVal (laneVal t x.b i) (Val.ofQ scale)
      let r := roundLane v et q g
      let off := a + 2 + (v.o.modBits 8 2 * t.lanes + i) * et.bytes
      if r.trap then .error (.fault ⟨.overflow, 0, i⟩)
      else if !inRange (v.s.window v.cur.bu v.cur.slot) off et.bytes then .error (.fault ⟨.bankRange, off, 0⟩)
      else
        let w := (v.s.window v.cur.bu v.cur.slot).1
        .ok (effs ++ [.store (w + off) (bytesOfNat et.bytes r.bits)], fOr flags r.flags, r.rng)

/-- `vstb` (R197): lanes encoded into one part of a described block. -/
def execVstb (o : Op) (s : State) : Host.Outcome State Fault Refusal :=
  nextState (runVector .vstb o s always (fun v x =>
    let a := x.a % 2 ^ 64
    let c := x.c % 2 ^ 64
    let sb := c % 256
    let fmt := v.o.modBits 0 8
    let hdr := v.o.modBit 10
    match fmtOf fmt, ue4m3 sb with
    | none, _ => .error (.fault ⟨.format, a, fmt + 1 * 2 ^ 8⟩)
    | some (et, _), scale =>
      if c / 256 ≠ 0 then .error (.fault ⟨.format, a, offending c 1 7 + 4 * 2 ^ 8⟩)
      else
        match scale with
        | none => .error (.fault ⟨.format, a, sb + 2 * 2 ^ 8⟩)
        | some sc =>
          if fmtUnscaled fmt && sb != 0x38 then .error (.fault ⟨.format, a, sb + 2 * 2 ^ 8⟩)
          else if a % 2 ≠ 0 then .error (.fault ⟨.format, a, fmt + 5 * 2 ^ 8⟩)
          else if hdr && !inRange (v.s.window v.cur.bu v.cur.slot) a 2 then .error (.fault ⟨.bankRange, a, 0⟩)
          else
            let w := (v.s.window v.cur.bu v.cur.slot).1
            let first : List Eff := if hdr then [.store (w + a) (bytesOfNat 2 (fmt + sb * 256))] else []
            match (List.range v.o.ty.lanes).foldl (fun acc i => stbLane v x a et sc i acc)
                (.ok (first, 0, v.c.blk.rng)) with
            | .error e => .error e
            | .ok (effs, flags, g) => .ok { Res.none with effs := effs, flags := flags, rng := some g }))

/-! ### Gather and scatter (R198, R199) -/

/-- The mask of an index lane. -/
def pad32 : Nat := 0xFFFFFFFF

/-- The data lanes of a gather or scatter: how many elements move, and the first data lane. -/
def gsShape (v : View) : Nat × Nat :=
  let m := min 16 v.o.ty.lanes
  (m, v.o.modBits 0 2 * m)

/-- What an element of a gather or scatter does: nothing (masked), an offset in range, out of range. -/
inductive GsElem where
  | masked
  | at_ (off : Nat)
  | out (off : Nat)
deriving DecidableEq, Repr

/-- Element i (R199). (assumption 28, DEDUCED, unsafe) -/
def gsElem (v : View) (x : Srcs) (i : Nat) : GsElem :=
  let s := v.o.ty.bytes
  let ix := laneOf 32 x.b i
  if !bitOf x.sel ((gsShape v).2 + i) || ix = pad32 then .masked
  else
    let off := x.a % 2 ^ 64 + ix * s
    if inRange (v.s.window v.cur.bu v.cur.slot) off s then .at_ off else .out off

/-- The alignment of the base and, under `ot`, the range of every element (R199): the lowest one out of range faults. -/
def gsCheck (v : View) (x : Srcs) : Except Stop Unit :=
  let a := x.a % 2 ^ 64
  if a % v.o.ty.bytes ≠ 0 then .error (.fault ⟨.bankAlign, a, 0⟩)
  else if !v.o.modBit 9 then .ok ()
  else
    match (List.range (gsShape v).1).findSome? (fun i => match gsElem v x i with | .out off => some (i, off) | _ => none) with
    | some (i, off) => .error (.fault ⟨.bankRange, off, i⟩)
    | none => .ok ()

/-- The bytes of one element of a gather. -/
def gatherBytes (v : View) (x : Srcs) (i : Nat) : Except Stop Nat :=
  match gsElem v x i with
  | .at_ off => match v.load off v.o.ty.bytes with | .ok bs => .ok (natOfBytes bs) | .error e => .error e
  | _ => .ok 0

/-- `vgat` (R199). -/
def execVgat (o : Op) (s : State) : Host.Outcome State Fault Refusal :=
  nextState (runVector .vgat o s storesDone (fun v x =>
    match gsCheck v x with
    | .error e => .error e
    | .ok _ =>
      let (m, base) := gsShape v
      let vals := (List.range m).map (gatherBytes v x)
      match vals.findSome? (fun r => match r with | .error e => some e | .ok _ => none) with
      | some e => .error e
      | none =>
        let elem (k : Nat) : GsElem := if base ≤ k && k < base + m then gsElem v x (k - base) else .masked
        let read := (List.range m).filterMap (fun i => match gsElem v x i with
          | .at_ off => some (v.bankByte off, v.o.ty.bytes)
          | _ => none)
        withLoads read (vecLanes v v.o.ty.bits v.o.ty.lanes v.zm (fun k => elem k != .masked) (fun k g =>
          match elem k with
          | .at_ _ => ⟨match vals.getD (k - base) (.ok 0) with | .ok n => n | .error _ => 0, 0, g, false⟩
          | _ => ⟨0, fOob, g, false⟩))))

/-- `vsca` (R199). -/
def execVsca (o : Op) (s : State) : Host.Outcome State Fault Refusal :=
  nextState (runVector .vsca o s always (fun v x =>
    match gsCheck v x with
    | .error e => .error e
    | .ok _ =>
      let (m, base) := gsShape v
      let sz := v.o.ty.bytes
      let w := (v.s.window v.cur.bu v.cur.slot).1
      let effs := (List.range m).filterMap (fun i => match gsElem v x i with
        | .at_ off => some (Eff.store (w + off) (bytesOfNat sz (laneOf (8 * sz) x.c (base + i))))
        | _ => none)
      let oob := (List.range m).any (fun i => match gsElem v x i with | .out _ => true | _ => false)
      .ok { Res.none with effs := effs, flags := if oob then fOob else 0 }))

/-! ### Conflicts, intersection and lane indices (R200 to R203) -/

/-- The lanes of a vector of index lanes that are selected and not all ones. -/
def liveLanes (v : View) (x : Srcs) (val : Nat) : List Nat :=
  let t := v.o.ty
  (List.range t.lanes).filter (fun k => bitOf x.sel k && laneOf t.bits val k != 2 ^ t.bits - 1)

/-- `vconf` (R201): a selected lane that is all ones gives 0, a masked one the merge value (assumption 21, DEDUCED, unsafe). -/
def execVconf (o : Op) (s : State) : Host.Outcome State Fault Refusal :=
  nextState (runVector .vconf o s always (fun v x =>
    let t := v.o.ty
    let live := liveLanes v x x.a
    let same (k : Nat) : List Nat :=
      if live.contains k then live.filter (fun j => j < k && laneOf t.bits x.a j == laneOf t.bits x.a k) else []
    match v.o.dst.reg with
    | .p _ => .ok (Res.ofVal (((List.range t.lanes).filter (fun k => !(same k).isEmpty)).foldl (fun acc k => acc + 2 ^ k) 0))
    | _ => tyLanes v x t (plain (fun k => (same k).foldl (fun acc j => acc + 2 ^ j) 0))))

/-- The highest lane value of some lanes. -/
def maxLane (t : Ty) (val : Nat) (ks : List Nat) : Nat := ks.foldl (fun m k => max m (laneOf t.bits val k)) 0

/-- `visect` (R202): lanes that are masked off, or all ones, are pads, which match nothing; in kind 1 their lane is all ones (assumption
152, DEDUCED, unsafe). -/
def execVisect (o : Op) (s : State) : Host.Outcome State Fault Refusal :=
  nextState (runVector .visect o s always (fun v x =>
    let t := v.o.ty
    let la := liveLanes v x x.a
    let lb := liveLanes v x x.b
    let find (k : Nat) : Option Nat :=
      if la.contains k then lb.find? (fun j => laneOf t.bits x.b j == laneOf t.bits x.a k) else none
    match v.o.modBits 0 2 with
    | 0 => .ok (Res.ofVal (((List.range t.lanes).filter (fun k => (find k).isSome)).foldl (fun acc k => acc + 2 ^ k) 0))
    | 1 => vecLanes v t.bits t.lanes true (fun _ => true)
        (plain (fun k => (find k).getD (2 ^ t.bits - 1)))
    | _ =>
      if la.isEmpty || lb.isEmpty then .ok (Res.ofVal 0)
      else
        let na := (la.filter (fun k => laneOf t.bits x.a k ≤ maxLane t x.b lb)).length
        let nb := (lb.filter (fun k => laneOf t.bits x.b k ≤ maxLane t x.a la)).length
        .ok (Res.ofVal (na + nb * 2 ^ 8))))

/-- `viota` (R203). -/
def execViota (o : Op) (s : State) : Host.Outcome State Fault Refusal :=
  nextState (runVector .viota o s always (fun v x =>
    let t := v.o.ty
    let ones (k : Nat) : Nat := ((List.range k).filter (fun j => bitOf x.a j)).length
    tyLanes v x t (plain (fun k => (x.b + ones k) % 2 ^ t.bits))))

/-- `vmask` (R203): bits at and above the lane count are 0. -/
def execVmask (o : Op) (s : State) : Host.Outcome State Fault Refusal :=
  nextState (runVector .vmask o s always (fun v x =>
    vecLanes v 1 (min 64 v.o.ty.lanes) false (fun k => bitOf x.sel k)
      (plain (fun k => if x.a % 2 ^ 64 ≤ k && k < x.b % 2 ^ 64 then 1 else 0))))

end Sys2Proof.Machine
end

