-- ==== Sys2Proof/Machine/Dispatch.lean ====
section
/-!
DEFINITION. The dispatch: one arm for each row of the opcode table, each a direct call of the row's meaning.
-/
namespace Sys2Proof.Machine

def exec (i : Instr) (s : State) : Host.Outcome State Fault Refusal :=
  match i with
  | .add o => Sys2Proof.Machine.execAdd o s
  | .sub o => Sys2Proof.Machine.execSub o s
  | .mul o => Sys2Proof.Machine.execMul o s
  | .mulh o => Sys2Proof.Machine.execMulh o s
  | .mulhu o => Sys2Proof.Machine.execMulhu o s
  | .div o => Sys2Proof.Machine.execDiv o s
  | .divu o => Sys2Proof.Machine.execDivu o s
  | .rem o => Sys2Proof.Machine.execRem o s
  | .remu o => Sys2Proof.Machine.execRemu o s
  | .and o => Sys2Proof.Machine.execAnd o s
  | .or o => Sys2Proof.Machine.execOr o s
  | .xor o => Sys2Proof.Machine.execXor o s
  | .andn o => Sys2Proof.Machine.execAndn o s
  | .shl o => Sys2Proof.Machine.execShl o s
  | .shr o => Sys2Proof.Machine.execShr o s
  | .sar o => Sys2Proof.Machine.execSar o s
  | .rol o => Sys2Proof.Machine.execRol o s
  | .min o => Sys2Proof.Machine.execMin o s
  | .max o => Sys2Proof.Machine.execMax o s
  | .minu o => Sys2Proof.Machine.execMinu o s
  | .maxu o => Sys2Proof.Machine.execMaxu o s
  | .clz o => Sys2Proof.Machine.execClz o s
  | .ctz o => Sys2Proof.Machine.execCtz o s
  | .popc o => Sys2Proof.Machine.execPopc o s
  | .sext o => Sys2Proof.Machine.execSext o s
  | .zext o => Sys2Proof.Machine.execZext o s
  | .bfx o => Sys2Proof.Machine.execBfx o s
  | .bfi o => Sys2Proof.Machine.execBfi o s
  | .shadd o => Sys2Proof.Machine.execShadd o s
  | .mov o => Sys2Proof.Machine.execMov o s
  | .movi o => Sys2Proof.Machine.execMovi o s
  | .movh o => Sys2Proof.Machine.execMovh o s
  | .ceq o => Sys2Proof.Machine.execCeq o s
  | .cne o => Sys2Proof.Machine.execCne o s
  | .clt o => Sys2Proof.Machine.execClt o s
  | .cle o => Sys2Proof.Machine.execCle o s
  | .cltu o => Sys2Proof.Machine.execCltu o s
  | .cleu o => Sys2Proof.Machine.execCleu o s
  | .ctst o => Sys2Proof.Machine.execCtst o s
  | .pand o => Sys2Proof.Machine.execPand o s
  | .por o => Sys2Proof.Machine.execPor o s
  | .pxor o => Sys2Proof.Machine.execPxor o s
  | .pnot o => Sys2Proof.Machine.execPnot o s
  | .pmov o => Sys2Proof.Machine.execPmov o s
  | .pany o => Sys2Proof.Machine.execPany o s
  | .pall o => Sys2Proof.Machine.execPall o s
  | .sel o => Sys2Proof.Machine.execSel o s
  | .exit o => Sys2Proof.Machine.execExit o s
  | .exitRegisterTarget o => Sys2Proof.Machine.execExitRegisterTarget o s
  | .call o => Sys2Proof.Machine.execCall o s
  | .callRegisterTarget o => Sys2Proof.Machine.execCallRegisterTarget o s
  | .ret o => Sys2Proof.Machine.execRet o s
  | .halt o => Sys2Proof.Machine.execHalt o s
  | .yield o => Sys2Proof.Machine.execYield o s
  | .rep o => Sys2Proof.Machine.execRep o s
  | .imm value => Sys2Proof.Machine.execImm value s
  | .nop => Sys2Proof.Machine.execNop s
  | .trap o => Sys2Proof.Machine.execTrap o s
  | .eretResume o => Sys2Proof.Machine.execEretResume o s
  | .eretPoison o => Sys2Proof.Machine.execEretPoison o s
  | .eretEsc o => Sys2Proof.Machine.execEretEsc o s
  | .brk o => Sys2Proof.Machine.execBrk o s
  | .evLoop o => Sys2Proof.Machine.execEvLoop o s
  | .evWait o => Sys2Proof.Machine.execEvWait o s
  | .evPulse o => Sys2Proof.Machine.execEvPulse o s
  | .evRd o => Sys2Proof.Machine.execEvRd o s
  | .evArm o => Sys2Proof.Machine.execEvArm o s
  | .ldb o => Sys2Proof.Machine.execLdb o s
  | .ldh o => Sys2Proof.Machine.execLdh o s
  | .ldw o => Sys2Proof.Machine.execLdw o s
  | .ldd o => Sys2Proof.Machine.execLdd o s
  | .stb o => Sys2Proof.Machine.execStb o s
  | .sth o => Sys2Proof.Machine.execSth o s
  | .stw o => Sys2Proof.Machine.execStw o s
  | .std o => Sys2Proof.Machine.execStd o s
  | .lda o => Sys2Proof.Machine.execLda o s
  | .stl o => Sys2Proof.Machine.execStl o s
  | .fence o => Sys2Proof.Machine.execFence o s
  | .fenceAcq o => Sys2Proof.Machine.execFenceAcq o s
  | .fenceRls o => Sys2Proof.Machine.execFenceRls o s
  | .ldm o => Sys2Proof.Machine.execLdm o s
  | .stm o => Sys2Proof.Machine.execStm o s
  | .prf o => Sys2Proof.Machine.execPrf o s
  | .vadd o => Sys2Proof.Machine.execVadd o s
  | .vsub o => Sys2Proof.Machine.execVsub o s
  | .vmul o => Sys2Proof.Machine.execVmul o s
  | .vfma o => Sys2Proof.Machine.execVfma o s
  | .vfms o => Sys2Proof.Machine.execVfms o s
  | .vmin o => Sys2Proof.Machine.execVmin o s
  | .vmax o => Sys2Proof.Machine.execVmax o s
  | .vabs o => Sys2Proof.Machine.execVabs o s
  | .vneg o => Sys2Proof.Machine.execVneg o s
  | .vand o => Sys2Proof.Machine.execVand o s
  | .vor o => Sys2Proof.Machine.execVor o s
  | .vxor o => Sys2Proof.Machine.execVxor o s
  | .vshl o => Sys2Proof.Machine.execVshl o s
  | .vshr o => Sys2Proof.Machine.execVshr o s
  | .vsar o => Sys2Proof.Machine.execVsar o s
  | .vcmp o => Sys2Proof.Machine.execVcmp o s
  | .vsel o => Sys2Proof.Machine.execVsel o s
  | .vdot o => Sys2Proof.Machine.execVdot o s
  | .vsum o => Sys2Proof.Machine.execVsum o s
  | .vrmin o => Sys2Proof.Machine.execVrmin o s
  | .vrmax o => Sys2Proof.Machine.execVrmax o s
  | .vbcast o => Sys2Proof.Machine.execVbcast o s
  | .vperm o => Sys2Proof.Machine.execVperm o s
  | .vrot o => Sys2Proof.Machine.execVrot o s
  | .vcompress o => Sys2Proof.Machine.execVcompress o s
  | .vexpand o => Sys2Proof.Machine.execVexpand o s
  | .vmov o => Sys2Proof.Machine.execVmov o s
  | .vclamp o => Sys2Proof.Machine.execVclamp o s
  | .vmulh o => Sys2Proof.Machine.execVmulh o s
  | .vsadd o => Sys2Proof.Machine.execVsadd o s
  | .vssub o => Sys2Proof.Machine.execVssub o s
  | .vavg o => Sys2Proof.Machine.execVavg o s
  | .vcvt o => Sys2Proof.Machine.execVcvt o s
  | .vpack o => Sys2Proof.Machine.execVpack o s
  | .vunpk o => Sys2Proof.Machine.execVunpk o s
  | .vrnd o => Sys2Proof.Machine.execVrnd o s
  | .vexp o => Sys2Proof.Machine.execVexp o s
  | .vexp2 o => Sys2Proof.Machine.execVexp2 o s
  | .vlog2 o => Sys2Proof.Machine.execVlog2 o s
  | .vrcp o => Sys2Proof.Machine.execVrcp o s
  | .vrsq o => Sys2Proof.Machine.execVrsq o s
  | .vsqrt o => Sys2Proof.Machine.execVsqrt o s
  | .vtanh o => Sys2Proof.Machine.execVtanh o s
  | .vscl o => Sys2Proof.Machine.execVscl o s
  | .vqnt o => Sys2Proof.Machine.execVqnt o s
  | .vdqnt o => Sys2Proof.Machine.execVdqnt o s
  | .vfclass o => Sys2Proof.Machine.execVfclass o s
  | .vld o => Sys2Proof.Machine.execVld o s
  | .vst o => Sys2Proof.Machine.execVst o s
  | .vldb o => Sys2Proof.Machine.execVldb o s
  | .vstb o => Sys2Proof.Machine.execVstb o s
  | .vgat o => Sys2Proof.Machine.execVgat o s
  | .vsca o => Sys2Proof.Machine.execVsca o s
  | .vconf o => Sys2Proof.Machine.execVconf o s
  | .visect o => Sys2Proof.Machine.execVisect o s
  | .viota o => Sys2Proof.Machine.execViota o s
  | .vmask o => Sys2Proof.Machine.execVmask o s
  | .mxMma o => Sys2Proof.Machine.execMxMma o s
  | .mxMmaToken o => Sys2Proof.Machine.execMxMmaToken o s
  | .mxImma o => Sys2Proof.Machine.execMxImma o s
  | .mxImmaToken o => Sys2Proof.Machine.execMxImmaToken o s
  | .mxZero o => Sys2Proof.Machine.execMxZero o s
  | .mxZeroToken o => Sys2Proof.Machine.execMxZeroToken o s
  | .mxDrain o => Sys2Proof.Machine.execMxDrain o s
  | .mxDrainToken o => Sys2Proof.Machine.execMxDrainToken o s
  | .mxFill o => Sys2Proof.Machine.execMxFill o s
  | .mxFillToken o => Sys2Proof.Machine.execMxFillToken o s
  | .mxRev o => Sys2Proof.Machine.execMxRev o s
  | .mxRevToken o => Sys2Proof.Machine.execMxRevToken o s
  | .mxChk o => Sys2Proof.Machine.execMxChk o s
  | .mxChkToken o => Sys2Proof.Machine.execMxChkToken o s
  | .mxDeg o => Sys2Proof.Machine.execMxDeg o s
  | .rgPush o => Sys2Proof.Machine.execRgPush o s
  | .rgInfo o => Sys2Proof.Machine.execRgInfo o s
  | .rgReset o => Sys2Proof.Machine.execRgReset o s
  | .vrnsFwd o => Sys2Proof.Machine.execVrnsFwd o s
  | .vrnsRev o => Sys2Proof.Machine.execVrnsRev o s
  | .vrnsChk o => Sys2Proof.Machine.execVrnsChk o s
  | .mxWait o => Sys2Proof.Machine.execMxWait o s
  | .mxTag o => Sys2Proof.Machine.execMxTag o s
  | .qmark o => Sys2Proof.Machine.execQmark o s
  | .qpoison o => Sys2Proof.Machine.execQpoison o s
  | .qlast o => Sys2Proof.Machine.execQlast o s
  | .qpeek o => Sys2Proof.Machine.execQpeek o s
  | .qcnt o => Sys2Proof.Machine.execQcnt o s
  | .qdrop o => Sys2Proof.Machine.execQdrop o s
  | .qwaitr o => Sys2Proof.Machine.execQwaitr o s
  | .rateSet o => Sys2Proof.Machine.execRateSet o s
  | .rateRd o => Sys2Proof.Machine.execRateRd o s
  | .rateW o => Sys2Proof.Machine.execRateW o s
  | .qfmt o => Sys2Proof.Machine.execQfmt o s
  | .msg o => Sys2Proof.Machine.execMsg o s
  | .atom o => Sys2Proof.Machine.execAtom o s
  | .cas o => Sys2Proof.Machine.execCas o s
  | .cas2 o => Sys2Proof.Machine.execCas2 o s
  | .red o => Sys2Proof.Machine.execRed o s
  | .ceRed o => Sys2Proof.Machine.execCeRed o s
  | .ceProg o => Sys2Proof.Machine.execCeProg o s
  | .barInit o => Sys2Proof.Machine.execBarInit o s
  | .barArrive o => Sys2Proof.Machine.execBarArrive o s
  | .barDrop o => Sys2Proof.Machine.execBarDrop o s
  | .barWait o => Sys2Proof.Machine.execBarWait o s
  | .cstep o => Sys2Proof.Machine.execCstep o s
  | .cstepTo o => Sys2Proof.Machine.execCstepTo o s
  | .cstate o => Sys2Proof.Machine.execCstate o s
  | .hbState o => Sys2Proof.Machine.execHbState o s
  | .hbWait o => Sys2Proof.Machine.execHbWait o s
  | .hbSet o => Sys2Proof.Machine.execHbSet o s
  | .hbPub o => Sys2Proof.Machine.execHbPub o s
  | .hbAlloc o => Sys2Proof.Machine.execHbAlloc o s
  | .hbFree o => Sys2Proof.Machine.execHbFree o s
  | .shRd o => Sys2Proof.Machine.execShRd o s
  | .shChk o => Sys2Proof.Machine.execShChk o s
  | .spNew o => Sys2Proof.Machine.execSpNew o s
  | .spFree o => Sys2Proof.Machine.execSpFree o s
  | .lift o => Sys2Proof.Machine.execLift o s
  | .lower o => Sys2Proof.Machine.execLower o s
  | .recall o => Sys2Proof.Machine.execRecall o s
  | .probe o => Sys2Proof.Machine.execProbe o s
  | .drop o => Sys2Proof.Machine.execDrop o s
  | .spPin o => Sys2Proof.Machine.execSpPin o s
  | .spUnpin o => Sys2Proof.Machine.execSpUnpin o s
  | .kvApp o => Sys2Proof.Machine.execKvApp o s
  | .pgRef o => Sys2Proof.Machine.execPgRef o s
  | .pgUnref o => Sys2Proof.Machine.execPgUnref o s
  | .glLaunch o => Sys2Proof.Machine.execGlLaunch o s
  | .cntAdd o => Sys2Proof.Machine.execCntAdd o s
  | .cntRd o => Sys2Proof.Machine.execCntRd o s
  | .cntWait o => Sys2Proof.Machine.execCntWait o s
  | .cancel o => Sys2Proof.Machine.execCancel o s
  | .donePhase o => Sys2Proof.Machine.execDonePhase o s
  | .doneJob o => Sys2Proof.Machine.execDoneJob o s
  | .sprRd o => Sys2Proof.Machine.execSprRd o s
  | .sprWr o => Sys2Proof.Machine.execSprWr o s
  | .fwcallId o => Sys2Proof.Machine.execFwcallId o s
  | .fwcallTick o => Sys2Proof.Machine.execFwcallTick o s
  | .fwcallBell o => Sys2Proof.Machine.execFwcallBell o s
  | .fwcallHealth o => Sys2Proof.Machine.execFwcallHealth o s
  | .frz o => Sys2Proof.Machine.execFrz o s
  | .thaw o => Sys2Proof.Machine.execThaw o s
  | .rnsInj o => Sys2Proof.Machine.execRnsInj o s
  | .issueCycle => Sys2Proof.Machine.execIssueCycle s
  | .blockCommit => Sys2Proof.Machine.execBlockCommit s
  | .blockFetchComplete => Sys2Proof.Machine.execBlockFetchComplete s
  | .detachedResult => Sys2Proof.Machine.execDetachedResult s
  | .detachedFailure => Sys2Proof.Machine.execDetachedFailure s
  | .handlerRunStart => Sys2Proof.Machine.execHandlerRunStart s
  | .rateStep => Sys2Proof.Machine.execRateStep s
  | .rateFlitArrival => Sys2Proof.Machine.execRateFlitArrival s
  | .statusFlitArrival => Sys2Proof.Machine.execStatusFlitArrival s
  | .tokenHop => Sys2Proof.Machine.execTokenHop s
  | .creditFlitArrival => Sys2Proof.Machine.execCreditFlitArrival s
  | .boundaryGrant => Sys2Proof.Machine.execBoundaryGrant s
  | .passFiring => Sys2Proof.Machine.execPassFiring s
  | .forkFiring => Sys2Proof.Machine.execForkFiring s
  | .steerFiring => Sys2Proof.Machine.execSteerFiring s
  | .mergeFiring => Sys2Proof.Machine.execMergeFiring s
  | .carryFiring => Sys2Proof.Machine.execCarryFiring s
  | .invariantFiring => Sys2Proof.Machine.execInvariantFiring s
  | .dropFiring => Sys2Proof.Machine.execDropFiring s
  | .markerFiring => Sys2Proof.Machine.execMarkerFiring s
  | .poisonControlFiring => Sys2Proof.Machine.execPoisonControlFiring s
  | .mxTokenStart => Sys2Proof.Machine.execMxTokenStart s
  | .mxTokenRetire => Sys2Proof.Machine.execMxTokenRetire s
  | .evTick => Sys2Proof.Machine.execEvTick s
  | .sSourcePulse => Sys2Proof.Machine.execSSourcePulse s
  | .targetFiring => Sys2Proof.Machine.execTargetFiring s
  | .streamRunBegin => Sys2Proof.Machine.execStreamRunBegin s
  | .streamRequest => Sys2Proof.Machine.execStreamRequest s
  | .streamRunEnd => Sys2Proof.Machine.execStreamRunEnd s
  | .streamRunFail => Sys2Proof.Machine.execStreamRunFail s
  | .translationRefill => Sys2Proof.Machine.execTranslationRefill s
  | .handleRequestService => Sys2Proof.Machine.execHandleRequestService s
  | .hbWaitAnswer => Sys2Proof.Machine.execHbWaitAnswer s
  | .storePerform => Sys2Proof.Machine.execStorePerform s
  | .atomicExecute => Sys2Proof.Machine.execAtomicExecute s
  | .mailboxAppend => Sys2Proof.Machine.execMailboxAppend s
  | .ceRedRun => Sys2Proof.Machine.execCeRedRun s
  | .ceProgStart => Sys2Proof.Machine.execCeProgStart s
  | .ceProgRowStep => Sys2Proof.Machine.execCeProgRowStep s
  | .ceWindowExpiry => Sys2Proof.Machine.execCeWindowExpiry s
  | .barrierOp => Sys2Proof.Machine.execBarrierOp s
  | .barWaitAnswer => Sys2Proof.Machine.execBarWaitAnswer s
  | .counterRequest => Sys2Proof.Machine.execCounterRequest s
  | .cntWaitAnswer => Sys2Proof.Machine.execCntWaitAnswer s
  | .ladderRequestService => Sys2Proof.Machine.execLadderRequestService s
  | .parkedRetry => Sys2Proof.Machine.execParkedRetry s
  | .transformEnd => Sys2Proof.Machine.execTransformEnd s
  | .dyingPageFree => Sys2Proof.Machine.execDyingPageFree s
  | .launchArrival => Sys2Proof.Machine.execLaunchArrival s
  | .launchStart => Sys2Proof.Machine.execLaunchStart s
  | .launchCompletion => Sys2Proof.Machine.execLaunchCompletion s
  | .regionPlacement => Sys2Proof.Machine.execRegionPlacement s
  | .quantumExpiry => Sys2Proof.Machine.execQuantumExpiry s
  | .faultRecordDelivery => Sys2Proof.Machine.execFaultRecordDelivery s
  | .roundCommit => Sys2Proof.Machine.execRoundCommit s
  | .thirdPlacementVote => Sys2Proof.Machine.execThirdPlacementVote s
  | .rollback => Sys2Proof.Machine.execRollback s
  | .hang => Sys2Proof.Machine.execHang s
  | .freezeWave => Sys2Proof.Machine.execFreezeWave s
  | .retentionEntry => Sys2Proof.Machine.execRetentionEntry s
  | .retentionExit => Sys2Proof.Machine.execRetentionExit s
  | .bankDropMigration => Sys2Proof.Machine.execBankDropMigration s
  | .linkRetrainFailure => Sys2Proof.Machine.execLinkRetrainFailure s
  | .alarm => Sys2Proof.Machine.execAlarm s
  | .clockSync => Sys2Proof.Machine.execClockSync s
  | .moduleClockTick => Sys2Proof.Machine.execModuleClockTick s
  | .thermalClockStep => Sys2Proof.Machine.execThermalClockStep s
  | .powerOn => Sys2Proof.Machine.execPowerOn s
  | .hostMemoryWrite => Sys2Proof.Machine.execHostMemoryWrite s
  | .hostMemoryRead => Sys2Proof.Machine.execHostMemoryRead s
  | .peerRequest => Sys2Proof.Machine.execPeerRequest s
  | .bell => Sys2Proof.Machine.execBell s
  | .hbell => Sys2Proof.Machine.execHbell s
  | .hostRegisterWrite => Sys2Proof.Machine.execHostRegisterWrite s
  | .arm => Sys2Proof.Machine.execArm s
  | .armRelease => Sys2Proof.Machine.execArmRelease s
  | .launch => Sys2Proof.Machine.execLaunch s
  | .launchDual => Sys2Proof.Machine.execLaunchDual s
  | .cancelCommand => Sys2Proof.Machine.execCancelCommand s
  | .queryCounter => Sys2Proof.Machine.execQueryCounter s
  | .queryGraphQueue => Sys2Proof.Machine.execQueryGraphQueue s
  | .queryPhaseQueue => Sys2Proof.Machine.execQueryPhaseQueue s
  | .queryRgnStat => Sys2Proof.Machine.execQueryRgnStat s
  | .queryHealth => Sys2Proof.Machine.execQueryHealth s
  | .map => Sys2Proof.Machine.execMap s
  | .bindClass => Sys2Proof.Machine.execBindClass s
  | .bindTransform => Sys2Proof.Machine.execBindTransform s
  | .gang => Sys2Proof.Machine.execGang s
  | .attest => Sys2Proof.Machine.execAttest s
  | .reset => Sys2Proof.Machine.execReset s
  | .policyModuleId => Sys2Proof.Machine.execPolicyModuleId s
  | .policyPool => Sys2Proof.Machine.execPolicyPool s
  | .policySpanDirectory => Sys2Proof.Machine.execPolicySpanDirectory s
  | .policyCeWin => Sys2Proof.Machine.execPolicyCeWin s
  | .policyTestMode => Sys2Proof.Machine.execPolicyTestMode s
  | .policyClearMode => Sys2Proof.Machine.execPolicyClearMode s
  | .policyBudget => Sys2Proof.Machine.execPolicyBudget s
  | .policyAlarm => Sys2Proof.Machine.execPolicyAlarm s
  | .policyTimeRoot => Sys2Proof.Machine.execPolicyTimeRoot s
  | .fwcallService => Sys2Proof.Machine.execFwcallService s
  | .jondovyLinkTraining => Sys2Proof.Machine.execJondovyLinkTraining s
  | .peerLinkGrant => Sys2Proof.Machine.execPeerLinkGrant s

end Sys2Proof.Machine
end

