-- ==== Sys2Proof/Machine/Schedule.lean ====
section
/-!
DEFINITION. The command at the head of the queue, and the default schedule: what happens next when the agenda names nothing
(assumption 2, DESIGN CHOICE, unsafe).
-/
namespace Sys2Proof.Machine

/-- The step of a command: firmware fetches the entry at the head of the queue and serves it. -/
def stepCommand (s : State) : Host.Outcome State Fault Refusal :=
  if !s.cmdReady then .next s
  else
    match s.fetchCommand with
    | .ok i => exec i { s with my := { s.my with arg := { Arg.zero with cmd := cmdOfNat s.cmdEntry } } }
    | .error e => .next (s.rejectCommand e)

/-! ### The steps that may be due -/

/-- A step at a unit. -/
def at1 (i : Instr) (n m : Nat) : Instr × Arg := (i, { Arg.zero with n := n, m := m })

/-- The steps of requests under way. -/
def State.reqSteps (s : State) : List (Instr × Arg) :=
  s.hub.reqs.flatMap (fun q => [Instr.handleRequestService, .hbWaitAnswer, .atomicExecute, .mailboxAppend, .ceRedRun, .ceProgStart, .barrierOp,
    .barWaitAnswer, .counterRequest, .cntWaitAnswer, .ladderRequestService, .parkedRetry, .launchArrival, .fwcallService, .detachedResult,
    .detachedFailure].map (fun i => at1 i q.id 0)) ++
    s.bus.flatMap (fun b => b.2.strms.toList.flatMap (fun t => match t.run with
      | some r => r.waitH.map (fun w => at1 .handleRequestService w.1 0)
      | none => []))

/-- The steps of the hub and of the memories. -/
def State.hubSteps (s : State) : List (Instr × Arg) :=
  s.ms.pending.map (fun w => at1 .storePerform w.w.id 0) ++
    s.hub.progs.flatMap (fun p => p.parts.flatMap (fun x => [at1 .ceWindowExpiry p.req x.engine, at1 .ceProgRowStep p.req x.engine])) ++
    s.hub.builds.map (fun b => at1 .transformEnd b.id 0) ++
    (s.hub.pages.filter (fun e => e.2.dying)).map (fun e => at1 .dyingPageFree e.1 0) ++
    s.hub.recs.map (fun r => at1 .faultRecordDelivery r.id 0) ++
    s.hub.launches.map (fun e => at1 .launchCompletion e.1 0) ++
    s.hub.regions.flatMap (fun e => [Instr.roundCommit, .thirdPlacementVote, .rollback, .launchStart, .hang, .quantumExpiry].map (fun i => at1 i e.1 0)) ++
    ((s.hub.regions.map (fun e => e.2.pool)).foldl (fun l p => joinNats l [p]) []).map (fun p => at1 .regionPlacement p 0)

/-- The steps of the network. -/
def State.netSteps (s : State) : List (Instr × Arg) :=
  s.net.flits.map (fun f => at1 .tokenHop f.id 0) ++
    s.net.ctl.flatMap (fun f => [at1 .creditFlitArrival f.id 0, at1 .rateFlitArrival f.id 0, at1 .statusFlitArrival f.id 0]) ++
    (if s.net.grants.isEmpty then [] else [false, true].flatMap (fun east => [false, true].flatMap (fun rate => (List.range 3).flatMap (fun e =>
      (List.range 64).map (fun row => (Instr.boundaryGrant, { Arg.zero with n := e, m := row, flag := east, flag2 := rate }))))))

/-- The steps of a bank unit, beside its issue cycle. -/
def State.buSteps (s : State) (n : Nat) : List (Instr × Arg) :=
  let b := s.bu n
  [4, 0, 1, 2, 3].flatMap (fun k => [at1 .blockFetchComplete n k, at1 .blockCommit n k]) ++
    [at1 .freezeWave n 0, at1 .handlerRunStart n 0] ++
    (List.range b.node.started.length).map (at1 .mxTokenRetire n) ++ (List.range b.node.inbox.length).map (at1 .mxTokenStart n) ++
    [at1 .evTick n 0, at1 .targetFiring n 0, at1 .sSourcePulse n 0] ++
    ((s.routes n).filterMap (fun e => match e.2 with | .oper .. => some e.1 | _ => none)).flatMap (fun e =>
      [Instr.passFiring, .forkFiring, .steerFiring, .mergeFiring, .carryFiring, .invariantFiring, .dropFiring, .markerFiring,
        .poisonControlFiring].map (fun i => at1 i n e)) ++
    (List.range 16).flatMap (fun k => if (b.strms[Fin.ofNat 16 k]).run.isNone && (b.strms[Fin.ofNat 16 k]).pend = 0 &&
        (b.strms[Fin.ofNat 16 k]).redo.isEmpty then []
      else [Instr.streamRunFail, .streamRunEnd, .translationRefill, .streamRequest, .streamRunBegin].map (fun i => at1 i n k)) ++
    (s.activeCtls n).map (at1 .rateStep n)

/-- The steps that the state offers, in the order in which the schedule tries them. -/
def State.offers (s : State) : List (Instr × Arg) :=
  s.reqSteps ++ s.hubSteps ++ s.netSteps ++ s.bus.flatMap (fun b => s.buSteps b.1)

/-- A step does something: it is due. -/
def State.due (s : State) (x : Instr × Arg) : Bool :=
  let t : State := { s with my := { s.my with arg := x.2 } }
  match exec x.1 t with
  | .next u => decide (u ≠ t)
  | _ => false

/-- Serving the command at the head of the queue does something. -/
def State.commandDue (s : State) : Bool :=
  s.cmdReady && (match stepCommand s with
    | .next u => decide (u ≠ { s with my := { s.my with arg := { Arg.zero with cmd := cmdOfNat s.cmdEntry } } })
    | _ => false)

/-- The next turn by the default schedule, and the bank unit whose issue cycle comes next: every step that is due, then an issue cycle of
each placed bank unit in turn, then a command, and then a tick of the module clock. -/
def autoNext (s : State) : Turn × Nat :=
  match s.offers.find? s.due with
  | some (i, a) => (.event i a, s.my.nextBu)
  | none =>
    match s.bus.find? (fun b => s.my.nextBu ≤ b.1 && b.2.region.isSome && b.1 < Config.bankUnits) with
    | some (n, _) => (.event .issueCycle { Arg.zero with n := n }, n + 1)
    | none => if s.commandDue then (.command, 0) else (.event .moduleClockTick Arg.zero, 0)

end Sys2Proof.Machine
end

