-- ==== Sys2Proof/Machine/Step.lean ====
section
/-!
DEFINITION. One step of the module: the operation that issues next, or the next turn of the agenda or of the default schedule.
-/
namespace Sys2Proof.Machine

/-- The step of an issued operation: its word is fetched from its block, decoded and executed. A context whose block is gone
issues nothing, nor does one that an operation issued with it has stopped. -/
def stepCursor (s : State) (c : Cursor) (rest : List Cursor) : Host.Outcome State Fault Refusal :=
  if Config.bankUnits ≤ c.bu then .fault .noSuchUnit
  else if (s.ctx c.bu c.slot).st != .active then .next { s with my := { s.my with issueQ := rest } }
  else
    match s.wordAt c with
    | none => .next { s with my := { s.my with issueQ := rest } }
    | some w =>
      match decodeWord w with
      | .ok i => exec i (s.atCursor c rest)
      | .error _ => .refused (.notAnInstruction w.toNat)

/-- The step of a turn. -/
def stepTurn (s : State) (t : Turn) : Host.Outcome State Fault Refusal :=
  match t with
  | .event i a => exec i { s with my := { s.my with arg := a } }
  | .command => stepCommand s

/-- One step of the machine. -/
def step (s : State) : Host.Outcome State Fault Refusal :=
  match s.my.issueQ with
  | c :: rest => stepCursor s c rest
  | [] =>
    match s.my.agenda with
    | t :: rest => stepTurn { s with my := { s.my with agenda := rest } } t
    | [] => stepTurn { s with my := { s.my with nextBu := (autoNext s).2 } } (autoNext s).1

/-- The state with an instruction stored where the step fetches its next one: an operation word of 64 bits in a block of bank
unit 0, or a command entry at the head of the host's queue. (assumption 23, DESIGN CHOICE, safe) -/
def State.withFetchWord (s : State) (nbits w : Nat) : State :=
  if nbits ≤ 64 then s.placeWord (BitVec.ofNat 64 w) else s.placeCommand (w % 2 ^ 512)

end Sys2Proof.Machine
end

