-- ==== Sys2Proof/Rules.lean ====
section
/-!
DEFINITION. The rules of the spec as tables, for the statements: when an operation executes, and what its rule says it computes.
-/
namespace Sys2Proof.Rules
open Sys2Proof.Machine

/-- What an operation sees where it executes. -/
abbrev seen (s : State) (r : Row) (o : Op) : View := mkView s r o

/-- The predicate and the sources of an operation can be read, and nothing that every operation waits for holds it back (R58, R61,
R67, R155): x holds the selected bits and the values. -/
structure Reads (r : Row) (o : Op) (s : State) (x : Srcs) : Prop where
  ready : commonReady (seen s r o) = true
  sources : ∃ bits, readPred (seen s r o).c (seen s r o).o.pred = .ok bits ∧
    readSrcs (seen s r o) (selBits bits (seen s r o).o.psense) = .ok x

/-- A scalar operation executes: it can be read, and bit 0 of its predicate selects it (R27). -/
structure Fires (r : Row) (o : Op) (s : State) (x : Srcs) : Prop extends Reads r o s x where
  selected : x.sel % 2 = 1

/-- None of the flags that an operation raises traps (R88). -/
def Quiet (r : Row) (o : Op) (s : State) (flags : Nat) : Prop := flagTrap (seen s r o).c.regs.fmask flags = none

/-- A value with flags. -/
def valueRes (val flags : Nat) : Res := { Res.ofVal val with flags := flags }

/-! ### Scalar rules -/

/-- The result and the flags of the operations of R78, but for division: w the width, A and B the unsigned readings. -/
def scalar (r : Row) (w A B : Nat) : Option (Int × Nat) :=
  let sA := signedOf w A
  let sB := signedOf w B
  let k := B % w
  let n := if B % 64 = 0 then 64 else B % 64
  match r with
  | .add => some ((A : Int) + B, 0)
  | .sub => some ((A : Int) - B, 0)
  | .mul => some ((A : Int) * B, 0)
  | .mulh => some (sA * sB / ((2 ^ w : Nat) : Int), 0)
  | .mulhu => some (((A * B / 2 ^ w : Nat) : Int), 0)
  | .and => some (((A &&& B : Nat) : Int), 0)
  | .or => some (((A ||| B : Nat) : Int), 0)
  | .xor => some (((A ^^^ B : Nat) : Int), 0)
  | .andn => some (((A &&& (2 ^ w - 1 - B) : Nat) : Int), 0)
  | .shl => some (((A * 2 ^ k : Nat) : Int), 0)
  | .shr => some (((A / 2 ^ k : Nat) : Int), 0)
  | .sar => some (sA / ((2 ^ k : Nat) : Int), 0)
  | .rol => some (((A * 2 ^ k + A / 2 ^ (w - k) : Nat) : Int), 0)
  | .min => some (min sA sB, 0)
  | .max => some (max sA sB, 0)
  | .minu => some (((min A B : Nat) : Int), 0)
  | .maxu => some (((max A B : Nat) : Int), 0)
  | .clz => some (((w - bitLength A : Nat) : Int), 0)
  | .ctz => some (((trailingZeros w A : Nat) : Int), 0)
  | .popc => some (((popCount w A : Nat) : Int), 0)
  | .sext => some (signedOf n A, 0)
  | .zext => some (((A % 2 ^ n : Nat) : Int), 0)
  | .mov => some ((A : Int), 0)
  | _ => none

/-- Quotient and remainder of R79, for a signed division or not, with the flags. -/
def quotient (signed : Bool) (w A B : Nat) : Int × Int × Nat :=
  let sA := signedOf w A
  let sB := signedOf w B
  if B = 0 then (((2 ^ w - 1 : Nat) : Int), (A : Int), fDz)
  else if signed ∧ sA = -((2 ^ (w - 1) : Nat) : Int) ∧ sB = -1 then (sA, 0, 0)
  else if signed then (Int.tdiv sA sB, sA - sB * Int.tdiv sA sB, 0)
  else (((A / B : Nat) : Int), (A : Int) - (B : Int) * ((A / B : Nat) : Int), 0)

/-- The result and the flags of a division (R79). -/
def division (r : Row) (w A B : Nat) : Option (Int × Nat) :=
  match r with
  | .div => some ((quotient true w A B).1, (quotient true w A B).2.2)
  | .divu => some ((quotient false w A B).1, (quotient false w A B).2.2)
  | .rem => some ((quotient true w A B).2.1, (quotient true w A B).2.2)
  | .remu => some ((quotient false w A B).2.1, (quotient false w A B).2.2)
  | _ => none

/-- The condition of a compare (R82). -/
def compare (r : Row) (w A B : Nat) : Option Bool :=
  match r with
  | .ceq => some (A == B)
  | .cne => some (A != B)
  | .clt => some (decide (signedOf w A < signedOf w B))
  | .cle => some (decide (signedOf w A ≤ signedOf w B))
  | .cltu => some (decide (A < B))
  | .cleu => some (decide (A ≤ B))
  | .ctst => some ((A &&& B) != 0)
  | _ => none

/-- The 64-bit result of a predicate operation (R83). -/
def predicate (r : Row) (a b : Nat) : Option Nat :=
  match r with
  | .pand => some (a &&& b)
  | .por => some (a ||| b)
  | .pxor => some (a ^^^ b)
  | .pnot => some (2 ^ 64 - 1 - a)
  | .pmov => some a
  | _ => none

/-- The condition of a predicate operation (R83). -/
def predicateCond (r : Row) (a b : Nat) : Option Bool :=
  match r with
  | .pany => some ((a &&& b) != 0)
  | .pall => some ((a &&& b) == b)
  | _ => none

/-- Bytes of a scalar load (R192, R193). -/
def loadSize (r : Row) : Option Nat :=
  match r with
  | .ldb => some 1 | .ldh => some 2 | .ldw => some 4 | .ldd => some 8
  | _ => none

/-- Bytes of a scalar store (R192, R193). -/
def storeSize (r : Row) : Option Nat :=
  match r with
  | .stb => some 1 | .sth => some 2 | .stw => some 4 | .std => some 8
  | _ => none

/-! ### Vector rules -/

/-- The lanes of the element-wise operations (R165 to R171, R174 to R177, R203): for each lane of the destination type, what it
gives. -/
def lanes (r : Row) (v : View) (x : Srcs) : Option (Nat → Word → LaneRes) :=
  let t := v.o.ty
  let w := t.bits
  let b := spread v.o.b w t.lanes x.b
  let c := spread v.o.c w t.lanes x.c
  let A (k : Nat) : Nat := laneOf w x.a k
  let B (k : Nat) : Nat := laneOf w b k
  let C (k : Nat) : Nat := laneOf w c k
  let N (n : Nat) : Int := if t.isSigned then signedOf w n else (n : Int)
  let V (n : Nat) : Val := valueOf t n
  let int (f : Nat → Int) (fl : Nat → Exact) (k : Nat) (g : Word) : LaneRes :=
    if t.isInt then ⟨wrapNat w (f k), 0, g, false⟩ else roundLane v t (fl k) g
  let bits (f : Nat → Nat) (k : Nat) (g : Word) : LaneRes := ⟨f k, 0, g, false⟩
  let clip (f : Nat → Int) (k : Nat) (g : Word) : LaneRes :=
    ⟨wrapNat w (satInt (f k) t.range.1 t.range.2), if t.range.1 ≤ f k ∧ f k ≤ t.range.2 then 0 else fOf, g, false⟩
  let count (k : Nat) : Nat := (if v.o.modBit 9 then v.o.modBits 0 6 else B k) % w
  let src := Ty.ofCode (v.o.modBits 0 4)
  match r with
  | .vadd => some (if t = .rns then bits (fun k => rnsLaneOp (fun p q => p + q) (A k) (B k))
      else int (fun k => N (A k) + N (B k)) (fun k => addVal (V (A k)) (V (B k)) v.rdn))
  | .vsub => some (if t = .rns then bits (fun k => rnsLaneOp (fun p q => p - q) (A k) (B k))
      else int (fun k => N (A k) - N (B k)) (fun k => addVal (V (A k)) (V (B k)).neg v.rdn))
  | .vmul => some (if t = .rns then bits (fun k => rnsLaneOp (fun p q => p * q) (A k) (B k))
      else int (fun k => N (A k) * N (B k)) (fun k => mulVal (V (A k)) (V (B k))))
  | .vfma => some (int (fun k => N (A k) * N (B k) + N (C k)) (fun k => dotVals [(V (A k), V (B k))] [V (C k)] v.rdn))
  | .vfms => some (int (fun k => N (A k) * N (B k) - N (C k)) (fun k => dotVals [(V (A k), V (B k))] [(V (C k)).neg] v.rdn))
  | .vavg => some (int (fun k => (N (A k) + N (B k) + 1) / 2) (fun k => avgVal v.rdn (V (A k)) (V (B k))))
  | .vmin => some (bits (fun k => laneMin t (A k) (B k)))
  | .vmax => some (bits (fun k => laneMax t (A k) (B k)))
  | .vabs => some (bits (fun k => laneAbs t (A k)))
  | .vneg => some (bits (fun k => laneNeg t (A k)))
  | .vand => some (bits (fun k => A k &&& B k))
  | .vor => some (bits (fun k => A k ||| B k))
  | .vxor => some (bits (fun k => A k ^^^ B k))
  | .vmov => some (bits A)
  | .vclamp => some (bits (fun k => laneMin t (laneMax t (A k) (B k)) (C k)))
  | .vmulh => some (bits (fun k => wrapNat w (N (A k) * N (B k) / ((2 ^ w : Nat) : Int))))
  | .vsadd => some (clip (fun k => N (A k) + N (B k)))
  | .vssub => some (clip (fun k => N (A k) - N (B k)))
  | .vshl => some (bits (fun k => wrapNat w ((A k * 2 ^ count k : Nat) : Int)))
  | .vshr => some (bits (fun k => wrapNat w ((A k / 2 ^ count k : Nat) : Int)))
  | .vsar => some (bits (fun k => wrapNat w (signedOf w (A k) / ((2 ^ count k : Nat) : Int))))
  | .vsel => some (bits (fun k => if bitOf x.c (predBit t k) then A k else B k))
  | .vbcast => some (bits (fun _ => if v.o.modBit 9 then A (v.o.modBits 0 7) else x.a % 2 ^ w))
  | .vperm => some (bits (fun k => if laneOf w x.b k < t.lanes then A (laneOf w x.b k) else 0))
  | .vrot => some (bits (fun k => A ((k + if v.o.modBit 9 then v.o.modBits 0 7 else x.b % 2 ^ 64 % t.lanes) % t.lanes)))
  | .viota => some (bits (fun k => (x.b + ((List.range k).filter (fun j => bitOf x.a j)).length) % 2 ^ w))
  | .vpack => some (fun k g => roundLane v t
      ⟨if k < src.lanes then laneVal src x.a k else laneVal src x.b (k - src.lanes), 0⟩ g)
  | .vunpk => some (bits (fun k => exactLane src t (laneOf src.bits x.a ((if v.o.modBit 4 then t.lanes else 0) + k))))
  | .vrnd => some (fun k g => rndLane v t (A k) g)
  | .vscl => some (fun k g => roundLane v t ⟨sclVal (V (A k)) (signedOf w (B k)), 0⟩ g)
  | .vfclass => some (bits (fun k => classOf t (A k)))
  | _ => none

/-- The condition of a compare of lanes (R170): a NaN makes every condition false but `ne` and `un`. -/
def laneCompare (t : Ty) (cond a b : Nat) : Bool :=
  let x := valueOf t a
  let y := valueOf t b
  let un : Bool := !t.isInt && (x == .nan || y == .nan)
  let eq : Bool := !un && leVal false x y && leVal false y x
  let lt : Bool := !un && !leVal false y x
  let gt : Bool := !un && !leVal false x y
  match cond with
  | 0 => eq
  | 1 => !eq
  | 2 => lt
  | 3 => lt || eq
  | 4 => gt
  | 5 => gt || eq
  | _ => un

/-- The value at place i of level n of the tree over lanes (R158): level 0 is the lanes, and a level combines neighbours of the one below. -/
def treeVal (p : Nat → Nat → Nat) (ls : List Nat) : Nat → Nat → Nat
  | 0, i => ls.getD i 0
  | n + 1, i => p (treeVal p ls n (2 * i)) (treeVal p ls n (2 * i + 1))

/-- The generator after n draws (R154, R155). -/
def draws : Nat → Word → Word
  | 0, g => g
  | n + 1, g => rngNext (draws n g)

/-- The value of a special function on a lane (R181, R182). -/
def special (r : Row) (v : View) (k : Nat) (a : Val) : Option Exact :=
  match r with
  | .vexp => some (expVal (valueOf .f32 0x3FB8AA3B).q (k < 16 && k < v.c.regs.expsplit) a)
  | .vexp2 => some (expVal ⟨1, 1⟩ (k < 16 && k < v.c.regs.expsplit) a)
  | .vlog2 => some (log2Val a)
  | .vrcp => some (rcpVal a)
  | .vrsq => some (rsqVal a)
  | .vsqrt => some (sqrtVal a)
  | .vtanh => some (tanhVal a)
  | _ => none

/-! ### Requests -/

/-- A memory operation of R301: its rows. -/
def isMemoryOp (r : Row) : Bool :=
  match r with
  | .atom | .cas | .cas2 | .red | .barInit | .barArrive | .barDrop | .barWait => true
  | _ => false

/-- The operations whose request carries its operands as they are, with their `sync` (R331, R370). -/
def isPlainSync (r : Row) : Bool :=
  match r with
  | .spNew | .spFree | .lift | .lower | .recall | .probe | .drop | .spPin | .spUnpin | .kvApp | .pgRef | .pgUnref | .glLaunch
  | .cntAdd | .cntRd | .cntWait | .cancel | .donePhase | .doneJob | .ceRed => true
  | _ => false

/-- The operations whose request carries its operands as they are, without a `sync` (R277, R406). -/
def isPlain (r : Row) : Bool :=
  match r with
  | .cstate | .fwcallId | .fwcallTick | .fwcallBell | .fwcallHealth => true
  | _ => false

/-- The handle operations: a handle in `a` and a scope, none as 0 and scope code n as n + 1 (R264). -/
def handleSync (r : Row) (o : Op) : Option Nat :=
  match r with
  | .hbState | .hbFree | .shRd | .shChk => some 0
  | .hbWait | .hbPub => some (o.modBits 4 3 + 1)
  | .hbSet => some (if o.modBit 7 then o.modBits 4 3 + 1 else 0)
  | _ => none

/-- The field forms and the token forms of the matrix operations (R214). -/
def isMxField (r : Row) : Bool :=
  match r with
  | .mxMma | .mxImma | .mxZero | .mxDrain | .mxFill | .mxRev | .mxChk => true
  | _ => false

/-- The token forms. -/
def isMxToken (r : Row) : Bool :=
  match r with
  | .mxMmaToken | .mxImmaToken | .mxZeroToken | .mxDrainToken | .mxFillToken | .mxRevToken | .mxChkToken => true
  | _ => false

/-! ### Route operators -/

/-- A firing of an operator (R133, R134), by its event: the tokens next on its inputs decide, markers first; none when it waits. -/
def firing (i : Instr) (e : OperEnt) (o : Oper) : Option Firing :=
  let heads := ((if e.ina = 0 then [] else [o.a.head?]) ++ (if e.inb = 0 then [] else [o.b.head?]) ++ (if e.ctl = 0 then [] else [o.c.head?]))
  let marks := heads.any (fun h => match h with | some t => t.kind == .marker | none => false)
  let poisoned := match o.c.head? with | some t => t.kind == .poison | none => false
  let c : Option Bool := match o.c.head? with | some t => if t.kind = .poison then none else some (t.payload.toNat % 2 == 1) | none => none
  let pass (t : Token) (rs : List Nat) : List (Nat × Token) := rs.map (fun r => (r, t))
  let bad (rs : List Nat) : List (Nat × Token) := match o.c.head? with
    | some t => rs.map (fun r => (r, { kind := .poison, round := t.round, res := 0, route := r, last := t.last, bit31 := false, payload := 0, rel := t.rel }))
    | none => []
  match i with
  | .passFiring => if marks || e.op != 1 then none else o.a.head?.map (fun t => ⟨true, false, false, pass t [e.outt], o.st, o.held⟩)
  | .forkFiring => if marks || e.op != 2 then none else o.a.head?.map (fun t => ⟨true, false, false, pass t [e.outt, e.outf], o.st, o.held⟩)
  | .steerFiring => if marks || e.op != 3 then none else
    c.bind (fun c => o.a.head?.map (fun t => ⟨true, false, true, pass t [if c then e.outt else e.outf], o.st, o.held⟩))
  | .mergeFiring => if marks || e.op != 4 then none else
    c.bind (fun c => (if c then o.a.head? else o.b.head?).map (fun t => ⟨c, !c, true, pass t [e.outt], o.st, o.held⟩))
  | .carryFiring => if marks || e.op != 5 then none else
    if o.st = .init then o.a.head?.map (fun t => ⟨true, false, false, pass t [e.outt], .loop, none⟩)
    else c.bind (fun c => if c then o.b.head?.map (fun t => ⟨false, true, true, pass t [e.outt], .loop, none⟩)
      else some ⟨false, false, true, [], .init, none⟩)
  | .invariantFiring => if marks || e.op != 6 then none else
    match o.held with
    | none => o.a.head?.map (fun t => ⟨true, false, false, [], .hold, some t⟩)
    | some v => c.map (fun c => if c then ⟨false, false, true, pass v [e.outt], .hold, some v⟩ else ⟨false, false, true, [], .empty, none⟩)
  | .dropFiring => if marks || e.op != 7 then none else
    c.bind (fun c => o.a.head?.map (fun t => ⟨true, false, true, if c then pass t [e.outt] else [], o.st, o.held⟩))
  | .markerFiring =>
    match heads with
    | some t :: rest =>
      if t.kind = .marker ∧ rest.all (fun h => match h with | some u => u.kind == .marker && u.round == t.round | none => false) then
        some ⟨e.ina != 0, e.inb != 0, e.ctl != 0,
          ((if e.outt = 0 then [] else [e.outt]) ++ (if e.outf = 0 then [] else [e.outf])).map (fun r =>
            (r, { kind := .marker, round := t.round, res := 0, route := r, last := t.last, bit31 := false, payload := 0, rel := [] })),
          if e.op = 5 then .init else if e.op = 6 then .empty else .loop, none⟩
      else none
    | _ => none
  | .poisonControlFiring => if marks || !poisoned then none else
    match e.op with
    | 3 => o.a.head?.map (fun _ => ⟨true, false, true, bad [e.outt, e.outf], o.st, o.held⟩)
    | 4 => o.a.head?.bind (fun _ => o.b.head?.map (fun _ => ⟨true, true, true, bad [e.outt], o.st, o.held⟩))
    | 5 => if o.st = .loop then o.b.head?.map (fun _ => ⟨false, true, true, bad [e.outt], .init, none⟩) else none
    | 6 => o.held.map (fun _ => ⟨false, false, true, bad [e.outt], .empty, none⟩)
    | 7 => o.a.head?.map (fun _ => ⟨true, false, true, bad [e.outt], o.st, o.held⟩)
    | _ => none
  | _ => none

/-! ### The matrix node -/

/-- The sum of R218 for one element of a product of f32: the entries e of A and f of B with their scales, and the addends of `acc`. -/
def mmaElement (t : MxTok) (e f : Line × Word) (acc : List Val) : Exact :=
  let ks := List.range (64 / t.ta.bytes)
  let sa := sidebandScale e.2
  let sb := sidebandScale f.2
  let a (k : Nat) : Exact := mulVal (mxElem t.ta e.1 k) sa.val
  let b (k : Nat) : Exact := mulVal (mxElem t.tb f.1 k) sb.val
  let isNan (v : Val) : Bool := v == .nan
  let nan := ks.any (fun k => isNan (mxElem t.ta e.1 k) || isNan (mxElem t.tb f.1 k)) || isNan (valueOf .f32 (bitsOf e.2.toNat 16 32)) ||
    isNan (valueOf .f32 (bitsOf f.2.toNat 16 32)) || acc.any isNan
  let undefd := ks.foldl (fun g k => g ||| (a k).flags) sa.flags ||| ks.foldl (fun g k => g ||| (b k).flags) sb.flags
  if nan then ⟨.nan, 0⟩ else if undefd ≠ 0 then ⟨.nan, undefd⟩ else dotVals (ks.map (fun k => ((a k).val, (b k).val))) acc false

/-- What a retiring matrix operation leaves: element q = 8i + j of its tile and of the side accumulator, the guard count, `failed`, the flags it
raises, the rows for its target, the channel of each correction, and the failure it reports with its detail. -/
structure Retired where
  z : Nat → Word
  side : Nat → Word
  guard : Nat
  failed : Bool
  flags : Nat
  rows : List Line
  fixed : List Nat
  fail : Option (Code × Nat)

/-- The effects of the operations of the node at their retirement (R218 to R221, R235 to R238, R241, R245, R246, R252). -/
def retired (rns : Bool) (x : Started) (inj : Option (Nat × Nat)) (tile : Tile) : Retired :=
  let t := x.tok
  let inside (q : Nat) : Bool := q / 8 < t.rows && q % 8 < t.cols
  let z (q : Nat) : Word := tile.z.getD q 0
  let side (q : Nat) : Word := tile.side.getD q 0
  let elems := List.range 64
  let keep : Retired := ⟨z, side, tile.guard, tile.failed, 0, [], [], none⟩
  let fails (c : Code) (d : Nat) : Retired := { keep with failed := true, fail := some (c, d) }
  let check (q : Nat) : RnsOut := rnsCheck x.rnsMode (laneResidues (z q).toNat)
  let value (q : Nat) : Int := match check q with | .ok n => n | .corr _ n => n | .bad => 0
  let fixed := elems.filterMap (fun q => match check q with | .corr c _ => some c | _ => none)
  let bad := elems.find? (fun q => check q == .bad)
  let wide (f : Nat → Word) : List Line :=
    (List.range 8).map (fun i => BitVec.ofNat 512 (packLanes 64 ((List.range 8).map (fun j => (f (8 * i + j)).toNat))))
  let a (q : Nat) : Line × Word := x.rowsA.getD (q / 8) (0, 0)
  let b (q : Nat) : Line × Word := x.rowsB.getD (q % 8) (0, 0)
  if x.rnsMode = 7 ∧ (t.kind = 1 ∨ t.kind = 5 ∨ t.kind = 6) then fails .rnsRetired 0
  else if tile.failed ∧ t.kind ≤ 1 then keep
  else match x.bad with
  | some (c, d) => fails (if c = Code.bankEcc.num then .bankEcc else .format) d
  | none =>
    match t.kind with
    | 0 =>
      let sum (q : Nat) : Exact := mmaElement t (a q) (b q) (if t.acc then [valueOf .f32 (bitsOf (z q).toNat 0 32)] else [])
      let r (q : Nat) := round (sum q).val .f32 .rne none t.ovf
      let flags := (elems.filter inside).foldl (fun f q => f ||| (if (r q).trap then 0 else (sum q).flags ||| (r q).flags)) 0
      match elems.find? (fun q => inside q && (r q).trap) with
      | some q => { fails .overflow q with flags := flags }
      | none => { keep with z := fun q => if inside q then BitVec.ofNat 64 (r q).bits else z q, flags := flags }
    | 1 =>
      let units := (if t.ta.isSigned then 1 else 2) * (if t.tb.isSigned then 1 else 2)
      let dot (q : Nat) : Int := ((List.range 64).map (fun k => (laneVal t.ta (a q).1.toNat k).q.num * (laneVal t.tb (b q).1.toNat k).q.num)).sum
      let product (z : Nat → Word) (side : Nat → Word) (guard : Nat) : Retired :=
        let res (q c : Nat) : Nat :=
          let old : Nat := if t.acc then (laneResidues (z q).toNat).getD c 0 else 0
          let r := ((dot q + (old : Int)) % (modulus c : Int)).toNat
          match inj with | some (ch, pat) => if ch = c then (r ^^^ pat) % modulus c else r | none => r
        { keep with z := fun q => if inside q then BitVec.ofNat 64 (packResidues ((List.range 6).map (res q))) else z q,
                    side := fun q => if t.acc then side q else 0, guard := guard }
      if t.acc = false then product z side units
      else if x.guardOn = false then product z side (min (tile.guard + units) 65535)
      else if tile.guard + units ≤ 1976 then product z side (tile.guard + units)
      else if t.ovf = .trap then fails .rnsGuard 0
      else if bad.isSome then fails .rnsUnc 0
      else { product (fun _ => 0) (fun q => BitVec.ofNat 64 (wrapNat 64 (value q + (side q).toNat))) units with fixed := fixed }
    | 2 => { keep with z := fun q => if inside q then 0 else z q, side := fun _ => 0, guard := 0, failed := false }
    | 3 =>
      let rows := if t.keepB then wide side else if rns then wide z
        else (List.range 8).map (fun i => BitVec.ofNat 512 (packLanes 32 ((List.range 8).map (fun j => (z (8 * i + j)).toNat))))
      let after : Retired := if t.acc = false then keep else if t.keepB then { keep with side := fun _ => 0 }
        else { keep with z := fun _ => 0, guard := 0 }
      { after with rows := rows }
    | 4 =>
      let lane (bits q : Nat) : Nat := laneOf bits (a q).1.toNat (q % 8)
      if t.keepB then { keep with side := fun q => BitVec.ofNat 64 (lane 64 q), failed := false }
      else if rns then
        let units (q : Nat) : Nat := ((recon (laneResidues (lane 64 q)) (mainSet x.rnsMode)).natAbs + 2 ^ 20 - 1) / 2 ^ 20
        { keep with z := fun q => BitVec.ofNat 64 (packResidues (laneResidues (lane 64 q))), failed := false,
                    guard := elems.foldl (fun g q => max g (units q)) 0 }
      else { keep with z := fun q => BitVec.ofNat 64 (lane 32 q), failed := false }
    | k =>
      let back : Retired := { keep with
        z := fun q => match check q with | .corr _ n => BitVec.ofNat 64 (packResidues (residuesOf n)) | _ => z q, fixed := fixed,
        rows := if k = 5 then wide (fun q => if check q = .bad then BitVec.ofNat 64 (2 ^ 63) else BitVec.ofNat 64 (wrapNat 64 (value q + (side q).toNat)))
          else [] }
      match bad with
      | some q => { back with failed := true, fail := some (if x.guardOn then .rnsUnc else .rnsRange, q * 2 ^ 16) }
      | none => if k = 5 ∧ t.acc then { back with z := fun _ => 0, side := fun _ => 0, guard := 0 } else back

/-- Step 4 of R227: of the gated tokens of each target the oldest are released, one for each pending firing, and the firings fall by as many. -/
structure GatesOpen (pend : Fin 8 → Nat) (inbox : List InTok) (pend' : Fin 8 → Nat) (inbox' : List InTok) : Prop where
  toks : inbox'.map (·.tok) = inbox.map (·.tok)
  left : ∀ i, pend' i = pend i - inbox.countP (fun x => x.gated == some i.val)
  gate : ∀ (j : Nat) (x : InTok), inbox[j]? = some x → ∃ y, inbox'[j]? = some y ∧
    (∀ i : Fin 8, x.gated = some i.val →
      y.gated = if (inbox.take j).countP (fun x => x.gated == some i.val) < pend i then none else some i.val) ∧
    ((∀ i : Fin 8, x.gated ≠ some i.val) → y.gated = x.gated)

/-- Held effects stand in slot order: by operation, then by element (R64). -/
def inSlotOrder (l : List (Nat × Nat × Eff)) : Prop := l.Pairwise (fun x y => x.1 < y.1 ∨ (x.1 = y.1 ∧ x.2.1 ≤ y.2.1))

/-! ### What executing an operation may change -/

/-- A step of an operation that leaves everything with an effect outside its block for the commit: memories, the fabric, the host
side, the bank units' queues, node, events, streams and counters, and every register of every context stand as they were; what may
change are the running blocks and the standing of contexts, the records and the handler queue that a fault enters, the pasts that
an acquire joins, and the requests. -/
structure Holds (s t : State) : Prop where
  net : t.net = s.net
  out : t.out = s.out
  my : t.my = s.my
  ms : { t.ms with pasts := s.ms.pasts } = s.ms
  hub : { t.hub with reqs := s.hub.reqs, nextId := s.hub.nextId, recs := s.hub.recs } = s.hub
  bu : ∀ n, { t.bu n with ctxs := (s.bu n).ctxs, hq := (s.bu n).hq, faultWait := (s.bu n).faultWait, hrun := (s.bu n).hrun, eccLine := (s.bu n).eccLine } = s.bu n
  regs : ∀ n k, (t.ctx n k).regs = (s.ctx n k).regs

end Sys2Proof.Rules
end

