-- ==== Sys2Proof/Safety.lean ====
section
/-!
DEFINITION. What a sound state is: the invariants that claims are stated over.
-/
namespace Sys2Proof.Safety
open Sys2Proof.Machine

/-- The memories of a state are in canonical form: the memory outside the banks and what stood there before every listed write, the
bank of each bank unit, and the banks of saved images (R393). -/
structure MemoriesCanonical (s : State) : Prop where
  mem : Memory.wf s.ms.mem = true
  base : Memory.wf s.ms.base = true
  banks : ∀ e ∈ s.bus, Memory.wf e.2.bank = true
  saved : ∀ e ∈ s.hub.regions, ∀ v, e.2.saved = some v → ∀ b ∈ v.bus, Memory.wf b.bank = true

/-- What is outside stands as the spec allows: the link's lanes (R396), the queue's base (R398), the module ID (R404), the module clock's
width (R405), the main clock's range (R409), and no peer window greater than the 32 flits of the model (assumption 7, DESIGN CHOICE, unsafe). -/
structure OutsideLegal (o : Outside) : Prop where
  lanes : o.lanes = 0 ∨ o.lanes = 8 ∨ o.lanes = 16 ∨ o.lanes = 32
  qbase : o.qbase % 64 = 0
  moduleId : ∀ n, o.moduleId = some n → n < 4096
  tick : o.tick < 2 ^ 64
  clockLow : 1250 ≤ o.clockMHz
  clockHigh : o.clockMHz ≤ 2250
  windows : ∀ e ∈ o.peerWindows, e.2 ≤ 32

/-- A state that the steps keep: canonical memories, and a legal outside. -/
structure Sound (s : State) : Prop where
  memories : MemoriesCanonical s
  outside : OutsideLegal s.out

/-- A step goes on. -/
def goesOn (o : Host.Outcome State Fault Refusal) : Bool :=
  match o with
  | .next _ => true
  | _ => false

end Sys2Proof.Safety
end

