-- ==== Sys2Proof/Certificates/Slice0/Obligations.lean ====
section
/-!
DEFINITION. The statements for the provers.
-/
section
open Sys2Proof Sys2Proof.Machine Sys2Proof.Safety Sys2Proof.Rules

/-- R25 to R34: a well-formed operation decodes from its word, and a word that decodes is the word of the well-formed operation that it decodes to: no
bit of an encoding is dropped, and no instruction has two.

R400 to R402: a command that is one decodes from its 64-byte entry with every argument, and an entry with a non-zero reserved field is none.

What is the model's own in this: assumptions 10, 31 and 32. -/
def Obligations.EncodingRoundTrip : Prop :=
  ((∀ (i : Instr) (w : Word), i.wf = true → encode i = some w → decodeWord w = .ok i) ∧
   (∀ (i : Instr) (w : Word), decodeWord w = .ok i → i.wf = true ∧ encode i = some w)) ∧
  ((∀ (code : Nat) (c : Cmd) (i : Instr), code < 256 → decodeCmd code c = .ok i →
     decodeEntry (encodeEntry code c) = .ok i ∧ cmdOfNat (encodeEntry code c) = c) ∧
   (∀ (n : Nat), n / 2 ^ 32 % 2 ^ 32 ≠ 0 → decodeEntry n = .error .badCmd))

/-- R25, R32, R75, R159, R193, R275, R313, R370: words that the spec writes out with the operations they stand for: `add G3, G3, QI0`; `sub t0, G4, 1`;
`imm 0x12`; `vadd.f32 V1, V2, V3`; `ldw.n32 G4, [G3+8]`; `ldm.i64 G4, S1, [G3+8]`; `mx.imma Z0, K0, K1`; `hb.set.free.rgn.rel G2`; `ce.red.dev.rel G9, V1`;
`recall.hi G5, G3`; `qpoison QO3`; `fence.sys`; `done.phase`. -/
def Obligations.WordsDecode : Prop :=
  decodeWord 0x0000303800060000 = .ok (.add ⟨0, false, ⟨.g 3, false⟩, ⟨.g 3, false⟩, .reg ⟨.qi 0, false⟩ ⟨.g 0, false⟩ .i64 .rne false .sat 0⟩) ∧
  decodeWord 0x0104004FF0000001 = .ok (.sub ⟨0, false, ⟨.t 0, false⟩, ⟨.g 4, false⟩, .imm 1⟩) ∧
  decodeWord 0x3600000000000012 = .ok (.imm 0x12) ∧
  decodeWord 0x50051525300C0000 = .ok (.vadd ⟨0, false, ⟨.v 1, false⟩, ⟨.v 2, false⟩, .reg ⟨.v 3, false⟩ ⟨.g 0, false⟩ .f32 .rne false .sat 0⟩) ∧
  decodeWord 0x4200403000050002 = .ok (.ldw ⟨0, false, ⟨.g 4, false⟩, ⟨.g 3, false⟩, .reg ⟨.g 0, false⟩ ⟨.g 0, false⟩ .n32 .rne false .sat 2⟩) ∧
  decodeWord 0x4B02403000060101 = .ok (.ldm ⟨0, false, ⟨.g 4, true⟩, ⟨.g 3, false⟩, .reg ⟨.g 0, false⟩ ⟨.g 0, false⟩ .i64 .rne false .sat 0x101⟩) ∧
  decodeWord 0x9100000FF00803F0 = .ok (.mxImma ⟨0, false, ⟨.g 0, false⟩, ⟨.g 0, false⟩, .imm 0x00803F0⟩) ∧
  decodeWord 0xC2000020000000A0 = .ok (.hbSet ⟨0, false, ⟨.g 0, false⟩, ⟨.g 2, false⟩, .reg ⟨.g 0, false⟩ ⟨.g 0, false⟩ .i8 .rne false .sat 0xA0⟩) ∧
  decodeWord 0xB502951000000004 = .ok (.ceRed ⟨0, false, ⟨.g 9, true⟩, ⟨.v 1, false⟩, .reg ⟨.g 0, false⟩ ⟨.g 0, false⟩ .i8 .rne false .sat 4⟩) ∧
  decodeWord 0xD402503000000000 = .ok (.recall ⟨0, false, ⟨.g 5, true⟩, ⟨.g 3, false⟩, .reg ⟨.g 0, false⟩ ⟨.g 0, false⟩ .i8 .rne false .sat 0⟩) ∧
  decodeWord 0xA109300000000000 = .ok (.qpoison ⟨0, false, ⟨.qo 3, false⟩, ⟨.g 0, false⟩, .reg ⟨.g 0, false⟩ ⟨.g 0, false⟩ .i8 .rne false .sat 0⟩) ∧
  decodeWord 0x4A00000000000004 = .ok (.fence ⟨0, false, ⟨.g 0, false⟩, ⟨.g 0, false⟩, .reg ⟨.g 0, false⟩ ⟨.g 0, false⟩ .i8 .rne false .sat 4⟩) ∧
  decodeWord 0xE500000000000000 = .ok (.donePhase ⟨0, false, ⟨.g 0, false⟩, ⟨.g 0, false⟩, .reg ⟨.g 0, false⟩ ⟨.g 0, false⟩ .i8 .rne false .sat 0⟩)

/-- R77, R78: the scalar operations `add`, `sub`, `mul`, `mulh`, `mulhu`, `and`, `or`, `xor`, `andn`, `shl`, `shr`, `sar`, `rol`, `min`,
`max`, `minu`, `maxu`, `clz`, `ctz`, `popc`, `sext`, `zext` and `mov` complete with the result of their row, modulo 2^w, sign-extended for
an even type code and zero-extended for an odd one. -/
def Obligations.ScalarResults : Prop :=
  ∀ (i : Instr) (r : Row) (o : Op) (s : State) (x : Srcs) (d : Int) (fl : Nat),
    i.row = some r → i.op? = some o → Fires r o s x →
    scalar r (seen s r o).o.ty.bits (x.a % 2 ^ (seen s r o).o.ty.bits) ((seen s r o).bOrImm x % 2 ^ (seen s r o).o.ty.bits) = some (d, fl) →
    Quiet r o s fl →
    exec i s = .next (finishOp (seen s r o) x (valueRes (extend64 (seen s r o).o.ty d) fl))

/-- R79: `div`, `divu`, `rem` and `remu` complete with the quotient or the remainder of R79; division by zero raises `dz`, and when that flag
traps the operation raises FLAG with its number (R88).

What is the model's own in this: assumption 145. -/
def Obligations.DivisionResults : Prop :=
  ∀ (i : Instr) (r : Row) (o : Op) (s : State) (x : Srcs) (d : Int) (fl : Nat),
    i.row = some r → i.op? = some o → Fires r o s x →
    division r (seen s r o).o.ty.bits (x.a % 2 ^ (seen s r o).o.ty.bits) ((seen s r o).bOrImm x % 2 ^ (seen s r o).o.ty.bits) = some (d, fl) →
    (Quiet r o s fl → exec i s = .next (finishOp (seen s r o) x (valueRes (extend64 (seen s r o).o.ty d) fl))) ∧
    (∀ k, flagTrap (seen s r o).c.regs.fmask fl = some k → exec i s = .next (stopOp (seen s r o) (.fault ⟨.flag, 0, k⟩)))

/-- R80: `bfx` completes with bits pos to pos + len - 1 of a, bits above 63 read as a[63] for type i64 and as 0 for n64, and the field
sign-extended for i64 and zero-extended for n64; `bfi` completes with c, bits pos to min(pos + len, 64) - 1 replaced by the low bits of a. -/
def Obligations.FieldResults : Prop :=
  ∀ (o : Op) (s : State) (x : Srcs),
    (Fires .bfx o s x →
      let b := (seen s .bfx o).bOrImm x
      let pos := bitsOf b 0 6
      let len := if bitsOf b 8 6 = 0 then 64 else bitsOf b 8 6
      ∃ d, d < 2 ^ 64 ∧ exec (.bfx o) s = .next (finishOp (seen s .bfx o) x (valueRes d 0)) ∧
        ∀ k, k < 64 → bitOf d k =
          (if (seen s .bfx o).o.ty = .i64 then bitOf x.a (min (pos + min k (len - 1)) 63)
           else decide (k < len) && decide (pos + k < 64) && bitOf x.a (pos + k))) ∧
    (Fires .bfi o s x →
      let pos := bitsOf x.b 0 6
      let len := if bitsOf x.b 8 6 = 0 then 64 else bitsOf x.b 8 6
      ∃ d, d < 2 ^ 64 ∧ exec (.bfi o) s = .next (finishOp (seen s .bfi o) x (valueRes d 0)) ∧
        ∀ k, k < 64 → bitOf d k = (if pos ≤ k ∧ k < min (pos + len) 64 then bitOf x.a (k - pos) else bitOf x.c k))

/-- R78, R81, R84: `shadd` completes with A x 2^s + B; `movi` with its immediate; `movh` with value[31:0] x 2^32 + a[31:0]; `sel` with a when
c[0] is 1, and with b otherwise.

R58, R61, R77 to R84, R193: a scalar operation, a compare, a predicate operation, a scalar load or a scalar store that its predicate does
not select goes by and writes nothing; one whose predicate is pending waits, and one whose predicate has failed raises EMPTY. -/
def Obligations.MovesAndUnselectedOperations : Prop :=
  (∀ (o : Op) (s : State) (x : Srcs),
     (Fires .shadd o s x →
       let t := (seen s .shadd o).o.ty
       exec (.shadd o) s = .next (finishOp (seen s .shadd o) x (valueRes
         (extend64 t (((x.a % 2 ^ t.bits) * 2 ^ (seen s .shadd o).o.modBits 0 3 + x.b % 2 ^ t.bits : Nat) : Int)) 0))) ∧
     (Fires .movi o s x → exec (.movi o) s = .next (finishOp (seen s .movi o) x (valueRes (immValue s.my.cur (seen s .movi o).o) 0))) ∧
     (Fires .movh o s x → exec (.movh o) s = .next (finishOp (seen s .movh o) x (valueRes
         (immValue s.my.cur (seen s .movh o).o % 2 ^ 32 * 2 ^ 32 + x.a % 2 ^ 32) 0))) ∧
     (Fires .sel o s x →
       let t := (seen s .sel o).o.ty
       exec (.sel o) s = .next (finishOp (seen s .sel o) x (valueRes
         (extend64 t (((if x.c % 2 = 1 then x.a else x.b) % 2 ^ t.bits : Nat) : Int)) 0)))) ∧
  (∀ (i : Instr) (r : Row) (o : Op) (s : State),
     i.row = some r → i.op? = some o →
     ((∃ w A B y, scalar r w A B = some y) ∨ (∃ w A B y, division r w A B = some y) ∨ (∃ w A B y, compare r w A B = some y) ∨
       (∃ a b y, predicate r a b = some y) ∨ (∃ a b y, predicateCond r a b = some y) ∨ (loadSize r).isSome ∨ (storeSize r).isSome) →
     (∀ bits, readPred (seen s r o).c (seen s r o).o.pred = .ok bits → selBits bits (seen s r o).o.psense % 2 = 0 →
       exec i s = .next (s.modCtx s.my.cur.bu s.my.cur.slot (fun c => { c with
         blk := skipRes s.my.cur (seen s r o).o.dst (beginBlk (s.ctx s.my.cur.bu s.my.cur.slot)) }))) ∧
     (readPred (seen s r o).c (seen s r o).o.pred = .error .wait → exec i s = .next s) ∧
     (readPred (seen s r o).c (seen s r o).o.pred = .error (faultCode .empty) →
       exec i s = .next (stopOp (seen s r o) (.fault ⟨.empty, 0, 0⟩))))

/-- R82: `ceq`, `cne`, `clt`, `cle`, `cltu`, `cleu` and `ctst` complete with all ones or zeros for a P destination, and 1 or 0 for another.

R83: `pand`, `por`, `pxor`, `pnot` and `pmov` complete with the 64 bits of their row; `pany` and `pall` with a condition, written as a
compare's.

What is the model's own in this: assumption 11. -/
def Obligations.CompareAndPredicateResults : Prop :=
  (∀ (i : Instr) (r : Row) (o : Op) (s : State) (x : Srcs) (c : Bool),
     i.row = some r → i.op? = some o → Fires r o s x →
     compare r (seen s r o).o.ty.bits (x.a % 2 ^ (seen s r o).o.ty.bits) ((seen s r o).bOrImm x % 2 ^ (seen s r o).o.ty.bits) = some c →
     ((∀ p, (seen s r o).o.dst.reg = .p p → exec i s = .next (finishOp (seen s r o) x (valueRes (if c then 2 ^ 64 - 1 else 0) 0))) ∧
      ((∀ p, (seen s r o).o.dst.reg ≠ .p p) → exec i s = .next (finishOp (seen s r o) x (valueRes (if c then 1 else 0) 0))))) ∧
  (∀ (i : Instr) (r : Row) (o : Op) (s : State) (x : Srcs),
     i.row = some r → i.op? = some o → Fires r o s x →
     (∀ d, predicate r (x.a % 2 ^ 64) (x.b % 2 ^ 64) = some d → exec i s = .next (finishOp (seen s r o) x (valueRes d 0))) ∧
     (∀ c, predicateCond r (x.a % 2 ^ 64) (x.b % 2 ^ 64) = some c →
       (∀ p, (seen s r o).o.dst.reg = .p p → exec i s = .next (finishOp (seen s r o) x (valueRes (if c then 2 ^ 64 - 1 else 0) 0))) ∧
       ((∀ p, (seen s r o).o.dst.reg ≠ .p p) → exec i s = .next (finishOp (seen s r o) x (valueRes (if c then 1 else 0) 0)))))

/-- R187, R188, R189, R191, R193: `ldb`, `ldh`, `ldw` and `ldd` of a byte that is aligned, in range and corrected complete with the bytes at
their offset of the window, little-endian, extended by their type; a misaligned offset raises BANK_ALIGN, one out of range BANK_RANGE, and a
word that cannot be corrected BANK_ECC.

R193, R284, R287: `lda` of a value that is aligned, in range and corrected completes with the value, and the party of its context acquires
at its scope what releasing stores have released at its bytes.

R188, R193, R284: `stb`, `sth`, `stw` and `std` hold a store of the low bytes of their value at their offset of the window for the commit;
a misaligned offset raises BANK_ALIGN and one out of range BANK_RANGE. `stl` holds a store, and the release
of its scope.

What is the model's own in this: assumption 25. -/
def Obligations.BankLoadsAndStores : Prop :=
  (∀ (i : Instr) (r : Row) (o : Op) (s : State) (x : Srcs) (size : Nat),
     i.row = some r → i.op? = some o → loadSize r = some size → Fires r o s x → storesDone (seen s r o) = true →
     let v := seen s r o
     let win := s.window s.my.cur.bu s.my.cur.slot
     let off := wrapNat 64 ((x.a : Int) + (if o.modBit 10 then (x.b : Int) else 0) + signedOf 10 (o.modBits 0 10) * size)
     (off % size ≠ 0 → exec i s = .next (stopOp v (.fault ⟨.bankAlign, off, 0⟩))) ∧
     (off % size = 0 → win.2 < off + size → exec i s = .next (stopOp v (.fault ⟨.bankRange, off, 0⟩))) ∧
     (off % size = 0 → off + size ≤ win.2 → ∀ w, badWordIn v.b v.ownByte (win.1 + off) size = some w →
       exec i s = .next (stopOp v (.fault ⟨.bankEcc, 8 * w - win.1, 0⟩))) ∧
     (off % size = 0 → off + size ≤ win.2 → badWordIn v.b v.ownByte (win.1 + off) size = none →
       let n := natOfBytes (v.bankSeen.readBytes (win.1 + off) size)
       exec i s = .next (finishOp v x { Res.ofVal (if v.o.ty.code % 2 = 0 then wrapNat 64 (signedOf (8 * size) n) else n % 2 ^ (8 * size)) with
         loads := [(win.1 + off, size)] }))) ∧
  (∀ (o : Op) (s : State) (x : Srcs), Fires .lda o s x → storesDone (seen s .lda o) = true →
     let v := seen s .lda o
     let win := s.window s.my.cur.bu s.my.cur.slot
     let off := wrapNat 64 ((x.a : Int) + if o.modBit 10 then (x.b : Int) else 0)
     let size := v.o.ty.bytes
     off % size = 0 → off + size ≤ win.2 → badWordIn v.b v.ownByte (win.1 + off) size = none →
       let n := natOfBytes (v.bankSeen.readBytes (win.1 + off) size)
       exec (.lda o) s = .next (acquireBank (finishOp v x { Res.ofVal (extendLoad v.o.ty size n) with loads := [(win.1 + off, size)] })
         s.my.cur.bu s.my.cur.slot (o.modBits 0 3) (win.1 + off) size)) ∧
  (∀ (o : Op) (s : State) (x : Srcs),
     let win := s.window s.my.cur.bu s.my.cur.slot
     (∀ (i : Instr) (r : Row) (size : Nat), i.row = some r → i.op? = some o → storeSize r = some size → Fires r o s x →
       let off := wrapNat 64 ((x.a : Int) + (if o.modBit 10 then (x.b : Int) else 0) + signedOf 10 (o.modBits 0 10) * size)
       (off % size ≠ 0 → exec i s = .next (stopOp (seen s r o) (.fault ⟨.bankAlign, off, 0⟩))) ∧
       (off % size = 0 → win.2 < off + size → exec i s = .next (stopOp (seen s r o) (.fault ⟨.bankRange, off, 0⟩))) ∧
       (off % size = 0 → off + size ≤ win.2 →
         exec i s = .next (finishOp (seen s r o) x (Res.ofEff (.store (win.1 + off) (bytesOfNat size x.c)))))) ∧
     (Fires .stl o s x →
       let off := wrapNat 64 ((x.a : Int) + (if o.modBit 10 then (x.b : Int) else 0))
       off % o.ty.bytes = 0 → off + o.ty.bytes ≤ win.2 →
         exec (.stl o) s = .next (finishOp (seen s .stl o) x { Res.none with
           effs := [.store (win.1 + off) (bytesOfNat o.ty.bytes x.c), .stl (win.1 + off) o.ty.bytes (o.modBits 0 3)] })))

/-- R163, R165 to R171, R174 to R177, R203: an element-wise vector operation completes with the lanes that its row gives, those it does not
select taking the merge value, when no flag it raises traps.

R152, R163: an element-wise vector operation that waits for its merge value waits; one whose
merge value has failed raises EMPTY; one that overflows under TRAP raises OVERFLOW with the lane, and one whose flag traps raises FLAG.

What is the model's own in this: assumptions 24 and 57. -/
def Obligations.VectorElementResults : Prop :=
  (∀ (i : Instr) (r : Row) (o : Op) (s : State) (x : Srcs) (f : Nat → Word → LaneRes) (res : Res),
     i.row = some r → i.op? = some o → Reads r o s x → lanes r (seen s r o) x = some f →
     tyLanes (seen s r o) x (seen s r o).o.ty f = .ok res → Quiet r o s res.flags →
     exec i s = .next (finishOp (seen s r o) x res)) ∧
  (∀ (i : Instr) (r : Row) (o : Op) (s : State) (x : Srcs) (f : Nat → Word → LaneRes),
     i.row = some r → i.op? = some o → Reads r o s x → lanes r (seen s r o) x = some f →
     (∀ e, tyLanes (seen s r o) x (seen s r o).o.ty f = .error e → exec i s = .next (stopOp (seen s r o) e)) ∧
     (∀ res k, tyLanes (seen s r o) x (seen s r o).o.ty f = .ok res → flagTrap (seen s r o).c.regs.fmask res.flags = some k →
       exec i s = .next (stopOp (seen s r o) (.fault ⟨.flag, 0, k⟩))))

/-- R152, R155, R163: the lanes of a vector operation. Lane k of the result is what its rule computes where the lane is selected, and lane k of
the merge value elsewhere; the flags are those of the selected lanes; the lowest selected lane that overflows under TRAP is reported.

R163: the merge value is 0 under `zm`, with every lane selected, or without a V or P destination; otherwise it is the destination as
committed, waited for while it is pending, and EMPTY once it has failed.

What is the model's own in this: assumption 57. -/
def Obligations.LanesAndMergeValues : Prop :=
  (∀ (v : View) (w n m : Nat) (zm : Bool) (live : Nat → Bool) (b fl : Nat → Nat) (tr : Nat → Bool), 0 < w →
     readMerge v zm ((List.range n).all live) = .ok m →
     let f : Nat → Word → LaneRes := fun k g => ⟨b k, fl k, g, tr k⟩
     (∀ k, k < n → live k = true → tr k = true → (∀ j, j < k → (live j && tr j) = false) →
       vecLanes v w n zm live f = .error (.fault ⟨.overflow, 0, k⟩)) ∧
     ((∀ k, k < n → (live k && tr k) = false) → ∃ d flags,
       vecLanes v w n zm live f = .ok { Res.ofVal d with flags := flags, rng := some v.c.blk.rng } ∧ d < 2 ^ (w * n) ∧
       (∀ k, k < n → laneOf w d k = if live k then b k % 2 ^ w else laneOf w m k) ∧
       (∀ j, bitOf flags j = true ↔ ∃ k, k < n ∧ live k = true ∧ bitOf (fl k) j = true))) ∧
  (∀ (v : View) (zm all : Bool),
     ((zm = true ∨ all = true) → readMerge v zm all = .ok 0) ∧
     ((∀ i, v.o.dst.reg ≠ .v i) → (∀ i, v.o.dst.reg ≠ .p i) → readMerge v zm all = .ok 0) ∧
     (zm = false → all = false → ∀ i, v.o.dst.reg = .v i →
       (v.c.regs.v[i].st = .full → readMerge v zm all = .ok v.c.regs.v[i].val.toNat) ∧
       (∀ id, v.c.regs.v[i].st = .pending id → readMerge v zm all = .error .wait) ∧
       (v.c.regs.v[i].st = .failed → readMerge v zm all = .error (faultCode .empty))) ∧
     (zm = false → all = false → ∀ i : Fin 8, v.o.dst.reg = .p i → i.val ≠ 0 →
       (v.c.regs.p[i].st = .full → readMerge v zm all = .ok v.c.regs.p[i].val.toNat) ∧
       (∀ id, v.c.regs.p[i].st = .pending id → readMerge v zm all = .error .wait) ∧
       (v.c.regs.p[i].st = .failed → readMerge v zm all = .error (faultCode .empty))))

/-- R170: `vcmp` completes with all ones or zeros in each lane of a lane destination, and with bit k for lane k of a P destination.

R172: `vdot` completes with sixteen results of 4 bytes: the accumulator lane, where there is one, and the products of the elements that
share its bytes, for integers modulo 2^32, for floats added exactly and rounded once.

What is the model's own in this: assumption 24. -/
def Obligations.VectorCompareAndDotResults : Prop :=
  (∀ (o : Op) (s : State) (x : Srcs) (res : Res), Reads .vcmp o s x →
     let v := seen s .vcmp o
     let t := v.o.ty
     let b := spread v.o.b t.bits t.lanes x.b
     let holds (k : Nat) : Bool := laneCompare t (v.o.modBits 0 3) (laneOf t.bits x.a k) (laneOf t.bits b k)
     (∀ p, v.o.dst.reg = .p p →
       vecLanes v 1 t.lanes v.zm (fun k => bitOf x.sel k) (fun k g => ⟨if holds k then 1 else 0, 0, g, false⟩) = .ok res →
       exec (.vcmp o) s = .next (finishOp v x res)) ∧
     ((∀ p, v.o.dst.reg ≠ .p p) → tyLanes v x t (fun k g => ⟨if holds k then 2 ^ t.bits - 1 else 0, 0, g, false⟩) = .ok res →
       exec (.vcmp o) s = .next (finishOp v x res))) ∧
  (∀ (o : Op) (s : State) (x : Srcs) (res : Res), Reads .vdot o s x →
     let v := seen s .vdot o
     let t := v.o.ty
     let m := 32 / t.bits
     let c := spread v.o.c 32 16 x.c
     let N (n k : Nat) : Int := if t.isSigned then signedOf t.bits (laneOf t.bits n k) else ((laneOf t.bits n k : Nat) : Int)
     let acc (k : Nat) : Int := if v.o.modBit 0 then ((laneOf 32 c k : Nat) : Int) else 0
     Quiet .vdot o s res.flags →
     (t.isInt = true →
       vecLanes v 32 16 v.zm (fun k => bitOf x.sel k) (fun k g =>
         ⟨wrapNat 32 (acc k + ((List.range m).map (fun j => N x.a (m * k + j) * N x.b (m * k + j))).sum), 0, g, false⟩) = .ok res →
       exec (.vdot o) s = .next (finishOp v x res)) ∧
     (t.isInt = false →
       vecLanes v 32 16 v.zm (fun k => bitOf x.sel k) (fun k g => roundLane v .f32
         (dotVals ((List.range m).map (fun j => (laneVal t x.a (m * k + j), laneVal t x.b (m * k + j))))
           (if v.o.modBit 0 then [laneVal .f32 c k] else []) v.rdn) g) = .ok res →
       exec (.vdot o) s = .next (finishOp v x res)))

/-- R158, R173: `vsum` of integers completes with the sum of the selected lanes modulo 2^w, extended by its type outside a V register, and with
`w` with the exact sum as 64 bits; `vrmin` and `vrmax` of integers complete with the smallest and the largest selected lane, and with the
largest and the smallest value of the type when none is selected.

R158, R173: `vsum`, `vrmin` and `vrmax` of floats complete with the fold of the lanes by the tree, masked lanes entering as -0, +∞ or -∞,
each step of a sum rounded; an overflow under TRAP raises OVERFLOW.

What is the model's own in this: assumptions 24 and 35. -/
def Obligations.ReductionResults : Prop :=
  (∀ (o : Op) (s : State) (x : Srcs),
     let live (t : Ty) : List Nat := (List.range t.lanes).filter (fun k => bitOf x.sel k)
     let N (t : Ty) (k : Nat) : Int := if t.isSigned then signedOf t.bits (laneOf t.bits x.a k) else ((laneOf t.bits x.a k : Nat) : Int)
     let done (r : Row) (n : Int) : State :=
       let v := seen s r o
       finishOp v x { Res.ofVal (reduceVal v.o.dst v.o.ty (wrapNat v.o.ty.bits n)) with rng := some v.c.blk.rng }
     (∀ t, (seen s .vsum o).o.ty = t → t.isInt = true → Reads .vsum o s x →
       ((seen s .vsum o).o.modBit 0 = false → exec (.vsum o) s = .next (done .vsum ((live t).map (N t)).sum)) ∧
       ((seen s .vsum o).o.modBit 0 = true →
         exec (.vsum o) s = .next (finishOp (seen s .vsum o) x (Res.ofVal (wrapNat 64 ((live t).map (N t)).sum))))) ∧
     (∀ t, (seen s .vrmin o).o.ty = t → t.isInt = true → Reads .vrmin o s x →
       exec (.vrmin o) s = .next (done .vrmin (((live t).map (N t)).foldr min t.range.2))) ∧
     (∀ t, (seen s .vrmax o).o.ty = t → t.isInt = true → Reads .vrmax o s x →
       exec (.vrmax o) s = .next (done .vrmax (((live t).map (N t)).foldr max t.range.1)))) ∧
  (∀ (i : Instr) (r : Row) (o : Op) (s : State) (x : Srcs) (ident : Val) (step : Nat → Nat → Word → LaneRes),
     i.row = some r → i.op? = some o → Reads r o s x →
     let v := seen s r o
     let t := v.o.ty
     t = .f16 ∨ t = .bf16 ∨ t = .f32 ∨ t = .f64 → v.o.modBit 0 = false →
     ((r = .vsum ∧ ident = .zero true ∧ step = fun a b g => roundLane v t (addVal (valueOf t a) (valueOf t b) v.rdn) g) ∨
      (r = .vrmin ∧ ident = .inf false ∧ step = fun a b g => ⟨laneMin t a b, 0, g, false⟩) ∨
      (r = .vrmax ∧ ident = .inf true ∧ step = fun a b g => ⟨laneMax t a b, 0, g, false⟩)) →
     let ls := (List.range t.lanes).map (fun k => if bitOf x.sel k then laneOf t.bits x.a k else patternOf t ident)
     let out := tree step (Nat.log2 t.lanes) { out := ls, flags := 0, rng := v.c.blk.rng, trap := none }
     (∀ k, out.trap = some k → exec i s = .next (stopOp v (.fault ⟨.overflow, 0, k⟩))) ∧
     (out.trap = none → Quiet r o s out.flags →
       exec i s = .next (finishOp v x { Res.ofVal (reduceVal v.o.dst t (out.out.getD 0 0)) with flags := out.flags, rng := some out.rng })))

/-- R158: the tree of a reduction whose steps draw nothing: over 2^n lanes it leaves one value, each level combining neighbours, with every
flag of every step. -/
def Obligations.ReductionTree : Prop :=
  ∀ (p fl : Nat → Nat → Nat) (n : Nat) (ls : List Nat) (g : Word), ls.length = 2 ^ n →
    ∃ flags, tree (fun a b g => ⟨p a b, fl a b, g, false⟩) n { out := ls, flags := 0, rng := g, trap := none } =
        { out := [treeVal p ls n 0], flags := flags, rng := g, trap := none } ∧
      ∀ j, bitOf flags j = true ↔ ∃ m i, m < n ∧ i < 2 ^ (n - m - 1) ∧
        bitOf (fl (treeVal p ls m (2 * i)) (treeVal p ls m (2 * i + 1))) j = true

/-- R174: `vcompress` completes with the lanes of a whose bit in b is 1, in ascending order from lane 0, and zeros after them; `vexpand` with
lane c of a where bit k of b is 1, c the number of ones below k, and 0 elsewhere.

R175: `vcvt` completes with n = 64 / max of the two sizes lanes: from part p of the source when it is the smaller, into part p of the
destination, the other lanes taking the merge value, when the destination is smaller, and lane by lane between equal sizes.

What is the model's own in this: assumption 24. -/
def Obligations.PackingAndConversionResults : Prop :=
  (∀ (o : Op) (s : State) (x : Srcs),
     let ones (k : Nat) : Nat := ((List.range k).filter (fun j => bitOf x.b j)).length
     (∀ t, (seen s .vcompress o).o.ty = t → Reads .vcompress o s x → ∃ d,
       exec (.vcompress o) s = .next (finishOp (seen s .vcompress o) x (Res.ofVal d)) ∧ d < 2 ^ (t.bits * t.lanes) ∧
       (∀ k, k < t.lanes → bitOf x.b k = true → laneOf t.bits d (ones k) = laneOf t.bits x.a k) ∧
       (∀ k, ones t.lanes ≤ k → laneOf t.bits d k = 0)) ∧
     (∀ t, (seen s .vexpand o).o.ty = t → Reads .vexpand o s x → ∃ d,
       exec (.vexpand o) s = .next (finishOp (seen s .vexpand o) x (Res.ofVal d)) ∧ d < 2 ^ (t.bits * t.lanes) ∧
       (∀ k, k < t.lanes → laneOf t.bits d k = if bitOf x.b k then laneOf t.bits x.a (ones k) else 0))) ∧
  (∀ (o : Op) (s : State) (x : Srcs) (res : Res), Reads .vcvt o s x → Quiet .vcvt o s res.flags →
     let v := seen s .vcvt o
     let t := v.o.ty
     let src := Ty.ofCode (v.o.modBits 0 4)
     let n := 64 / max src.bytes t.bytes
     let p := v.o.modBits 4 2
     (src.bytes < t.bytes →
       tyLanes v x t (fun k g => roundLane v t ⟨laneVal src x.a (p * n + k), 0⟩ g) = .ok res →
       exec (.vcvt o) s = .next (finishOp v x res)) ∧
     (t.bytes < src.bytes →
       vecLanes v t.bits t.lanes v.zm (fun k => bitOf x.sel k && decide (p * n ≤ k ∧ k < p * n + n))
         (fun k g => roundLane v t ⟨laneVal src x.a (k - p * n), 0⟩ g) = .ok res →
       exec (.vcvt o) s = .next (finishOp v x res)) ∧
     (t.bytes = src.bytes →
       vecLanes v t.bits t.lanes v.zm (fun k => bitOf x.sel k && decide (k < n))
         (fun k g => roundLane v t ⟨laneVal src x.a k, 0⟩ g) = .ok res →
       exec (.vcvt o) s = .next (finishOp v x res)))

/-- R178, R179: `vqnt` writes the codes of its source's lanes, each divided by the product of the two scales and rounded, into a part of an nq4
vector; `vdqnt` rounds the weights of a part's codes. A first scale outside ue4m3 raises FORMAT with its byte and reason 2, and otherwise the first
of the bytes 1 to 3 that is not zero raises it with that byte and reason 4; in both the block stops, whatever lanes are selected.

R180, R181: a special function completes, before its result arrives, with a detached request that carries the lanes of its result and their
flags, rounded from the exact values; one that overflows under TRAP carries OVERFLOW with its lane.

What is the model's own in this: assumptions 20 and 24. -/
def Obligations.QuantisationAndSpecialFunctions : Prop :=
  (∀ (o : Op) (s : State) (x : Srcs) (res : Res),
     let b := x.b % 2 ^ 64
     let s256 := valueOf .f32 (bitsOf b 32 32)
     (Reads .vqnt o s x →
       let v := seen s .vqnt o
       let src := Ty.ofCode (v.o.modBits 0 4)
       let base := v.o.modBits 4 4 * src.lanes
       (ue4m3 (bitsOf b 0 8) = none → exec (.vqnt o) s = .next (stopOp v (.fault ⟨.format, 0, bitsOf b 0 8 + 512⟩))) ∧
       (∀ k, 1 ≤ k → k ≤ 3 → ue4m3 (bitsOf b 0 8) ≠ none → (∀ j, 1 ≤ j → j < k → bitsOf b (8 * j) 8 = 0) → bitsOf b (8 * k) 8 ≠ 0 →
         exec (.vqnt o) s = .next (stopOp v (.fault ⟨.format, 0, bitsOf b (8 * k) 8 + 1024⟩))) ∧
       (∀ s64, ue4m3 (bitsOf b 0 8) = some s64 → bitsOf b 8 24 = 0 → Quiet .vqnt o s res.flags →
         vecLanes v 4 128 v.zm (fun k => decide (base ≤ k ∧ k < base + src.lanes) && bitOf x.sel (k - base))
           (fun k g => qntLane v s64 s256 (laneVal src x.a (k - base)) g) = .ok res →
         exec (.vqnt o) s = .next (finishOp v x res))) ∧
     (Reads .vdqnt o s x →
       let v := seen s .vdqnt o
       let t := v.o.ty
       (ue4m3 (bitsOf b 0 8) = none → exec (.vdqnt o) s = .next (stopOp v (.fault ⟨.format, 0, bitsOf b 0 8 + 512⟩))) ∧
       (∀ k, 1 ≤ k → k ≤ 3 → ue4m3 (bitsOf b 0 8) ≠ none → (∀ j, 1 ≤ j → j < k → bitsOf b (8 * j) 8 = 0) → bitsOf b (8 * k) 8 ≠ 0 →
         exec (.vdqnt o) s = .next (stopOp v (.fault ⟨.format, 0, bitsOf b (8 * k) 8 + 1024⟩))) ∧
       (∀ s64, ue4m3 (bitsOf b 0 8) = some s64 → bitsOf b 8 24 = 0 → Quiet .vdqnt o s res.flags →
         tyLanes v x t (fun k g => roundLane v t (nq4Weight (laneOf 4 x.a (v.o.modBits 4 4 * t.lanes + k)) s64 s256) g) = .ok res →
         exec (.vdqnt o) s = .next (finishOp v x res)))) ∧
  (∀ (i : Instr) (r : Row) (o : Op) (s : State) (x : Srcs) (f : Nat → Val → Exact),
     i.row = some r → i.op? = some o → Reads r o s x → (∀ k a, special r (seen s r o) k a = some (f k a)) →
     let v := seen s r o
     let t := v.o.ty
     let g : Nat → Word → LaneRes := fun k g => roundLane v t (f k (laneVal t x.a k)) g
     let q := mkReq v { x with pops := [] }
     (∀ res, tyLanes v x t g = .ok res →
       exec i s = .next (finishOp v x
         { Res.none with rng := res.rng, sent := some { q with flags := res.flags, stage := .replied (BitVec.ofNat 512 (res.val.getD 0)) } })) ∧
     (∀ k, tyLanes v x t g = .error (.fault ⟨.overflow, 0, k⟩) → ∃ res,
       exec i s = .next (finishOp v x res) ∧ res.val = none ∧ res.effs = [] ∧ res.flags = 0 ∧
       res.sent = some { q with stage := .failed Code.overflow.num 0 k }))

/-- R234, R235, R239: `Check`. `Recon` is the one value from -P/2 up to and without P/2, P the product of the moduli of the channels, that agrees with
the residues of these channels. An element is OK, with the value of the main set, when that is legitimate and agrees with the check set; in mode 0 it
is otherwise corrected in channel i when i is the one channel without which the value is legitimate; else it is BAD.

R247 to R250: `vrns.fwd` completes with the residues of eight values held to the legitimate range, with `of` where it holds one; `vrns.rev`
with the values that its selected lanes check to, OK or corrected where one channel was wrong, and with one report of its corrections for the commit,
and raises RNS_UNC or RNS_RANGE with the lowest lane that does not check; `vrns.chk` with a nibble for each lane; the last two raise RNS_RETIRED in mode 7.

R236, R240: at the commit of a block that corrected lanes, each channel's count in `rns.cnt` rises by its corrections, to 255 at most, and one
RNS_CORR record is posted to the job's fault queue with the mask of the channels and the number of lanes.

R195: `vld` of a line that is aligned, in range and corrected completes with its lanes; `vst` holds a store of the bytes of each selected
lane, of which no other byte of the line is part. -/
def Obligations.ResidueAndLineResults : Prop :=
  ((∀ (r : List Nat) (ch : List Nat), ch.Sublist [0, 1, 2, 3, 4, 5] →
     let p : Int := (ch.map (fun c => (modulus c : Int))).prod
     2 * recon r ch < p ∧ -p ≤ 2 * recon r ch ∧ ∀ c ∈ ch, (modulus c : Int) ∣ recon r ch - (r.getD c 0 : Int)) ∧
   (List.range 7).map (fun m => (mainSet m, checkSet m)) = [([0, 1, 2, 3], [4, 5]), ([1, 2, 3, 4], [5]), ([0, 2, 3, 4], [5]), ([0, 1, 3, 4], [5]),
     ([0, 1, 2, 4], [5]), ([0, 1, 2, 3], [5]), ([0, 1, 2, 3], [4])] ∧
   (List.range 6).map modulus = [256, 255, 253, 251, 257, 263] ∧
   (∀ (mode : Nat) (r : List Nat),
     let x := recon r (mainSet mode)
     let good : Prop := legitimate x = true ∧ ∀ c ∈ checkSet mode, (modulus c : Int) ∣ x - (r.getD c 0 : Int)
     let without (i : Nat) : Int := recon r ([0, 1, 2, 3, 4, 5].erase i)
     let only (i : Nat) : Prop := i < 6 ∧ legitimate (without i) = true ∧ ∀ j, j < 6 → j ≠ i → legitimate (without j) = false
     (good → rnsCheck mode r = .ok x) ∧ (¬good → mode ≠ 0 → rnsCheck mode r = .bad) ∧
     (¬good → mode = 0 → (∀ i, only i → rnsCheck mode r = .corr i (without i)) ∧ ((∀ i, ¬only i) → rnsCheck mode r = .bad)))) ∧
  (∀ (o : Op) (s : State) (x : Srcs),
     (∀ res, Reads .vrnsFwd o s x → Quiet .vrnsFwd o s res.flags →
       let v := seen s .vrnsFwd o
       let src := Ty.ofCode (v.o.modBits 0 4)
       let N (k : Nat) : Int := if src.isSigned then signedOf src.bits (laneOf src.bits x.a k) else ((laneOf src.bits x.a k : Nat) : Int)
       let n (k : Nat) : Int := N (8 * v.o.modBits 4 3 + k)
       vecLanes v 64 8 v.zm (fun k => bitOf x.sel k) (fun k g =>
         ⟨packResidues (residuesOf (satInt (n k) (-2072737920) 2072737919)), if legitimate (n k) then 0 else fOf, g,
          !legitimate (n k) && effectivePolicy v.c.regs.ovr v.o.ovf == .trap⟩) = .ok res →
       exec (.vrnsFwd o) s = .next (finishOp v x res)) ∧
     (Reads .vrnsRev o s x →
       let v := seen s .vrnsRev o
       let t := v.o.ty
       let base := if v.o.modBit 4 then 8 else 0
       let out (k : Nat) : RnsOut := rnsCheck v.b.rns.mode (laneResidues (laneOf 64 x.a k))
       (v.b.rns.mode = 7 → exec (.vrnsRev o) s = .next (stopOp v (.fault ⟨.rnsRetired, 0, 0⟩))) ∧
       (v.b.rns.mode ≠ 7 → ∀ k, k < 8 → bitOf x.sel (base + k) = true → out k = .bad →
         (∀ j, j < k → bitOf x.sel (base + j) = true → out j ≠ .bad) →
         exec (.vrnsRev o) s = .next (stopOp v (.fault ⟨if v.o.modBit 8 then .rnsUnc else .rnsRange, 0, k⟩))) ∧
       let chan (k : Nat) : Option Nat := match out k with | .corr c _ => some c | _ => none
       let fixed := ((List.range 8).filter (fun k => bitOf x.sel (base + k))).filterMap chan
       let report : List Eff := if fixed = [] then [] else [.rnsCorr (((List.range 6).filter (fun c => decide (c ∈ fixed))).map (fun c => 2 ^ c)).sum
         fixed.length ((List.range 6).map (fun c => fixed.count c))]
       (v.b.rns.mode ≠ 7 → (∀ k, k < 8 → bitOf x.sel (base + k) = true → out k ≠ .bad) → ∀ res,
         vecLanes v t.bits t.lanes v.zm (fun k => decide (base ≤ k ∧ k < base + 8) && bitOf x.sel k)
           (fun k g => ⟨match out (k - base) with | .ok n => wrapNat t.bits n | .corr _ n => wrapNat t.bits n | .bad => 0, 0, g, false⟩) = .ok res →
         exec (.vrnsRev o) s = .next (finishOp v x { res with effs := report }))) ∧
     (Reads .vrnsChk o s x →
       let v := seen s .vrnsChk o
       (v.b.rns.mode = 7 → exec (.vrnsChk o) s = .next (stopOp v (.fault ⟨.rnsRetired, 0, 0⟩))) ∧
       (v.b.rns.mode ≠ 7 → ∃ d, exec (.vrnsChk o) s = .next (finishOp v x (Res.ofVal d)) ∧ d < 2 ^ 32 ∧
         ∀ k, k < 8 → laneOf 4 d k = if bitOf x.sel k = false then 15
           else match rnsCheck v.b.rns.mode (laneResidues (laneOf 64 x.a k)) with | .ok _ => 0 | .corr c _ => c + 1 | .bad => 14))) ∧
  (∀ (s : State) (n slot : Nat) (c0 : Ctx) (past : List Nat) (a : CAcc) (op elem mask count : Nat) (byChan : List Nat), a.s = s →
     (s.bu n).rns.cnt.length = 6 →
     let t := (commitEff n slot c0 past a (op, elem, .rnsCorr mask count byChan)).s
     (∀ c, c < 6 → (t.bu n).rns.cnt.getD c 0 = min 255 ((s.bu n).rns.cnt.getD c 0 + byChan.getD c 0)) ∧
     (((s.bu n).rns.auto = 0 ∨ ∀ c, c < 6 → byChan.getD c 0 = 0 ∨ (t.bu n).rns.cnt.getD c 0 < (s.bu n).rns.auto) → (t.bu n).rns.mode = (s.bu n).rns.mode) ∧
     ∃ p, t.hub.recs = s.hub.recs ++ [p] ∧ p.stage = 4 ∧ p.record.code = Code.rnsCorr.num ∧ p.record.async = true ∧
       p.record.extra = mask + count % 256 * 2 ^ 8 ∧ p.record.address = 0) ∧
  (∀ (o : Op) (s : State) (x : Srcs),
     let win := s.window s.my.cur.bu s.my.cur.slot
     (Reads .vld o s x → storesDone (seen s .vld o) = true →
       let v := seen s .vld o
       let off := wrapNat 64 ((x.a : Int) + (if v.o.modBit 9 then (x.b : Int) else 0) + signedOf 9 (v.o.modBits 0 9) * 64)
       (off % 64 ≠ 0 → exec (.vld o) s = .next (stopOp v (.fault ⟨.bankAlign, off, 0⟩))) ∧
       (off % 64 = 0 → win.2 < off + 64 → exec (.vld o) s = .next (stopOp v (.fault ⟨.bankRange, off, 0⟩))) ∧
       (off % 64 = 0 → off + 64 ≤ win.2 → badWordIn v.b v.ownByte (win.1 + off) 64 = none → ∀ res,
         tyLanes v x v.o.ty (fun k g => ⟨laneOf v.o.ty.bits (natOfBytes (v.bankSeen.readBytes (win.1 + off) 64)) k, 0, g, false⟩) = .ok res →
         exec (.vld o) s = .next (finishOp v x { res with loads := [(win.1 + off, 64)] }))) ∧
     (Reads .vst o s x →
       let v := seen s .vst o
       let sz := max v.o.ty.bytes 1
       let off := wrapNat 64 ((x.a : Int) + (if v.o.modBit 9 then (x.b : Int) else 0) + signedOf 9 (v.o.modBits 0 9) * 64)
       (off % 64 ≠ 0 → exec (.vst o) s = .next (stopOp v (.fault ⟨.bankAlign, off, 0⟩))) ∧
       (off % 64 = 0 → win.2 < off + 64 → exec (.vst o) s = .next (stopOp v (.fault ⟨.bankRange, off, 0⟩))) ∧
       (off % 64 = 0 → off + 64 ≤ win.2 → ∃ es, exec (.vst o) s = .next (finishOp v x { Res.none with effs := es }) ∧
         ∀ e, e ∈ es ↔ ∃ k, k < 64 / sz ∧ bitOf x.sel k = true ∧ e = .store (win.1 + off + sz * k) (bytesOfNat sz (laneOf (8 * sz) x.c k)))))

/-- R148, R196: `vldb` of a block whose bytes are in range and corrected raises FORMAT with the offset, the byte and the reason of the check that
fails, and otherwise completes with its elements, rounded, from its part on, and 0 beyond its count; at an offset out of range it raises
BANK_RANGE.

R142, R197: `vstb` raises FORMAT with reason 4, 2 or 5 for a wrong scale operand or an odd offset; otherwise, with every lane in range and
none that overflows under TRAP, it holds its header where `hdr` asks for it and one store for each selected lane: the lane divided by the scale
and rounded to the element type, the draws in ascending lanes.

What is the model's own in this: assumptions 26, 27 and 29. -/
def Obligations.DescribedBlocks : Prop :=
  (∀ (o : Op) (s : State) (x : Srcs), Reads .vldb o s x → storesDone (seen s .vldb o) = true →
     let v := seen s .vldb o
     let t := v.o.ty
     let win := s.window s.my.cur.bu s.my.cur.slot
     let off := wrapNat 64 ((x.a : Int) + if v.o.modBit 9 then (x.b : Int) else 0)
     let first := natOfBytes (v.bankSeen.readBytes (win.1 + off) 1)
     let len := if off % 2 = 0 then blockLen first else 1
     let bs := v.bankSeen.readBytes (win.1 + off) len
     (win.2 < off + 1 → exec (.vldb o) s = .next (stopOp v (.fault ⟨.bankRange, off, 0⟩))) ∧
     (off + len ≤ win.2 → badWordIn v.b v.ownByte (win.1 + off) 1 = none → badWordIn v.b v.ownByte (win.1 + off) len = none →
       (∀ e, checkBlock bs off = some e →
         exec (.vldb o) s = .next (stopOp v (.fault ⟨.format, off + e.at_, e.byte + 256 * e.reason⟩))) ∧
       (checkBlock bs off = none → ∀ res, Quiet .vldb o s res.flags →
         tyLanes v x t (fun k g =>
           let e := v.o.modBits 0 5 * t.lanes + k
           if blockCount first ≤ e then ⟨0, 0, g, false⟩ else roundLane v t (blockElem bs e) g) = .ok res →
         exec (.vldb o) s = .next (finishOp v x { res with loads := [(win.1 + off, len)] })))) ∧
  (∀ (o : Op) (s : State) (x : Srcs), Reads .vstb o s x → x.a < 2 ^ 64 → x.c < 2 ^ 64 →
     let v := seen s .vstb o
     let t := v.o.ty
     let win := s.window s.my.cur.bu s.my.cur.slot
     let fmt := v.o.modBits 0 8
     let sb := x.c % 256
     ∀ et w, fmtOf fmt = some (et, w) →
     (x.c / 256 ≠ 0 → exec (.vstb o) s = .next (stopOp v (.fault ⟨.format, x.a, offending x.c 1 7 + 1024⟩))) ∧
     (x.c / 256 = 0 → ue4m3 sb = none ∨ (fmtUnscaled fmt = true ∧ sb ≠ 0x38) →
       exec (.vstb o) s = .next (stopOp v (.fault ⟨.format, x.a, sb + 512⟩))) ∧
     (x.c / 256 = 0 → ∀ sc, ue4m3 sb = some sc → (fmtUnscaled fmt = true → sb = 0x38) →
       (x.a % 2 = 1 → exec (.vstb o) s = .next (stopOp v (.fault ⟨.format, x.a, fmt + 1280⟩))) ∧
       (x.a % 2 = 0 → v.c.regs.fmask = 0 → x.a + 2 + et.bytes * (v.o.modBits 8 2 * t.lanes + t.lanes) ≤ win.2 →
         let on := (List.range t.lanes).filter (fun k => bitOf x.sel k)
         let lane (j : Nat) : LaneRes := roundLane v et (divVal (laneVal t x.b (on.getD j 0)) (Val.ofQ sc))
           (if v.o.sr then draws j v.c.blk.rng else v.c.blk.rng)
         (∀ j, j < on.length → (lane j).trap = false) → ∃ fl,
           exec (.vstb o) s = .next (finishOp v x { Res.none with
             effs := (if v.o.modBit 10 then [.store (win.1 + x.a) (bytesOfNat 2 (fmt + 256 * sb))] else []) ++
               (List.range on.length).map (fun j => .store (win.1 + x.a + 2 + et.bytes * (v.o.modBits 8 2 * t.lanes + on.getD j 0))
                 (bytesOfNat et.bytes (lane j).bits)),
             flags := fl, rng := some (if v.o.sr then draws on.length v.c.blk.rng else v.c.blk.rng) }))))

/-- R198, R199: `vgat` and `vsca` at a base that is no multiple of the element raise BANK_ALIGN, and with `ot` BANK_RANGE with the lowest element
out of range; otherwise `vgat` completes with the elements it reads in their lanes, 0 and `oob` for one out of range, and the merge value
elsewhere, and `vsca` holds a store for each selected element in range, in ascending order.

R201 to R203: `vconf`, `visect` and `vmask` complete: `vconf` with the live lanes below a live lane that hold the same index (a bit for each
lane that has one, in a P destination); `visect` with the lanes that meet one of b, the lowest lane of b that a lane meets, or how far each list
can advance; `vmask` with the bits from lo to below hi.

What is the model's own in this: assumptions 21, 27, 28 and 152. -/
def Obligations.GatherAndSparseResults : Prop :=
  (∀ (r : Row) (o : Op) (s : State) (x : Srcs) (i : Instr), (r = .vgat ∧ i = .vgat o) ∨ (r = .vsca ∧ i = .vsca o) → Reads r o s x →
     x.a < 2 ^ 64 → (r = .vgat → storesDone (seen s r o) = true) →
     let v := seen s r o
     let t := v.o.ty
     let m := min 16 t.lanes
     let base := v.o.modBits 0 2 * m
     let win := s.window s.my.cur.bu s.my.cur.slot
     let off (e : Nat) : Nat := x.a + laneOf 32 x.b e * t.bytes
     let on (e : Nat) : Bool := bitOf x.sel (base + e) && laneOf 32 x.b e != 0xFFFFFFFF
     let fits (e : Nat) : Bool := decide (off e + t.bytes ≤ win.2)
     (x.a % t.bytes ≠ 0 → exec i s = .next (stopOp v (.fault ⟨.bankAlign, x.a, 0⟩))) ∧
     (x.a % t.bytes = 0 → v.o.modBit 9 = true → ∀ e, e < m → (on e && !fits e) = true → (∀ d, d < e → (on d && !fits d) = false) →
       exec i s = .next (stopOp v (.fault ⟨.bankRange, off e, e⟩))) ∧
     (x.a % t.bytes = 0 → (v.o.modBit 9 = false ∨ ∀ e, e < m → (on e && !fits e) = false) →
       (∀ e, r = .vgat → e < m → (on e && fits e) = true → badWordIn v.b v.ownByte (win.1 + off e) t.bytes = none) →
       let moved := (List.range m).filter (fun e => on e && fits e)
       (r = .vgat → ∀ res, Quiet r o s res.flags →
         vecLanes v t.bits t.lanes v.zm (fun k => decide (base ≤ k ∧ k < base + m) && on (k - base)) (fun k g =>
           if fits (k - base) then ⟨natOfBytes (v.bankSeen.readBytes (win.1 + off (k - base)) t.bytes), 0, g, false⟩
           else ⟨0, fOob, g, false⟩) = .ok res →
         exec i s = .next (finishOp v x { res with loads := moved.map (fun e => (win.1 + off e, t.bytes)) })) ∧
       (r = .vsca → Quiet r o s (if (List.range m).any (fun e => on e && !fits e) then fOob else 0) →
         exec i s = .next (finishOp v x { Res.none with
           effs := moved.map (fun e => .store (win.1 + off e) (bytesOfNat t.bytes (laneOf (8 * t.bytes) x.c (base + e)))),
           flags := if (List.range m).any (fun e => on e && !fits e) then fOob else 0 })))) ∧
  (∀ (o : Op) (s : State) (x : Srcs),
     let live (t : Ty) (n k : Nat) : Bool := decide (k < t.lanes) && bitOf x.sel k && laneOf t.bits n k != 2 ^ t.bits - 1
     (∀ t, (seen s .vconf o).o.ty = t → Reads .vconf o s x →
       let v := seen s .vconf o
       let same (k j : Nat) : Bool := decide (j < k) && live t x.a j && live t x.a k && laneOf t.bits x.a j == laneOf t.bits x.a k
       (∀ p, v.o.dst.reg = .p p → ∀ d, (∀ k, bitOf d k = decide (∃ j < k, same k j = true)) →
         exec (.vconf o) s = .next (finishOp v x (Res.ofVal d))) ∧
       ((∀ p, v.o.dst.reg ≠ .p p) → ∀ (f : Nat → Nat) res, (∀ k j, bitOf (f k) j = same k j) →
         tyLanes v x t (fun k g => ⟨f k, 0, g, false⟩) = .ok res → exec (.vconf o) s = .next (finishOp v x res))) ∧
     (∀ t, (seen s .visect o).o.ty = t → Reads .visect o s x →
       let v := seen s .visect o
       let meets (k j : Nat) : Bool := live t x.a k && live t x.b j && laneOf t.bits x.b j == laneOf t.bits x.a k
       let top (n : Nat) : Nat := ((List.range t.lanes).filter (live t n)).foldr (fun k m => max (laneOf t.bits n k) m) 0
       (v.o.modBits 0 2 = 0 → ∀ d, (∀ k, bitOf d k = decide (∃ j < t.lanes, meets k j = true)) →
         exec (.visect o) s = .next (finishOp v x (Res.ofVal d))) ∧
       (v.o.modBits 0 2 = 1 → ∀ res,
         vecLanes v t.bits t.lanes true (fun _ => true)
           (fun k g => ⟨((List.range t.lanes).find? (fun j => meets k j)).getD (2 ^ t.bits - 1), 0, g, false⟩) = .ok res →
         exec (.visect o) s = .next (finishOp v x res)) ∧
       (v.o.modBits 0 2 = 2 →
         let na := ((List.range t.lanes).filter (fun k => live t x.a k && decide (laneOf t.bits x.a k ≤ top x.b))).length
         let nb := ((List.range t.lanes).filter (fun k => live t x.b k && decide (laneOf t.bits x.b k ≤ top x.a))).length
         let none (n : Nat) : Prop := ∀ k, live t n k = false
         (none x.a ∨ none x.b → exec (.visect o) s = .next (finishOp v x (Res.ofVal 0))) ∧
         (¬none x.a → ¬none x.b → exec (.visect o) s = .next (finishOp v x (Res.ofVal (na + 256 * nb)))))) ∧
     (∀ res, Reads .vmask o s x →
       vecLanes (seen s .vmask o) 1 (min 64 (seen s .vmask o).o.ty.lanes) false (fun k => bitOf x.sel k)
         (fun k g => ⟨if x.a % 2 ^ 64 ≤ k ∧ k < x.b % 2 ^ 64 then 1 else 0, 0, g, false⟩) = .ok res →
       exec (.vmask o) s = .next (finishOp (seen s .vmask o) x res)))

/-- R126, R131: `qpeek`, `qcnt`, `qdrop` and `qwaitr` complete with what they read of a queue's tokens beyond the block's own pops, or wait, or
with the trap bit raise EMPTY.

R127, R128, R131, R382: `qmark` completes, holding one pop of each declared QI and its markers, once each of them has a marker of the
context's round next and the region has committed the round before, and waits until then; `qpoison` holds a poison token, and `qlast` a token
with `last`, of 8 bytes unless its source is a V register.

R112 to R114, R131, R132: `qfmt` completes with the declaration of its channel, 0 where none is declared; `rate.set` and `rate.w` hold a
write of a field; `rate.rd` sends its read of a controller, at once unless an acquire stands before it.

What is the model's own in this: assumption 34. -/
def Obligations.QueueResults : Prop :=
  (∀ (o : Op) (s : State) (x : Srcs),
     let q := bitsOf (queueImm o) 0 4
     let missing (r : Row) : State :=
       if bitOf (queueImm o) 8 then stopOp (seen s r o) (.fault ⟨.empty, 0, 0⟩) else s
     (Fires .qpeek o s x → let v := seen s .qpeek o
       (v.leftIn q = some [] → exec (.qpeek o) s = .next (missing .qpeek)) ∧
       (∀ t ts, v.leftIn q = some (t :: ts) → bitOf (queueImm o) 9 = true →
         exec (.qpeek o) s = .next (finishOp v x (Res.ofVal t.sideband))) ∧
       (∀ t ts k, v.leftIn q = some (t :: ts) → bitOf (queueImm o) 9 = false → v.o.dst.reg = .v k →
         exec (.qpeek o) s = .next (finishOp v x (Res.ofVal t.payload.toNat))) ∧
       (∀ t ts, v.leftIn q = some (t :: ts) → bitOf (queueImm o) 9 = false → (∀ k, v.o.dst.reg ≠ .v k) →
         exec (.qpeek o) s = .next (finishOp v x (Res.ofVal (t.payload.toNat % 2 ^ 64))))) ∧
     (Fires .qcnt o s x → let v := seen s .qcnt o
       (∀ e ts, bitsOf (queueImm o) 0 5 < 16 → s.qiTokens s.my.cur.bu s.my.cur.slot (bitsOf (queueImm o) 0 5) = some (e, ts) →
         exec (.qcnt o) s = .next (finishOp v x (Res.ofVal ts.length))) ∧
       (bitsOf (queueImm o) 0 5 < 16 → s.qiTokens s.my.cur.bu s.my.cur.slot (bitsOf (queueImm o) 0 5) = none →
         exec (.qcnt o) s = .next (finishOp v x (Res.ofVal 0))) ∧
       (16 ≤ bitsOf (queueImm o) 0 5 →
         exec (.qcnt o) s = .next (finishOp v x (Res.ofVal (v.b.room (qoOf v.rts s.my.cur.slot (bitsOf (queueImm o) 0 5 - 16))))))) ∧
     (Fires .qdrop o s x → let v := seen s .qdrop o
       ∀ ts n, v.leftIn q = some ts → bitsOf (queueImm o) 12 9 = n →
         let run := (ts.take n).takeWhile (fun t => !t.isBoundary v.round)
         (run.length = n ∨ run.length < ts.length → exec (.qdrop o) s = .next (finishOp v x { Res.ofVal run.length with
           effs := if run.length = 0 then [] else [.pop q run.length] })) ∧
         (run.length < n → run.length = ts.length → exec (.qdrop o) s = .next (missing .qdrop))) ∧
     (Fires .qwaitr o s x → let v := seen s .qwaitr o
       ∀ ts, v.leftIn q = some ts →
         (∀ k t, ts[k]? = some t → t.kind = .marker → t.round = v.round →
           (∀ j u, j < k → ts[j]? = some u → ¬(u.kind = .marker ∧ u.round = v.round)) →
           exec (.qwaitr o) s = .next (finishOp v x (Res.ofVal k))) ∧
         ((∀ t ∈ ts, ¬(t.kind = .marker ∧ t.round = v.round)) → exec (.qwaitr o) s = .next (missing .qwaitr)))) ∧
  (∀ (o : Op) (s : State) (x : Srcs),
     (Fires .qmark o s x → let v := seen s .qmark o
       let turn : Prop := ∀ g, s.regionOf s.my.cur.bu = some g → s.my.cur.slot = 4 ∨ g.running = none ∨ v.round = g.commits % 4096
       let next (q : Nat) : Prop := ∃ t ts, v.leftIn q = some (t :: ts) ∧ t.kind = .marker ∧ t.round = v.round
       (turn → (∀ q, q < 16 → (qiOf v.rts s.my.cur.slot q).isSome = true → next q) →
         exec (.qmark o) s = .next (finishOp v x { Res.none with
           effs := ((List.range 16).filter (fun q => (qiOf v.rts s.my.cur.slot q).isSome)).map (fun q => .pop q 1) ++ [.qmark] })) ∧
       (¬turn → exec (.qmark o) s = .next s) ∧
       (∀ q, q < 16 → (qiOf v.rts s.my.cur.slot q).isSome = true → ¬next q → exec (.qmark o) s = .next s)) ∧
     (∀ k, Fires .qpoison o s x → (seen s .qpoison o).o.dst.reg = .qo k →
       exec (.qpoison o) s = .next (finishOp (seen s .qpoison o) x (Res.ofEff (.poison k.val)))) ∧
     (∀ k, Fires .qlast o s x → (seen s .qlast o).o.dst.reg = .qo k →
       (∀ i, (seen s .qlast o).o.a.reg = .v i →
         exec (.qlast o) s = .next (finishOp (seen s .qlast o) x (Res.ofEff (.push k.val (BitVec.ofNat 512 x.a) true)))) ∧
       ((∀ i, (seen s .qlast o).o.a.reg ≠ .v i) →
         exec (.qlast o) s = .next (finishOp (seen s .qlast o) x (Res.ofEff (.push k.val (BitVec.ofNat 512 (x.a % 2 ^ 64)) true)))))) ∧
  (∀ (o : Op) (s : State) (x : Srcs),
     let q := bitsOf (queueImm o) 0 5
     (∀ im, Fires .qfmt o s x → s.imageOf s.my.cur.bu = some im → let v := seen s .qfmt o
       let word (route fmt form consumers cap : Nat) : Nat :=
         route + 2 ^ 16 * fmt + 2 ^ 24 * form + (if im.controlled route then 2 ^ 26 else 0) + 2 ^ 27 * (consumers - 1) + 2 ^ 32 * cap
       (∀ e, q < 16 → qiOf v.rts s.my.cur.slot q = some e →
         exec (.qfmt o) s = .next (finishOp v x (Res.ofVal (word e.route e.fmt e.form (im.sendsOf e.route).length e.cap)))) ∧
       (∀ e es, 16 ≤ q → qoOf v.rts s.my.cur.slot (q - 16) = e :: es →
         exec (.qfmt o) s = .next (finishOp v x (Res.ofVal (word e.route e.fmt e.form (e :: es).length e.cap)))) ∧
       (q < 16 → qiOf v.rts s.my.cur.slot q = none → exec (.qfmt o) s = .next (finishOp v x (Res.ofVal 0))) ∧
       (16 ≤ q → qoOf v.rts s.my.cur.slot (q - 16) = [] → exec (.qfmt o) s = .next (finishOp v x (Res.ofVal 0)))) ∧
     (Fires .rateSet o s x → exec (.rateSet o) s = .next (finishOp (seen s .rateSet o) x
       (Res.ofEff (.rateSet (bitsOf (queueImm o) 0 4) (bitsOf (queueImm o) 8 4) (BitVec.ofNat 64 x.a))))) ∧
     (Fires .rateRd o s x → let v := seen s .rateRd o
       let req := { mkReq v x with a := q, b := bitsOf (queueImm o) 8 4 }
       (acquireBefore v = true → exec (.rateRd o) s = .next (finishOp v x (Res.ofEff (.req req)))) ∧
       (acquireBefore v = false → exec (.rateRd o) s = .next (finishOp v x
         { Res.none with sent := some { req with hold := v.c.acquires, stage := if v.c.acquires = [] then .sent else .queued } }))) ∧
     (Fires .rateW o s x → exec (.rateW o) s = .next (finishOp (seen s .rateW o) x
       (Res.ofEff (.rateW ((seen s .rateW o).o.modBits 0 2) (BitVec.ofNat 64 x.a))))))

/-- R212 to R216: a matrix operation whose checks pass completes holding a token: sent to the node, or pushed on the QO it forwards to. The
token's word has the operation's code in [63:58], the fields of the immediate in [57:32] and the tag in [31:16] (or is the operand, in the token
form), and a TRAP policy is replaced while `ctx.ovr` says so.

R210, R211, R223, R224: `rg.push` and `rg.reset` hold their effect on a ring; `rg.info` completes with its head, tail, count and size;
`mx.wait` completes once no token names a tile of its mask, and waits until then; `mx.tag` completes with the tag and the standing of a tile.

What is the model's own in this: assumptions 36 and 37. -/
def Obligations.MatrixOperationResults : Prop :=
  (∀ (i : Instr) (r : Row) (o : Op) (s : State) (x : Srcs), i.row = some r → i.op? = some o → Fires r o s x →
     let v := seen s r o
     let imm := immValue s.my.cur v.o
     let win := s.window s.my.cur.bu s.my.cur.slot
     let org := { s.originOf s.my.cur.bu s.my.cur.slot v.c.regs.bc.toNat s.my.cur.op s.my.cur.elem with round := v.round }
     (isMxField r = true → v.o.a = Opnd.zero ∨ (∃ k, v.o.dst.reg = .qo k) ∨ (x.a < 2 ^ 64 ∧ x.a % 64 = 0 ∧ x.a + 512 ≤ win.2) →
       ∃ w : Word, w.toNat % 2 ^ 16 = 0 ∧ bitsOf w.toNat 16 16 = bitsOf imm 28 16 ∧ bitsOf w.toNat 34 24 = bitsOf imm 2 24 ∧
         bitsOf w.toNat 58 6 = r.spec.opcode - 0x80 ∧
         bitsOf w.toNat 32 2 = (if bitsOf imm 0 2 = 3 ∧ bitOf v.c.regs.ovr.toNat 3 = true
           then bitsOf v.c.regs.ovr.toNat 0 2 else bitsOf imm 0 2) ∧
         (∀ k, v.o.dst.reg = .qo k → exec i s = .next (finishOp v x (Res.ofEff (.push k.val (w.setWidth 512) false)))) ∧
         ((∀ k, v.o.dst.reg ≠ .qo k) → exec i s = .next (finishOp v x (Res.ofEff (.mxTok
           { word := w, gate := if bitOf imm 44 then some (bitsOf imm 45 3) else none,
             bankOff := if v.o.a = Opnd.zero then none else some (win.1 + x.a), fromH := s.my.cur.slot == 4, id := 0, hold := [], org := org }))))) ∧
     (isMxField r = true → v.o.a ≠ Opnd.zero → (∀ k, v.o.dst.reg ≠ .qo k) → x.a < 2 ^ 64 →
       (x.a % 64 ≠ 0 → exec i s = .next (stopOp v (.fault ⟨.bankAlign, x.a, 0⟩))) ∧
       (x.a % 64 = 0 → win.2 < x.a + 512 → exec i s = .next (stopOp v (.fault ⟨.bankRange, x.a, 0⟩)))) ∧
     (isMxToken r = true → x.a < 2 ^ 64 → (∀ k, v.o.dst.reg ≠ .qo k) →
       (∀ k, tokenCheck s s.my.cur.bu s.my.cur.slot r x.a false = some k →
         exec i s = .next (stopOp v (.fault ⟨.mxToken, x.a, k⟩))) ∧
       (tokenCheck s s.my.cur.bu s.my.cur.slot r x.a false = none → exec i s = .next (finishOp v x (Res.ofEff (.mxTok
           { word := BitVec.ofNat 64 (leavingWord v.c.regs.ovr x.a), gate := none, bankOff := none, fromH := s.my.cur.slot == 4, id := 0, hold := [], org := org }))))) ∧
     (isMxToken r = true → x.a < 2 ^ 64 → ∀ k, v.o.dst.reg = .qo k →
       exec i s = .next (finishOp v x (Res.ofEff (.push k.val (BitVec.ofNat 512 (leavingWord v.c.regs.ovr x.a)) false))))) ∧
  (∀ (o : Op) (s : State) (x : Srcs),
     let ring (v : View) : Nat := 4 * (if s.my.cur.slot = 4 then v.o.modBits 3 2 else s.my.cur.slot) + v.o.modBits 0 2
     (Fires .rgPush o s x → let v := seen s .rgPush o
       (v.o.b = Opnd.zero → exec (.rgPush o) s = .next (finishOp v x (Res.ofEff (.ringPush (ring v) (BitVec.ofNat 512 x.a) rawSideband)))) ∧
       (v.o.b ≠ Opnd.zero →
         exec (.rgPush o) s = .next (finishOp v x (Res.ofEff (.ringPush (ring v) (BitVec.ofNat 512 x.a) (BitVec.ofNat 64 x.b)))))) ∧
     (Fires .rgInfo o s x → let v := seen s .rgInfo o
       let r := v.b.node.rings[Fin.ofNat 16 (ring v)]
       exec (.rgInfo o) s = .next (finishOp v x (Res.ofVal
         (r.head + 2 ^ 10 * r.tail + 2 ^ 20 * r.count + 2 ^ 30 * (s.ringOf s.my.cur.bu (ring v)).2)))) ∧
     (Fires .rgReset o s x →
       exec (.rgReset o) s = .next (finishOp (seen s .rgReset o) x (Res.ofEff (.ringReset (ring (seen s .rgReset o)))))) ∧
     (Fires .mxWait o s x → let v := seen s .mxWait o
       let named (z : Nat) : Prop := z < 8 ∧ bitOf (v.o.modBits 0 8) z = true ∧ ((∃ t ∈ v.b.node.started, t.tok.z = z) ∨
         (∃ t ∈ v.b.node.inbox, t.tok.z = z ∧ (s.my.cur.slot = 4 → v.b.frozen ≠ [] → t.tok.fromH = true)))
       ((∀ z, ¬named z) → exec (.mxWait o) s = .next (finishOp v x Res.none)) ∧
       (∀ z, named z → exec (.mxWait o) s = .next s)) ∧
     (Fires .mxTag o s x → let v := seen s .mxTag o
       let z := v.o.modBits 0 3
       let t := v.b.node.tiles[Fin.ofNat 8 z]
       let busy : Bool := v.b.node.started.any (fun t => t.tok.z == z) || v.b.node.inbox.any (fun t => t.tok.z == z)
       exec (.mxTag o) s = .next (finishOp v x (Res.ofVal (t.tag % 2 ^ 16 + (if busy then 2 ^ 16 else 0) + (if t.failed then 2 ^ 17 else 0) +
         (if bitOf (s.const s.my.cur.bu 31) (24 + z) then 2 ^ 18 else 0) + 2 ^ 32 * (t.seq % 2 ^ 16))))))

/-- R217, R224, R292: the tokens of the inbox that meet the conditions start in inbox order: its gate is open, no earlier token and no started operation
names its tile or shares a ring, its rings hold its tiles or have room, and the acquires before it are answered; in a frozen bank unit only handler
tokens start, and only these are waited for. A token that starts reads the entries of its rings and leaves the inbox; until then it stays.

R207, R208, R217 to R222, R235 to R238, R241, R245, R246, R252: a started operation retires once its ring has room for what it writes. It leaves the
node; its tile holds what the rule of its kind leaves, or, where it fails, what it held with `failed` set; the tile takes its tag and counts it; the
rows of a drain or of `mx.rev` stand in their order at the tail of ring A, with raw sidebands, or from the bank offset; ring A and ring B are popped of
one tile each, unless kept; its flags join the owner's; its corrections and its failure are reported with its tag; its source pulses; and no other
tile, no other ring and no other byte of the bank changes.

R221, R375, R376: when the residue of an `mx.imma` mismatches and no rollback answers it, the operation retires with its tile failed and unchanged, and
ARITH_CHK is reported to its owner.

What is the model's own in this: assumptions 37, 64 and 141. -/
def Obligations.MatrixNodeSteps : Prop :=
  (∀ (s : State) (x : InTok), let n := s.my.arg.n
     let k := s.my.arg.m
     let node := (s.bu n).node
     let cfg := s.mxCfg n
     node.inbox[k]? = some x →
     let meets (t u : MxTok) : Prop := u.z = t.z ∨ ∃ r, r ∈ ringsOf cfg t ∧ r ∈ ringsOf cfg u
     let counts (u : MxTok) : Prop := (s.bu n).frozen = [] ∨ u.fromH = true
     let ok (j : Nat) (x : InTok) : Prop := node.inbox[j]? = some x ∧ x.gated = none ∧ counts x.tok ∧
       (∀ i u, i < j → node.inbox[i]? = some u → counts u.tok → ¬meets x.tok u.tok) ∧ (∀ u ∈ node.started, ¬meets x.tok u.tok) ∧
       (∀ r ∈ ringsOf cfg x.tok, if x.tok.fillsRing then (s.bu n).ringCount r + 8 ≤ (s.ringOf n r).2 else 8 ≤ (s.bu n).ringCount r) ∧
       (∀ id ∈ x.tok.hold, ∀ q ∈ s.hub.reqs, q.id ≠ id)
     let may : Prop := ok k x ∧ ∀ j y, j < k → ¬ok j y
     let entry (ring i : Nat) : Line × Word :=
       let (base, e) := s.ringOf n ring
       let j := (node.rings[Fin.ofNat 16 ring].head + i) % max e 1
       (lineOfBytes ((s.bu n).bank.readBytes (ringEntryAddr base j) 64), BitVec.ofNat 64 ((s.bu n).bank.readNat (ringSbAddr base j) 8))
     (may → ∃ t y, exec .mxTokenStart s = .next t ∧ (t.bu n).node.inbox = node.inbox.eraseIdx k ∧
       (t.bu n).node.started = node.started ++ [y] ∧ y.tok = x.tok ∧ y.rnsMode = (s.bu n).rns.mode ∧
       (y.guardOn = true ↔ (s.bu n).rns.gdis.getLsbD x.tok.z = false) ∧
       (x.tok.kind ≤ 1 → y.rowsA = (List.range x.tok.rows).map (entry (4 * zOwner cfg x.tok.z + x.tok.ka)) ∧
         y.rowsB = (List.range x.tok.cols).map (entry (4 * zOwner cfg x.tok.z + x.tok.kb))) ∧
       (x.tok.kind = 4 → x.tok.bankOff = none → y.rowsA = (List.range 8).map (entry (4 * zOwner cfg x.tok.z + x.tok.ka))) ∧
       (∀ a, x.tok.kind = 4 → x.tok.bankOff = some a →
         y.rowsA.map (·.1) = (List.range 8).map (fun i => lineOfBytes ((s.bu n).bank.readBytes (a + 64 * i) 64))) ∧
       (t.bu n).node.tiles = node.tiles ∧ (t.bu n).node.rings = node.rings ∧ (t.bu n).bank = (s.bu n).bank) ∧
     (¬may → exec .mxTokenStart s = .next s)) ∧
  (∀ (s : State) (x : Started), let n := s.my.arg.n
     let k := s.my.arg.m
     let tk := x.tok
     let cfg := s.mxCfg n
     let zi := Fin.ofNat 8 tk.z
     let own := zOwner cfg tk.z
     let tile := (s.bu n).node.tiles[zi]
     let inj : Option (Nat × Nat) := if bitsOf (s.bu n).rns.injs 12 8 = 0 then none
       else some (bitsOf (s.bu n).rns.injs 0 3, bitsOf (s.bu n).rns.injs 3 9)
     let r := retired (zRns cfg tk.z) x inj tile
     (s.bu n).node.started[k]? = some x → (s.bu n).bank.wf = true → s.my.arg.flag = false → tile.z.length = 64 → tile.side.length = 64 →
     x.rowsA.length = (if tk.kind ≤ 1 then tk.rows else if tk.kind = 4 then 8 else 0) → (tk.kind ≤ 1 → x.rowsB.length = tk.cols) →
     (tk.fillsRing = true → ((s.bu n).node.rings[Fin.ofNat 16 (4 * own + tk.ka)]).tail < (s.ringOf n (4 * own + tk.ka)).2) →
     (retireReady s n x = false → exec .mxTokenRetire s = .next s) ∧
     (retireReady s n x = true → ∃ t, exec .mxTokenRetire s = .next t ∧
       (t.bu n).node.started = (s.bu n).node.started.eraseIdx k ∧ (t.bu n).node.inbox = (s.bu n).node.inbox ∧
       (t.bu n).ev.pulses = (s.bu n).ev.pulses ++ [(tk.z, .node n, s.ms.past (.node n))] ∧
       let new := (t.bu n).node.tiles[zi]
       new.tag = tk.tag ∧ new.seq = (tile.seq + 1) % 2 ^ 16 ∧ new.guard = r.guard ∧
       (∀ q, q < 64 → new.z.getD q 0 = r.z q ∧ new.side.getD q 0 = r.side q) ∧
       ((t.bu n).rns.mode = (s.bu n).rns.mode → new.failed = r.failed ∧ ∀ j, j ≠ zi → (t.bu n).node.tiles[j] = (s.bu n).node.tiles[j]) ∧
       (t.ctx n own).regs.flags = (s.ctx n own).regs.flags ||| BitVec.ofNat 8 r.flags ∧
       (let mask := (((List.range 6).filter (fun c => decide (c ∈ r.fixed))).map (fun c => 2 ^ c)).sum
        let tag := tk.tag * 2 ^ 32
        t.hub.recs.map (fun p => (p.record.code, p.record.address, p.record.extra, p.stage)) =
         s.hub.recs.map (fun p => (p.record.code, p.record.address, p.record.extra, p.stage)) ++
         (if r.fixed = [] then [] else [(Code.rnsCorr.num, 0, (mask + r.fixed.length % 256 * 2 ^ 8 + tag) % 2 ^ 48, 4)]) ++
         (match r.fail with
           | none => []
           | some (c, d) => [(c.num, if c = .bankEcc then d else 0, ((if c = .bankEcc then 0 else d) + tag) % 2 ^ 48, 0)])) ∧
       (∀ ring : Fin 16, let a := (s.bu n).node.rings[ring]
         let b := (t.bu n).node.rings[ring]
         let pops := (if tk.kind ≤ 1 ∧ tk.keepA = false ∧ ring.val = 4 * own + tk.ka then 1 else 0) +
           (if tk.kind ≤ 1 ∧ tk.keepB = false ∧ ring.val = 4 * own + tk.kb then 1 else 0) +
           (if tk.kind = 4 ∧ tk.bankOff = none ∧ tk.keepA = false ∧ ring.val = 4 * own + tk.ka then 1 else 0)
         let fills : Bool := tk.fillsRing && ring.val == 4 * own + tk.ka && r.rows.length == 8
         b.count = a.count + (if fills then 8 else 0) - 8 * pops ∧
         b.tail = (if fills then (a.tail + 8) % (s.ringOf n ring.val).2 else a.tail) ∧
         b.head = (if pops = 0 then a.head else (a.head + 8 * pops) % max (s.ringOf n ring.val).2 1)) ∧
       (let row (i : Nat) : List Byte := lineBytes (r.rows.getD i 0)
        let (base, e) := s.ringOf n (4 * own + tk.ka)
        let at_ (i : Nat) : Nat := (((s.bu n).node.rings[Fin.ofNat 16 (4 * own + tk.ka)]).tail + i) % e
        (r.rows = [] → ∀ a, (t.bu n).bank.read a = (s.bu n).bank.read a) ∧
        (r.rows ≠ [] → tk.bankOff = none →
         (∀ i, i < 8 → (t.bu n).bank.readBytes (ringEntryAddr base (at_ i)) 64 = row i ∧
           (t.bu n).bank.readNat (ringSbAddr base (at_ i)) 8 = rawSideband.toNat) ∧
         (∀ a, (∀ i, i < 8 → ¬(ringEntryAddr base (at_ i) ≤ a ∧ a < ringEntryAddr base (at_ i) + 64) ∧
           ¬(ringSbAddr base (at_ i) ≤ a ∧ a < ringSbAddr base (at_ i) + 8)) → (t.bu n).bank.read a = (s.bu n).bank.read a)) ∧
        (∀ off, r.rows ≠ [] → tk.bankOff = some off →
         (∀ i, i < 8 → (t.bu n).bank.readBytes (off + 64 * i) 64 = row i) ∧
         (∀ a, a < off ∨ off + 512 ≤ a → (t.bu n).bank.read a = (s.bu n).bank.read a))) ∧
       (let v := (s.bu n).rns.injs
        let spent : Prop := tk.kind = 1 ∧ inj ≠ none ∧ x.rnsMode ≠ 7 ∧ tile.failed = false ∧ x.bad = none ∧ r.fail = none
        (spent → (t.bu n).rns.injs = if bitsOf v 12 8 = 255 then v else v - 2 ^ 12) ∧ (¬spent → (t.bu n).rns.injs = v)))) ∧
  (∀ (s : State) (x : Started), let n := s.my.arg.n
     let k := s.my.arg.m
     let zi := Fin.ofNat 8 x.tok.z
     let tile := (s.bu n).node.tiles[zi]
     (s.bu n).node.started[k]? = some x → s.my.arg.flag = true → x.tok.kind = 1 → x.rnsMode ≠ 7 → x.bad = none → tile.failed = false →
     (callRollback s n (s.tagRound n x.tok.org.slot x.tok.org.round)).1 = false →
     ∃ t p, exec .mxTokenRetire s = .next t ∧ (t.bu n).node.started = (s.bu n).node.started.eraseIdx k ∧
       (t.bu n).node.tiles[zi] = { tile with failed := true, tag := x.tok.tag, seq := (tile.seq + 1) % 2 ^ 16 } ∧
       t.hub.recs = s.hub.recs ++ [p] ∧ p.record.code = Code.arithChk.num ∧ p.record.extra = x.tok.tag * 2 ^ 32 % 2 ^ 48)

/-- R229, R230: `ev.loop` holds a counter's start, its trip count (the ceiling of (bound - start) / step, 0 where that is negative) and its step,
and raises LOOP for a step of 0; `ev.pulse` and `ev.arm` hold their effects; `ev.rd` completes with a counter's value and what remains of it, or
with what a target has pending; `ev.wait` completes once its counter has nothing left, and waits until then.

R225, R226, R227: the pulses of a cycle, one of each source at most, tick the counters they are the source of: what remains falls by 1 and, unless
that ends it, the value steps; a pulse of a counter with nothing left is ignored. Each tick sets its counter's bit in the latch of every term whose mask
holds it, and pending firings release gated tokens. Further pulses of a source are those of later cycles. A term that stands complete fires first.

R225, R227, R230, R270: each complete term of a target clears its latch and fires once: `pend` rises, to 255 at most, and `lost` is set by a firing
beyond; each firing starts the streams configured on the target; and of the gated tokens of a target the oldest are released, one for each pending
firing. The next `ev.pulse` of a bank unit goes out as a pulse of its S source.

What is the model's own in this: assumption 66. -/
def Obligations.EventResultsAndSteps : Prop :=
  (∀ (o : Op) (s : State) (x : Srcs),
     (Fires .evLoop o s x → let v := seen s .evLoop o
       let start := signedOf 32 x.a
       let bound := signedOf 32 x.b
       let step := signedOf 32 x.c
       (step = 0 → exec (.evLoop o) s = .next (stopOp v (.fault ⟨.loop, 0, 0⟩))) ∧
       (∀ n : Nat, step ≠ 0 →
         (0 < step → (n : Int) = max 0 ⌈((bound - start : Int) : Rat) / (step : Rat)⌉) → (step < 0 → (n : Int) = max 0 ⌈((start - bound : Int) : Rat) / (-step : Rat)⌉) →
         exec (.evLoop o) s = .next (finishOp v x
           (Res.ofEff (.evLoop (v.o.modBits 0 4) (v.o.modBits 4 5) (BitVec.ofNat 32 x.a) n (BitVec.ofNat 32 x.c)))))) ∧
     (Fires .evPulse o s x →
       exec (.evPulse o) s = .next (finishOp (seen s .evPulse o) x (Res.ofEff (.evPulse ((seen s .evPulse o).o.modBits 0 3))))) ∧
     (Fires .evArm o s x → let v := seen s .evArm o
       exec (.evArm o) s = .next (finishOp v x
         (Res.ofEff (.evArm (v.o.modBits 0 3) (v.o.modBits 3 2) (BitVec.ofNat 16 x.a) (v.o.modBit 5))))) ∧
     (Fires .evRd o s x → let v := seen s .evRd o
       let c := v.b.ev.ctrs[Fin.ofNat 16 (v.o.modBits 0 4)]
       let t := v.b.ev.tgts[Fin.ofNat 8 (v.o.modBits 0 3)]
       (v.o.modBit 4 = false → exec (.evRd o) s = .next (finishOp v x (Res.ofVal (c.val.toNat + 2 ^ 32 * c.rem)))) ∧
       (v.o.modBit 4 = true → exec (.evRd o) s = .next (finishOp v x (Res.ofVal (t.pend + if t.lost then 2 ^ 8 else 0))))) ∧
     (Fires .evWait o s x → let v := seen s .evWait o
       let c := v.b.ev.ctrs[Fin.ofNat 16 (v.o.modBits 0 4)]
       (c.rem = 0 → exec (.evWait o) s = .next (c.rels.foldl (fun u r => synchronise u (.ctx s.my.cur.bu s.my.cur.slot) 1 r.1 1 r.2)
         (finishOp v x Res.none))) ∧
       (0 < c.rem → exec (.evWait o) s = .next s))) ∧
  (∀ (s : State) (n : Nat), n = s.my.arg.n →
     let ev := (s.bu n).ev
     (ev.complete = true → ∃ t, exec .evTick s = .next t ∧ t.bu n = s.bu n) ∧
     (ev.complete = false → (s.bu n).node.inbox.length ≤ 16 → ∃ t, exec .evTick s = .next t ∧
       let new := (t.bu n).ev
       let ticks (k : Fin 16) : Prop := ev.ctrs[k].rem ≠ 0 ∧ ∃ p ∈ ev.pulses, p.1 = ev.ctrs[k].src
       (∀ src, new.pulses.filter (fun p => p.1 = src) = (ev.pulses.filter (fun p => p.1 = src)).drop 1) ∧
       (∀ k : Fin 16, let c := ev.ctrs[k]
         let d := new.ctrs[k]
         (ticks k → d.rem = c.rem - 1 ∧ d.val = (if c.rem = 1 then c.val else c.val + c.step) ∧ d.step = c.step ∧ d.src = c.src ∧
           ∃ p ∈ ev.pulses, p.1 = c.src ∧ d.rels = c.rels ++ [p.2]) ∧
         (¬ticks k → d = c)) ∧
       (∀ (i : Fin 8) (j : Fin 4), new.tgts[i].masks = ev.tgts[i].masks ∧ new.tgts[i].lost = ev.tgts[i].lost ∧
         ∀ k : Fin 16, (new.tgts[i].latches[j].getLsbD k = true ↔
           ev.tgts[i].latches[j].getLsbD k = true ∨ (ticks k ∧ ev.tgts[i].masks[j].getLsbD k = true))) ∧
       GatesOpen (fun i => ev.tgts[i].pend) (s.bu n).node.inbox (fun i => new.tgts[i].pend) (t.bu n).node.inbox)) ∧
  (∀ (s : State), let n := s.my.arg.n
     let ev := (s.bu n).ev
     let fired (i : Fin 8) : Nat := ([0, 1, 2, 3].filter (fun k : Fin 4 => ev.tgts[i].masks[k] ≠ 0 ∧ ev.tgts[i].latches[k] = ev.tgts[i].masks[k])).length
     ((s.bu n).node.inbox.length ≤ 16 → (∀ i : Fin 8, ev.tgts[i].pend ≤ 255) → ∃ t, exec .targetFiring s = .next t ∧
       (∀ i : Fin 8, let a := ev.tgts[i]
         let b := (t.bu n).ev.tgts[i]
         b.lost = (a.lost || decide (255 < a.pend + fired i)) ∧ b.masks = a.masks ∧
         (∀ k : Fin 4, b.latches[k] = if a.masks[k] ≠ 0 ∧ a.latches[k] = a.masks[k] then 0 else a.latches[k])) ∧
       GatesOpen (fun i => min 255 (ev.tgts[i].pend + fired i)) (s.bu n).node.inbox (fun i => (t.bu n).ev.tgts[i].pend) (t.bu n).node.inbox ∧
       (∀ k : Fin 16, let p := s.strmProg n k.val
         let a := (s.bu n).strms[k]
         let b := (t.bu n).strms[k]
         (∀ i : Fin 8, p.mode ≠ 0 → p.trig = 1 → p.st = i.val → a.pend ≤ 255 → b.pend = min 255 (a.pend + fired i) ∧
           b.lost = (a.lost || decide (255 < a.pend + fired i)) ∧ b.run = a.run) ∧
         (p.mode = 0 ∨ p.trig ≠ 1 → b = a)) ∧
       (t.bu n).ev.ctrs = ev.ctrs ∧ (t.bu n).ev.pulses = ev.pulses) ∧
     (∀ k rest, ev.sQueue = k :: rest → ∃ t, exec .sSourcePulse s = .next t ∧ (t.bu n).ev.sQueue = rest ∧
       (t.bu n).ev.pulses = ev.pulses ++ [(24 + k, .node n, [])]) ∧
     (ev.sQueue = [] → ∃ t, exec .sSourcePulse s = .next t ∧ t.bu n = s.bu n))

/-- R91, R92, R99, R240, R251, R252, R392: `spr.rd` completes with the committed value of the register its selector names, in its own slot unless
`other` names one; `spr.wr`, `frz`, `thaw` and `mx.deg` hold their effects; `rns.inj` holds its injection in test mode, and raises TEST_MODE
outside it.

R91, R92, R99, R102: a commit's write of a special register: `ctx.flags`, `ctx.fmask`, `ctx.ovr`, `ctx.seed` and `ctx.expsplit` take their
bits, `w` is held to the range of `wmin` and `wmax`, a register of an executing context is written only by slot H and only while that context is
FAULTED, and a read-only register is unchanged.

What is the model's own in this: assumptions 31, 33 and 65. -/
def Obligations.SpecialRegisterResults : Prop :=
  (∀ (o : Op) (s : State) (x : Srcs),
     let slotOf (sel : Nat) : Nat := if bitOf sel 15 then bitsOf sel 13 2 else s.my.cur.slot
     (Fires .sprRd o s x → let v := seen s .sprRd o
       let sel := immValue s.my.cur v.o
       exec (.sprRd o) s = .next (finishOp v x (Res.ofVal
         (sprRead s s.my.cur.bu (slotOf sel) (bitsOf sel 0 12) (if bitOf sel 15 then none else some v.c.blk))))) ∧
     (Fires .sprWr o s x → let v := seen s .sprWr o
       let sel := immValue s.my.cur v.o
       exec (.sprWr o) s = .next (finishOp v x (Res.ofEff (.spr ⟨slotOf sel, bitsOf sel 0 12, BitVec.ofNat 64 x.a⟩)))) ∧
     (Fires .frz o s x → exec (.frz o) s = .next (finishOp (seen s .frz o) x (Res.ofEff (.freeze ((seen s .frz o).o.modBits 0 3 == 2))))) ∧
     (Fires .thaw o s x → exec (.thaw o) s = .next (finishOp (seen s .thaw o) x (Res.ofEff (.thaw ((seen s .thaw o).o.modBits 0 3 == 2))))) ∧
     (Fires .mxDeg o s x → exec (.mxDeg o) s = .next (finishOp (seen s .mxDeg o) x (Res.ofEff (.mxDeg ((seen s .mxDeg o).o.modBits 0 3))))) ∧
     (Fires .rnsInj o s x → let v := seen s .rnsInj o
       (s.out.testMode = true →
         exec (.rnsInj o) s = .next (finishOp v x (Res.ofEff (.inject (bitsOf (immValue s.my.cur v.o) 0 20))))) ∧
       (s.out.testMode = false → exec (.rnsInj o) s = .next (stopOp v (.fault ⟨.testMode, 0, 0⟩))))) ∧
  (∀ (s : State) (n slot : Nat) (v : Word), slot < 5 →
     let w (num : Nat) : State := sprWrite s n slot ⟨slot, num, v⟩
     let c := s.ctx n slot
     (w 2).ctx n slot = { c with regs := { c.regs with flags := v.setWidth 8 } } ∧
     (w 3).ctx n slot = { c with regs := { c.regs with fmask := v.setWidth 8 } } ∧
     (w 4).ctx n slot = { c with regs := { c.regs with ovr := v.setWidth 4 } } ∧
     (w 5).ctx n slot = { c with regs := { c.regs with seed := v } } ∧
     (w 7).ctx n slot = { c with regs := { c.regs with expsplit := min v.toNat 16 } } ∧
     (c.wmin ≤ c.wmax → c.wmax ≤ 255 → ((w 0xC0).ctx n slot).w = (max (c.wmin : Int) (min v.toInt c.wmax)).toNat) ∧
     (∀ num, num ∈ [1, 6, 8, 10, 11, 0xC3, 0xC4, 0xC5] → (w num).ctx n slot = c) ∧
     (∀ k num, num < 0x100 → k ≠ slot → k < 5 → (s.ctx n k).st ≠ .faulted → sprWrite s n slot ⟨k, num, v⟩ = s))

/-- R64, R264, R277, R297, R298, R306, R310, R326, R331, R370, R406: an operation whose request leaves at its commit holds it: its sources, its
fields and its `sync`; a handle is bits [31:0] of its operand.

R188, R275, R301: a memory operation on device memory holds its request at its offset, DEV_ALIGN for one that is misaligned; on the bank, at
the byte of the bank, BANK_ALIGN or BANK_RANGE for one that is misaligned or out of range of the window it names.

R66, R67, R274, R275, R290, R292: `ldm` and `prf` send their requests as they issue, or hold them behind an acquire of their own block; `stm`
holds its request; an offset of `ldm` or `stm` that is misaligned raises DEV_ALIGN, and `prf` never faults. -/
def Obligations.RequestResults : Prop :=
  (∀ (i : Instr) (r : Row) (o : Op) (s : State) (x : Srcs), i.row = some r → i.op? = some o → Fires r o s x →
     let v := seen s r o
     let q := mkReq v x
     (isPlain r = true → exec i s = .next (finishOp v x (Res.ofEff (.req q)))) ∧
     (isPlainSync r = true → exec i s = .next (finishOp v x (Res.ofEff (.req { q with sync := v.o.modBits 0 3 })))) ∧
     (r = .msg ∨ r = .ceProg → exec i s = .next (finishOp v x (Res.ofEff (.req { q with a := x.a % 2 ^ 32, sync := v.o.modBits 0 3 })))) ∧
     (∀ n, handleSync r v.o = some n → exec i s = .next (finishOp v x (Res.ofEff (.req { q with a := x.a % 2 ^ 32, sync := n })))) ∧
     (r = .hbAlloc → exec i s = .next (finishOp v x
       (Res.ofEff (.req { q with c := if v.o.c = Opnd.zero then 2 ^ 64 else x.c % 2 ^ 64 })))) ∧
     (r = .cstep → exec i s = .next (finishOp v x (Res.ofEff (.cstep none)))) ∧
     (r = .cstepTo → exec i s = .next (finishOp v x (Res.ofEff (.cstep (some (x.a % 2 ^ 8))))))) ∧
  (∀ (i : Instr) (r : Row) (o : Op) (s : State) (x : Srcs), i.row = some r → i.op? = some o → Fires r o s x → isMemoryOp r = true →
     let v := seen s r o
     let q := { mkReq v x with sync := v.o.modBits 0 3 }
     let w := if r = .cas2 then 16 else if r = .barInit ∨ r = .barArrive ∨ r = .barDrop ∨ r = .barWait then 64 else v.o.ty.bytes
     let off := wrapNat 64 ((x.a : Int) + if v.o.modBit 10 then (x.b : Int) else 0)
     let win := s.window s.my.cur.bu (v.o.modBits 7 2)
     (v.o.modBit 9 = true → off % w ≠ 0 → exec i s = .next (stopOp v (.fault ⟨.devAlign, off, 0⟩))) ∧
     (v.o.modBit 9 = true → off % w = 0 → exec i s = .next (finishOp v x (Res.ofEff (.req { q with a := off })))) ∧
     (v.o.modBit 9 = false → off % w ≠ 0 → exec i s = .next (stopOp v (.fault ⟨.bankAlign, off, 0⟩))) ∧
     (v.o.modBit 9 = false → off % w = 0 → win.2 < off + w → exec i s = .next (stopOp v (.fault ⟨.bankRange, off, 0⟩))) ∧
     (v.o.modBit 9 = false → off % w = 0 → off + w ≤ win.2 →
       exec i s = .next (finishOp v x (Res.ofEff (.req { q with a := win.1 + off }))))) ∧
  (∀ (o : Op) (s : State) (x : Srcs),
     let off (v : View) (size : Nat) : Nat :=
       wrapNat 64 ((x.a : Int) + (if v.o.modBit 10 then (x.b : Int) else 0) + signedOf 8 (v.o.modBits 0 8) * size)
     (Fires .ldm o s x → let v := seen s .ldm o
       let size := v.o.ty.bytes
       let q := { mkReq v x with a := off v size }
       (off v size % size ≠ 0 → exec (.ldm o) s = .next (stopOp v (.fault ⟨.devAlign, off v size, 0⟩))) ∧
       (off v size % size = 0 → acquireBefore v = true → exec (.ldm o) s = .next (finishOp v x (Res.ofEff (.req q)))) ∧
       (off v size % size = 0 → acquireBefore v = false → exec (.ldm o) s = .next (finishOp v x
         { Res.none with sent := some { q with hold := v.c.acquires, stage := if v.c.acquires = [] then .sent else .queued } }))) ∧
     (Fires .stm o s x → let v := seen s .stm o
       let size := v.o.ty.bytes
       (off v size % size ≠ 0 → exec (.stm o) s = .next (stopOp v (.fault ⟨.devAlign, off v size, 0⟩))) ∧
       (off v size % size = 0 → exec (.stm o) s = .next (finishOp v x (Res.ofEff (.req { mkReq v x with a := off v size }))))) ∧
     (Fires .prf o s x → let v := seen s .prf o
       let q := { mkReq v x with a := off v 1 }
       (acquireBefore v = true → exec (.prf o) s = .next (finishOp v x (Res.ofEff (.req q)))) ∧
       (acquireBefore v = false → exec (.prf o) s = .next (finishOp v x
         { Res.none with sent := some { q with hold := v.c.acquires, stage := if v.c.acquires = [] then .sent else .queued } }))))

/-- R69, R70, R73, R74: a control operation that its predicate selects and whose condition holds fires: `exit` gives the block its successor,
`call`, `ret` and `halt` its rider, `yield` its yield. A second exit or rider raises EXIT; `call` on a full stack and `ret` on an empty one raise
STACK.

R69, R73: a control operation that its predicate does not select, or whose condition does not hold, goes by; the last exit of a block to go
by with none fired raises EXIT. -/
def Obligations.ControlResults : Prop :=
  (∀ (i : Instr) (r : Row) (o : Op) (s : State) (bits : Nat) (x : Srcs), i.row = some r → i.op? = some o →
     readPred (seen s r o).c (seen s r o).o.pred = .ok bits → selBits bits (seen s r o).o.psense % 2 = 1 →
     readSrcs (seen s r o) (selBits bits (seen s r o).o.psense) = .ok x →
     let v := seen s r o
     let done (f : Blk → Blk) : Host.Outcome State Fault Refusal := .next (s.modCtx s.my.cur.bu s.my.cur.slot (fun c =>
       { c with blk := { f v.c.blk with done := mapSet s.my.cur.op (s.my.cur.elem + 1) v.c.blk.done } }))
     let raised (code : Code) : Host.Outcome State Fault Refusal := .next (stopOp v (.fault ⟨code, 0, 0⟩))
     let cond := match o.imm28 with | some n => bitsOf n.toNat 16 2 | none => o.modBits 0 2
     let target := match o.imm28 with | some n => n.toNat % 2 ^ 16 | none => x.b % 2 ^ 16
     (cond = 0 ∨ (cond = 1 ∧ x.a % 2 = 1) ∨ (1 < cond ∧ x.a % 2 = 0)) →
     (r = .exit ∨ r = .exitRegisterTarget →
       (v.c.blk.fired = none → exec i s = done (fun b => { b with fired := some (s.my.cur.op, target) })) ∧
       (v.c.blk.fired ≠ none → exec i s = raised .exit)) ∧
     (r = .call ∨ r = .callRegisterTarget →
       (v.c.blk.rider = none → v.c.regs.depth < 8 → exec i s = done (fun b => { b with rider := some (.call target) })) ∧
       (v.c.blk.rider = none → 8 ≤ v.c.regs.depth → exec i s = raised .stack) ∧ (v.c.blk.rider ≠ none → exec i s = raised .exit)) ∧
     (r = .ret →
       (v.c.blk.rider = none → 0 < v.c.regs.depth → exec i s = done (fun b => { b with rider := some .ret })) ∧
       (v.c.blk.rider = none → v.c.regs.depth = 0 → exec i s = raised .stack) ∧ (v.c.blk.rider ≠ none → exec i s = raised .exit)) ∧
     (r = .halt → (v.c.blk.rider = none → exec i s = done (fun b => { b with rider := some .halt })) ∧
       (v.c.blk.rider ≠ none → exec i s = raised .exit)) ∧
     (r = .yield → exec i s = done (fun b => { b with yielded := true }))) ∧
  (∀ (i : Instr) (r : Row) (o : Op) (s : State) (bits : Nat), i.row = some r → i.op? = some o →
     r ∈ [.exit, .exitRegisterTarget, .call, .callRegisterTarget, .ret, .halt, .yield, .trap, .brk] →
     readPred (seen s r o).c (seen s r o).o.pred = .ok bits →
     let v := seen s r o
     let cond := match o.imm28 with | some n => bitsOf n.toNat 16 2 | none => o.modBits 0 2
     let blk := { v.c.blk with done := mapSet s.my.cur.op (s.my.cur.elem + 1) v.c.blk.done }
     let lastExit : Prop := (r = .exit ∨ r = .exitRegisterTarget) ∧ blk.fired = none ∧
       ∀ j k, v.instrs[j]? = some k → (k.row = some .exit ∨ k.row = some .exitRegisterTarget) → opFinished v.instrs blk j = true
     (selBits bits v.o.psense % 2 = 0 ∨ ∃ x, readSrcs v (selBits bits v.o.psense) = .ok x ∧
       ((cond = 1 ∧ x.a % 2 = 0) ∨ (1 < cond ∧ x.a % 2 = 1))) →
     (lastExit → exec i s = .next (stopOp v (.fault ⟨.exit, 0, 0⟩))) ∧
     (¬lastExit → exec i s = .next (s.modCtx s.my.cur.bu s.my.cur.slot (fun c => { c with blk := blk }))))

/-- R87: `trap` and `brk` that fire raise Fault(TRAP) and Fault(BREAK), with bits [15:0] of their immediate in `extra`, and their block aborts. -/
def Obligations.TrapResults : Prop :=
  ∀ (i : Instr) (r : Row) (o : Op) (s : State) (bits : Nat) (x : Srcs), i.row = some r → i.op? = some o → r = .trap ∨ r = .brk →
    readPred (seen s r o).c (seen s r o).o.pred = .ok bits → selBits bits (seen s r o).o.psense % 2 = 1 →
    readSrcs (seen s r o) (selBits bits (seen s r o).o.psense) = .ok x →
    ∀ n, o.imm28 = some n → (bitsOf n.toNat 16 2 = 0 ∨ (bitsOf n.toNat 16 2 = 1 ∧ x.a % 2 = 1) ∨ (1 < bitsOf n.toNat 16 2 ∧ x.a % 2 = 0)) →
    ∃ t, exec i s = .next t ∧
      t = stopOp (seen s r o) (.fault ⟨if r = .trap then .trap else .brk, 0, n.toNat % 2 ^ 16⟩) ∧
      (s.my.cur.slot < 5 → (t.ctx s.my.cur.bu s.my.cur.slot).blk = Blk.idle)

/-- R33, R73, R89: an `eret` that its predicate selects gives its block the rider of its action, and raises EXIT beside another rider; `nop` and
`imm` have no effect but to have executed.

R75, R76: `rep` gives the operation after it its count: the immediate's, or a register's, which raises REPEAT when it is above 32, leaves a
row, or is above 1 with an unstepped temporary destination. The operation after it is then to execute that many elements.

What is the model's own in this: assumption 12. -/
def Obligations.ReturnsAndRepeats : Prop :=
  (∀ (i : Instr) (r : Row) (o : Op) (s : State) (n : BitVec 32),
     let v := seen s r o
     let done (f : Blk → Blk) : Host.Outcome State Fault Refusal := .next (s.modCtx s.my.cur.bu s.my.cur.slot (fun c =>
       { c with blk := { f v.c.blk with done := mapSet s.my.cur.op (s.my.cur.elem + 1) v.c.blk.done } }))
     (∀ bits act, (r = .eretResume ∧ i = .eretResume o ∧ act = 0) ∨ (r = .eretPoison ∧ i = .eretPoison o ∧ act = 1) ∨
         (r = .eretEsc ∧ i = .eretEsc o ∧ act = 2) →
       readPred v.c v.o.pred = .ok bits →
       (selBits bits v.o.psense % 2 = 0 → exec i s = done id) ∧
       (selBits bits v.o.psense % 2 = 1 → v.c.blk.rider = none → exec i s = done (fun b => { b with rider := some (.eret act) })) ∧
       (selBits bits v.o.psense % 2 = 1 → v.c.blk.rider ≠ none → exec i s = .next (stopOp v (.fault ⟨.exit, 0, 0⟩)))) ∧
     (s.my.cur.elem = 0 → exec .nop s = done id ∧ exec (.imm n) s = done id)) ∧
  (∀ (o : Op) (s : State) (bits : Nat) (target : Op) (t : Instr),
     let v := seen s .rep o
     let k := s.my.cur.op + 1
     readPred v.c v.o.pred = .ok bits → v.instrs[s.my.cur.op]? = some (.rep o) → v.instrs[k]? = some t → t.op? = some target →
     let counted (n : Nat) : Prop := ∃ u, exec (.rep o) s = .next u ∧
       elemCount v.instrs (u.ctx s.my.cur.bu s.my.cur.slot).blk k = some n ∧ (u.ctx s.my.cur.bu s.my.cur.slot).regs = v.c.regs ∧
       (u.ctx s.my.cur.bu s.my.cur.slot).blk.effs = v.c.blk.effs
     let room (x : Opnd) : Option Nat := match x.reg with
       | .g i => some (32 - i.val) | .t i => some (16 - i.val) | .v i => some (8 - i.val) | .p i => some (8 - i.val) | .c i => some (31 - i.val)
       | _ => none
     let fits (n : Nat) : Prop := ∀ j x, (j, x) ∈ [(3, target.dst), (2, target.a), (1, target.b), (0, target.c)] → v.o.modBit j = true →
       n ≤ (room x).getD 0
     (selBits bits v.o.psense % 2 = 0 → counted 1) ∧
     (selBits bits v.o.psense % 2 = 1 → v.o.modBit 4 = false → counted (v.o.modBits 5 6)) ∧
     (selBits bits v.o.psense % 2 = 1 → v.o.modBit 4 = true → ∀ x, readSrcs v (2 ^ 64 - 1) = .ok x → x.a < 2 ^ 64 →
       (x.a ≤ 32 → fits x.a → (1 < x.a → (∃ i, target.dst.reg = .t i) → v.o.modBit 3 = true) → counted x.a) ∧
       (32 < x.a ∨ ¬fits x.a ∨ (1 < x.a ∧ (∃ i, target.dst.reg = .t i) ∧ v.o.modBit 3 = false) →
         exec (.rep o) s = .next (stopOp v (.fault ⟨.repeat_, 0, 0⟩)))))

/-- R284, R287, R288, R290, R293, R294: a fence of `ctx` scope has no effect; a release fence of another scope holds its release; an acquire fence
completes once the loads, pops and acquires before it have been served, no load or bank fill of the matrix node is out and no acquire of an
earlier block is unanswered, synchronising its context with what they returned, and a full fence, which waits for the writes of earlier blocks as
well, does both; until then it waits.

What is the model's own in this: assumptions 44 and 140. -/
def Obligations.FenceResults : Prop :=
  ∀ (i : Instr) (r : Row) (o : Op) (s : State) (x : Srcs), i.row = some r → i.op? = some o →
    r = .fence ∨ r = .fenceAcq ∨ r = .fenceRls → Fires r o s x →
    let v := seen s r o
    let scope := o.modBits 0 3
    let served : Prop := loadsServed v = true ∧ s.loadOut s.my.cur.bu s.my.cur.slot v.c.blk = false ∧
      (s.bu s.my.cur.bu).fillOut s.my.cur.slot = false ∧ v.c.acquires = []
    let performed : Prop := ∀ id ∈ v.c.issued, s.outstanding id = false
    let acquired := fenceAcquire v scope s
    let pruned := fencePrune (.ctx s.my.cur.bu s.my.cur.slot) scope acquired
    (scope = 0 → exec i s = .next (finishOp v x Res.none)) ∧
    (scope ≠ 0 → r = .fenceRls → exec i s = .next (finishOp v x (Res.ofEff (.fence false true scope)))) ∧
    (scope ≠ 0 → r = .fenceAcq →
      (served → exec i s = .next (finishOp (seen acquired r o) x (Res.ofEff (.fence true false scope)))) ∧ (¬served → exec i s = .next s)) ∧
    (scope ≠ 0 → r = .fence →
      (served → performed → exec i s = .next (finishOp (seen pruned r o) x (Res.ofEff (.fence true true scope)))) ∧
      (¬(served ∧ performed) → exec i s = .next s))

/-- R25, R32, R61, R399, R400: a step runs the decoded instruction. An operation that has issued is fetched from its block, decoded and
executed, with the immediate of an `imm` before it; a turn of the agenda is executed with its operands; and firmware executes the command it
decodes at the head of the host's queue.

What is the model's own in this: assumptions 1 and 2. -/
def Obligations.StepRunsDecoded : Prop :=
  ∀ (s : State) (i : Instr),
    (∀ c rest w, s.my.issueQ = c :: rest → c.bu < Config.bankUnits → (s.ctx c.bu c.slot).st = .active → s.wordAt c = some w →
      decodeWord w = .ok i →
      step s = exec i { s with my := { s.my with issueQ := rest, cur := { c with immHi := s.immBefore c } } }) ∧
    (∀ a rest, s.my.issueQ = [] → s.my.agenda = .event i a :: rest →
      step s = exec i { s with my := { s.my with agenda := rest, arg := a } }) ∧
    (∀ rest, s.my.issueQ = [] → s.my.agenda = .command :: rest → s.cmdReady = true → s.fetchCommand = .ok i →
      step s = exec i { s with my := { s.my with agenda := rest, arg := { Arg.zero with cmd := cmdOfNat s.cmdEntry } } })

/-- R25, R36, R61: the steps that run no instruction: an operation whose context has stopped, or whose block is gone, goes by; a word that is no
instruction is refused; a cursor of a bank unit that does not exist faults; a command that is not there to be served leaves the state as it is,
and an entry that is no command is completed as BADCMD or BADARG.

What is the model's own in this: assumption 1. -/
def Obligations.StepsWithoutInstruction : Prop :=
  ∀ (s : State),
    (∀ c rest, s.my.issueQ = c :: rest →
      (Config.bankUnits ≤ c.bu → step s = .fault .noSuchUnit) ∧
      (c.bu < Config.bankUnits → (s.ctx c.bu c.slot).st ≠ .active → step s = .next { s with my := { s.my with issueQ := rest } }) ∧
      (c.bu < Config.bankUnits → s.wordAt c = none → step s = .next { s with my := { s.my with issueQ := rest } }) ∧
      (∀ w e, c.bu < Config.bankUnits → (s.ctx c.bu c.slot).st = .active → s.wordAt c = some w → decodeWord w = .error e →
        step s = .refused (.notAnInstruction w.toNat))) ∧
    (∀ rest, s.my.issueQ = [] → s.my.agenda = .command :: rest → s.cmdReady = false →
      step s = .next { s with my := { s.my with agenda := rest } }) ∧
    (∀ rest e, s.my.issueQ = [] → s.my.agenda = .command :: rest → s.cmdReady = true → s.fetchCommand = .error e →
      step s = .next ({ s with my := { s.my with agenda := rest } }.rejectCommand e))

/-- R393, R396, R398, R404, R405, R409: whatever step a sound state takes, the next state is sound: its memories stay in canonical form, and what is
outside stays within what the spec allows it.

What is the model's own in this: assumptions 3, 5 and 7. -/
def Obligations.StepKeepsSound : Prop := ∀ (s t : State), Sound s → step s = .next t → Sound t

/-- R398, R401, R409: the state after reset is sound.

R55, R226, R241, R398, R401, R405: after reset nothing is armed, placed, running or pending, every context is IDLE, `tick` is 0, the link is
down and unready, and no operation is to execute.

What is the model's own in this: assumptions 3 to 6 and 130. -/
def Obligations.ResetState : Prop :=
  (Sound State.reset) ∧
  (State.reset.hub.images = [] ∧ State.reset.hub.regions = [] ∧ State.reset.hub.launches = [] ∧ State.reset.hub.jobs = [] ∧
   State.reset.hub.reqs = [] ∧ State.reset.ms.pending = [] ∧ State.reset.net.flits = [] ∧ State.reset.out.tick = 0 ∧
   State.reset.out.ready = false ∧ State.reset.out.locked = false ∧ State.reset.out.lanes = 0 ∧ State.reset.out.hbell = 0 ∧
   State.reset.my.issueQ = [] ∧
   ∀ n, (State.reset.bu n).region = none ∧ (State.reset.bu n).bank = [] ∧ (State.reset.bu n).hq = [] ∧ (State.reset.bu n).rns.mode = 0 ∧
     ∀ k, (State.reset.ctx n k).st = .idle ∧ (State.reset.ctx n k).blk.running = false)

/-- R27, R28, R33, R58, R61 to R66, R85, R190, R290: what executing an operation may change. An operation that executes, waits or faults leaves every
register of every context, every byte of every memory, every queue and flit, the node, the events, the streams, the counters and all that is
outside as they were: its effects are held for the commit.

R61, R63: whatever an operation does, the next state is of its context's bank unit: every other bank unit is as it was.

What is the model's own in this: assumption 1. -/
def Obligations.OperationsHoldTheirEffects : Prop :=
  (∀ (i : Instr) (s t : State), (∃ o, i.op? = some o) ∨ i = .nop ∨ (∃ v, i = .imm v) → exec i s = .next t → Holds s t) ∧
  (∀ (i : Instr) (s t : State), (∃ o, i.op? = some o) ∨ i = .nop ∨ (∃ v, i = .imm v) → exec i s = .next t →
     ∀ n, n ≠ s.my.cur.bu → t.bu n = s.bu n)

/-- R29, R61, R62, R63, R66, R67: an element that executes leaves in its block the pops of its sources, the write of its destination, its other
effects and its flags, in slot order, and counts as executed; a temporary it names is written at once; a detached result is written by no effect. -/
def Obligations.ExecutedElements : Prop :=
  ∀ (v : View) (x : Srcs) (r : Res), v.s.ctx v.cur.bu v.cur.slot = { v.c with blk := (v.s.ctx v.cur.bu v.cur.slot).blk } →
    r.sent = none → r.loads = [] → inSlotOrder v.c.blk.effs →
    let t := finishOp v x r
    let c := t.ctx v.cur.bu v.cur.slot
    let new := x.pops ++ (match r.val with | some n => if v.r.detached then [] else dstEffs v.o.dst n | none => []) ++ r.effs ++
      (if r.flags = 0 then [] else [.flags r.flags])
    inSlotOrder c.blk.effs ∧ mapGetD v.cur.op c.blk.done 0 = v.cur.elem + 1 ∧ c.blk.rng = r.rng.getD v.c.blk.rng ∧
    (c.blk.effs.filter (fun e => e.1 == v.cur.op && e.2.1 == v.cur.elem)).map (·.2.2) =
      (v.c.blk.effs.filter (fun e => e.1 == v.cur.op && e.2.1 == v.cur.elem)).map (·.2.2) ++ new ∧
    c.blk.effs.filter (fun e => !(e.1 == v.cur.op && e.2.1 == v.cur.elem)) =
      v.c.blk.effs.filter (fun e => !(e.1 == v.cur.op && e.2.1 == v.cur.elem)) ∧
    c.regs = v.c.regs ∧
    (∀ i n, v.o.dst.reg = .t i → r.val = some n → v.r.detached = false → c.blk.temps[i] = .full (BitVec.ofNat 512 n))

/-- R58: a source register is read by its state: a full one gives its value, a pending one waits or with `!` raises EMPTY, and a failed one raises
EMPTY; a temporary is waited for until its writer has resolved. -/
def Obligations.SourceReads : Prop :=
  ∀ (v : View) (m : Bool) (n : Nat),
    (∀ i : Fin 32, let r := v.c.regs.g[i]
      (r.st = .full → readOpnd v ⟨.g i, m⟩ n = .ok r.val.toNat) ∧
      (∀ id, r.st = .pending id → readOpnd v ⟨.g i, m⟩ n = .error (if m then faultCode .empty else .wait)) ∧
      (r.st = .failed → readOpnd v ⟨.g i, m⟩ n = .error (faultCode .empty))) ∧
    (∀ i : Fin 8, let r := v.c.regs.v[i]
      (r.st = .full → readOpnd v ⟨.v i, m⟩ n = .ok r.val.toNat) ∧
      (∀ id, r.st = .pending id → readOpnd v ⟨.v i, m⟩ n = .error (if m then faultCode .empty else .wait)) ∧
      (r.st = .failed → readOpnd v ⟨.v i, m⟩ n = .error (faultCode .empty))) ∧
    (∀ i : Fin 16,
      (∀ l, v.c.blk.temps[i] = .full l → readOpnd v ⟨.t i, m⟩ n = .ok l.toNat) ∧
      (v.c.blk.temps[i] = .unwritten → readOpnd v ⟨.t i, m⟩ n = .error (if m then faultCode .empty else .wait)) ∧
      (v.c.blk.temps[i] = .resolved → readOpnd v ⟨.t i, m⟩ n = .error (faultCode .empty))) ∧
    (∀ k : Fin 16, ∀ e, v.s.qiTokens v.cur.bu v.cur.slot k.val = some (e, []) → ∀ p, popsBefore v k.val = some p →
      readOpnd v ⟨.qi k, m⟩ n = .error (if m then faultCode .empty else .wait)) ∧
    readOpnd v ⟨.p 0, m⟩ n = .ok (2 ^ 64 - 1)

/-- R58, R61, R95 to R97: a cycle of a bank unit whose queued tokens have their residues, once the adjustments of the last have taken effect. Slot
H issues its ready operations whenever it has any; otherwise the context with the earliest pass among those that are ready and not parked, whose pass
rises by 65536 divided by its weight, modulo 2^24; with none, nothing issues. While a context freezes its bank unit no cycle begins.

R43, R44, R46: a fetch that completes makes its block resident and pinned, and its context ACTIVE. It replaces blocks that are not pinned, least
recently entered first, one at a time until the block fits. A word of it that cannot be corrected raises CFG_ECC instead.

R43: once a context has entered a resident block, that block is pinned and no other block of its slot is; of a context that has halted or is
cancelled none is; and the handler blocks stay as they are.

What is the model's own in this: assumptions 1, 48 and 151. -/
def Obligations.IssueAndFetch : Prop :=
  (∀ (s : State), let n := s.my.arg.n
     ((s.bu n).stopping = true → exec .issueCycle s = .next s) ∧ ((s.bu n).stopping = false →
     (∀ k, k < 5 → refetchBad s n k = none) → s.my.arg.flag = false → s.my.arg.flag2 = false →
     (∀ e, ∀ t ∈ (s.bu n).queue e, t.res = residue15 t.payload) →
     let s1 := (tickBu (endCycle s n) n).modBu n (countSoft s.my.arg.m)
     (readyOps s1 n 4 ≠ [] → ∃ t, exec .issueCycle s = .next t ∧ t.my.issueQ = s.my.issueQ ++ readyOps s1 n 4 ∧
       ∀ k, k < 4 → (t.ctx n k).pass = (s.ctx n k).pass) ∧
     (∀ k, readyOps s1 n 4 = [] → k ∈ candidates s1 n →
       (∀ j ∈ candidates s1 n, j ≠ k → earlierPass (s.ctx n j).pass (s.ctx n k).pass = false ∧
         (j < k → earlierPass (s.ctx n k).pass (s.ctx n j).pass = true)) →
       ∃ t, exec .issueCycle s = .next t ∧ t.my.issueQ = s.my.issueQ ++ readyOps s1 n k ∧
         (t.ctx n k).pass = ((s.ctx n k).pass + 65536 / (s1.ctx n k).w) % 2 ^ 24 ∧ (t.ctx n k).blk.running = true) ∧
     (readyOps s1 n 4 = [] → candidates s1 n = [] → ∃ t, exec .issueCycle s = .next t ∧ t.my.issueQ = s.my.issueQ ∧
       ∀ k, k < 4 → (t.ctx n k).pass = (s.ctx n k).pass))) ∧
  (∀ (s : State) (f : Nat × Nat) (im : Image) (b : Block), let n := s.my.arg.n
     let slot := s.my.arg.m
     (s.bu n).fetches.find? (fun f => f.1 == slot) = some f → s.imageOf n = some im → s.block n slot f.2 = some b → slot < 5 →
     (s.ctx n slot).st = .fetch → (s.ctx n slot).regs.bc.toNat = f.2 →
     (s.hub.badSlots.contains (s.imageId n, (im.blocks.findIdx? (· == b)).getD 0) = false → ∃ t, exec .blockFetchComplete s = .next t ∧
       t.resident n slot f.2 = true ∧ (t.ctx n slot).st = .active ∧ (t.ctx n slot).regs = (s.ctx n slot).regs ∧
       (t.bu n).fetches.find? (fun f => f.1 == slot) = none ∧
       (s.resident n slot f.2 = false → ∃ kept dropped new, (t.bu n).cache = kept ++ [new] ∧ new.slot = slot ∧ new.block = f.2 ∧
         new.frames = b.frames ∧ new.pinned = true ∧ (s.bu n).cache.Perm (kept ++ dropped) ∧ (∀ c ∈ dropped, c.pinned = false) ∧
         (∀ c ∈ dropped, ∀ d ∈ kept, d.pinned = false → c.stamp ≤ d.stamp) ∧
         (dropped ≠ [] → ∃ c ∈ dropped, 512 < (kept.map (·.frames)).sum + c.frames + b.frames) ∧
         ((kept.map (·.frames)).sum + b.frames ≤ 512 ∨ ∀ d ∈ kept, d.pinned = true))) ∧
     (s.hub.badSlots.contains (s.imageId n, (im.blocks.findIdx? (· == b)).getD 0) = true → slot < 4 → s.hasHandler n = true →
       ∃ t, exec .blockFetchComplete s = .next t ∧ (t.ctx n slot).st = .faulted ∧
         ∃ p ∈ (t.bu n).hq ++ (t.bu n).faultWait, p.slot = slot ∧ p.record.code = Code.cfgEcc.num ∧ p.record.block = f.2)) ∧
  (∀ (s : State) (n slot : Nat), slot < 4 →
     let entered := (enterBlock s n slot).bu n
     let left := (unpinSlot s n slot).bu n
     (s.resident n slot (s.ctx n slot).regs.bc.toNat = true →
       (∀ c ∈ entered.cache, c.slot = slot → (c.pinned = true ↔ c.image = s.imageId n ∧ c.block = (s.ctx n slot).regs.bc.toNat)) ∧
       entered.cache.filter (fun c => c.slot == 4) = (s.bu n).cache.filter (fun c => c.slot == 4)) ∧
     (∀ c ∈ left.cache, c.slot = slot → c.pinned = false) ∧
     left.cache.filter (fun c => c.slot != slot) = (s.bu n).cache.filter (fun c => c.slot != slot))

/-- R64, R69, R112, R387: a block of a slot whose operations have all executed, and whose effects have room, commits once no block before it in the
order H, 0, 1, 2, 3 can; it raises EXIT when no `exit` has fired, RATE at a `rate.set` that breaks a bound, and NONREP in a dual run whose round it
would make non-replayable; until then it waits.

R62, R64, R65, R69, R70, R88, R93, R154, R155, R190: the effects of a commit whose block writes registers, flags and bank bytes alone and goes on
to a block that is resident: the registers take its writes in slot order, its flags join, the generator steps on, `bc` names the successor, `call`
saves it and `ret` takes it back; the bank's bytes are those of its stores in slot order and no others; and no register of another context, and no
byte of another bank or of the memories outside, changes.

What is the model's own in this: assumptions 13, 43, 142, 143 and 144. -/
def Obligations.BlockCommits : Prop :=
  (∀ (s : State), let n := s.my.arg.n
     let slot := s.my.arg.m
     let c := s.ctx n slot
     let raised (op : Nat) (code : Code) : Host.Outcome State Fault Refusal := .next (s.raise n slot c.regs.bc.toNat op 0 ⟨code, 0, 0⟩)
     let now : Prop := commitReady s n slot = true ∧ (slot < 4 → commitReady s n 4 = false ∧ ∀ k, k < slot → commitReady s n k = false)
     slot < 5 →
     (¬now → exec .blockCommit s = .next s) ∧
     (now → c.blk.fired = none → exec .blockCommit s = raised 0 .exit) ∧
     (now → ∀ op target, c.blk.fired = some (op, target) →
       (∀ k, rateFault (s.bu n) slot c.blk = some k → exec .blockCommit s = raised k .rate) ∧
       (rateFault (s.bu n) slot c.blk = none → dualFault s n slot = true → exec .blockCommit s = raised 0 .nonrep) ∧
       (rateFault (s.bu n) slot c.blk = none → dualFault s n slot = false → exec .blockCommit s = .next (commitBlock s n slot target)))) ∧
  (∀ (s : State) (op target : Nat), let n := s.my.arg.n
     let slot := s.my.arg.m
     let c := s.ctx n slot
     commitNow s n slot = true → c.blk.fired = some (op, target) → slot < 4 → dualFault s n slot = false →
     (∀ e ∈ c.blk.list, (∃ i v, e = .regG i v) ∨ (∃ i v, e = .regV i v) ∨ (∃ i v, e = .regP i v) ∨ (∃ f, e = .flags f) ∨ (∃ a bs, e = .store a bs)) →
     c.blk.rider = none ∨ (∃ k, c.blk.rider = some (.call k)) ∨ c.blk.rider = some .ret →
     let written (r : Regs) (e : Eff) : Regs :=
       match e with
       | .regG i v => { r with g := r.g.set i ⟨v, .full⟩ }
       | .regV i v => { r with v := r.v.set i ⟨v, .full⟩ }
       | .regP i v => if i.val = 0 then r else { r with p := r.p.set i ⟨v, .full⟩ }
       | .flags f => { r with flags := r.flags ||| BitVec.ofNat 8 f }
       | _ => r
     let r := c.blk.list.foldl written c.regs
     let bc : BitVec 16 := match c.blk.rider with
       | some (.call k) => BitVec.ofNat 16 k
       | some .ret => c.regs.stack[Fin.ofNat 8 (c.regs.depth - 1)]
       | _ => BitVec.ofNat 16 target
     s.resident n slot bc.toNat = true →
     ∃ t, exec .blockCommit s = .next t ∧
       (t.ctx n slot).st = .active ∧ (t.ctx n slot).blk = Blk.idle ∧
       (t.ctx n slot).regs = { r with
         rng := c.blk.rng, ovr := if bitOf c.regs.ovr.toNat 2 then c.regs.ovr &&& 7#4 else c.regs.ovr, bc := bc, round := c.regs.round % 4096,
         depth := match c.blk.rider with | some (.call _) => c.regs.depth + 1 | some .ret => c.regs.depth - 1 | _ => c.regs.depth,
         stack := match c.blk.rider with
           | some (.call _) => c.regs.stack.set (Fin.ofNat 8 c.regs.depth) (BitVec.ofNat 16 target) | _ => c.regs.stack } ∧
       (t.bu n).bank = c.blk.list.foldl (fun m e => match e with | .store a bs => m.writeBytes a bs | _ => m) (s.bu n).bank ∧
       (∀ k, k < 5 → k ≠ slot → (t.ctx n k).regs = (s.ctx n k).regs) ∧
       (∀ m k, m ≠ n → (t.bu m).bank = (s.bu m).bank ∧ (t.ctx m k).regs = (s.ctx m k).regs) ∧
       t.ms.mem = s.ms.mem ∧ t.out = s.out)

/-- R55, R57, R66, R85, R189, R379: taking a synchronous fault in a context slot of a bank unit with handler blocks: the block aborts with no trace, the
context is FAULTED with its registers as they were, and its record, with the fault's code, address and `extra` and the place of its operation,
enters the handler queue, which holds eight, in the order of the faults, and among those of one cycle in slot order; no other context and no byte of a
memory changes.

R55, R57, R85, R86, R377: without handler blocks a fault escalates at once: its record is put under delivery and the context is STOPPED; and a
fault in slot H ends the handler run, puts HFAULT under delivery with the faulting code in `extra`, and the record that was being handled after it. -/
def Obligations.TakingAFault : Prop :=
  (∀ (s : State) (n slot block op elem : Nat) (f : Flt), slot < 4 → s.hasHandler n = true →
     let t := s.raise n slot block op elem f
     let r := mkRec s (s.originOf n slot block op elem) f.code false f.address f.extra
     (t.ctx n slot).st = .faulted ∧ (t.ctx n slot).regs = (s.ctx n slot).regs ∧ (t.ctx n slot).blk = Blk.idle ∧
     (t.ctx n slot).fblk = (s.ctx n slot).blk.effs ∧
     let q : QRec := ⟨r, slot, (s.bu n).cycle⟩
     let old := (s.bu n).hq ++ (s.bu n).faultWait
     let new := (t.bu n).hq ++ (t.bu n).faultWait
     let later (x : QRec) : Prop := x.record.async = false ∧ x.cycle = (s.bu n).cycle ∧ slot < x.slot
     new.Perm (q :: old) ∧ ((∀ x ∈ old, ¬later x) → new = old ++ [q]) ∧
     (∀ l x, old = l ++ [x] → (∀ y ∈ l, ¬later y) → later x → new = l ++ [q, x]) ∧
     ((s.bu n).hq.length ≤ 8 → (t.bu n).hq.length ≤ 8) ∧ r.code = f.code.num ∧ r.slot = slot ∧ r.block = block ∧ r.op = op ∧ r.async = false ∧
     (∀ k, k < 5 → k ≠ slot → t.ctx n k = s.ctx n k) ∧ (∀ m, m ≠ n → t.bu m = s.bu m) ∧
     (t.bu n).bank = (s.bu n).bank ∧ t.ms = s.ms ∧ t.out = s.out) ∧
  (∀ (s : State) (n slot block op elem : Nat) (f : Flt),
     let t := s.raise n slot block op elem f
     let o := s.originOf n slot block op elem
     (slot < 4 → s.hasHandler n = false →
       (t.ctx n slot).st = .stopped ∧ (t.ctx n slot).blk = Blk.idle ∧ (t.ctx n slot).regs = (s.ctx n slot).regs ∧
       (∃ p, p.record = mkRec s o f.code false f.address f.extra ∧ t.hub.recs = s.hub.recs ++ [p] ∧ p.stage = 1) ∧ t.ms = s.ms) ∧
     (slot = 4 → f.code ≠ .bankEcc → ∀ h, (s.bu n).hrun = some h → h.slot < 4 →
       (t.ctx n 4).st = .idle ∧ (t.bu n).hrun = none ∧ (h.async = false → (t.ctx n h.slot).st = .stopped) ∧
       (∃ p q, t.hub.recs = s.hub.recs ++ [p, q] ∧ p.record.code = Code.hfault.num ∧ p.record.extra = f.code.num ∧ q.record = h.record) ∧ t.ms = s.ms))

/-- R85, R379: a handler run starts when slot H is free and a record waits: slot H takes the oldest record and enters handler block 0, at once when
it is resident and after its fetch otherwise, and the queue takes in a fault that waited; no other context changes. A fault of this cycle still waits.

R55, R89, R379: the return from a fault. A handler block without other effects that commits with an `eret` ends its run: after `eret.resume` and
`eret.poison` a context whose fault was synchronous is ACTIVE again with its registers as they were, to run its block once more, and one whose
record was asynchronous is as it was; after `eret.esc` the record is put under delivery and the context is STOPPED.

What is the model's own in this: assumptions 42, 137, 143 and 150. -/
def Obligations.HandlerRuns : Prop :=
  (∀ (s : State) (q : QRec) (rest : List QRec), let n := s.my.arg.n
     (s.bu n).hrun = none → (s.bu n).hq = q :: rest → s.hasHandler n = true → s.block n 4 0 ≠ none →
     (q.record.async = false → q.cycle = (s.bu n).cycle → exec .handlerRunStart s = .next s) ∧
     (q.record.async = true ∨ q.cycle ≠ (s.bu n).cycle →
     ∃ t, exec .handlerRunStart s = .next t ∧ (t.bu n).hrun = some { record := q.record, slot := q.slot, async := q.record.async } ∧
       (t.ctx n 4).st = (if s.resident n 4 0 then .active else .fetch) ∧ (t.ctx n 4).regs.bc = 0 ∧ (t.ctx n 4).blk = Blk.idle ∧
       (t.bu n).hq ++ (t.bu n).faultWait = rest ++ (s.bu n).faultWait ∧ (∀ k, k < 4 → t.ctx n k = s.ctx n k) ∧ t.ms = s.ms)) ∧
  (∀ (s : State) (act : Nat) (h : HRun), let n := s.my.arg.n
     act < 3 → s.my.arg.m = 4 → commitReady s n 4 = true → (s.ctx n 4).blk.fired ≠ none → (s.ctx n 4).blk.effs = [] → blockNonrep s n 4 = false →
     (s.ctx n 4).blk.rider = some (.eret act) → (s.bu n).hrun = some h → h.slot < 4 →
     ∃ t, exec .blockCommit s = .next t ∧ (t.bu n).hrun = none ∧ (t.ctx n 4).st = .idle ∧
       (act = 0 ∨ act = 1 → h.async = false → s.resident n h.slot (s.ctx n h.slot).regs.bc.toNat = true →
         (t.ctx n h.slot).st = .active ∧ (t.ctx n h.slot).regs = (s.ctx n h.slot).regs) ∧
       (act = 0 ∨ act = 1 → h.async = true → t.ctx n h.slot = s.ctx n h.slot ∧ t.hub.recs = s.hub.recs) ∧
       (act = 2 → (t.ctx n h.slot).st = .stopped ∧ ∃ p, t.hub.recs = s.hub.recs ++ [p] ∧ p.record = h.record ∧ p.stage = 1))

/-- R103, R104, R105: in each cycle the period counters of a placed and unfrozen bank unit count, and one that reaches its period finds `occ`, the
clamp state of the weights and `pstat` as they stand when the cycle begins. The step of an active controller uses what was found: its accumulator and
its adjustment follow the formula of R103, its period begins again, and its adjustment goes to the consumer and, negated, to the producer: to a
context of the same bank unit for the next cycle, to another by a rate flit. Without a step due, and on a frozen bank unit, nothing changes.

R104, R105, R125, R135: a flit of the rate class that every edge on its way grants arrives, and the grants of these edges in its row, its direction
and its class fall by one: an adjustment joins those that take effect in the next cycle; a status flit sets `pstat`; a credit flit returns credits, up
to the capacity. A flit without a grant stays. Where the adjustments of a cycle take effect, those of one context are summed, its weight is held to
its range once, `ctx.lastadj` is the sum held to 255, and each controller of another bank unit is answered with the status of the weight.

R135: a receiver at a die edge grants eight more flits of a class when these, what it has granted and what stands in its buffer are within what it
granted at placement, 32 for tokens and 8 for the rate class; no other grant changes.

What is the model's own in this: assumption 93. -/
def Obligations.RateClass : Prop :=
  ((∀ (s : State) (n k : Nat), let c := (s.bu n).ctl k
     let d := ((tickBu s n).bu n).ctl k
     let found := (s.occ n (k / 16) (k % 16), (s.ctx n (k / 16)).pstat, s.pstatOf n k)
     (k ∈ s.activeCtls n → (s.bu n).frozen = [] →
       d = { c with count := c.count + 1, sample := if c.sample = none ∧ c.running ≤ c.count + 1 then some found else c.sample }) ∧
     (k ∉ s.activeCtls n ∨ (s.bu n).frozen ≠ [] → d = c)) ∧
   (∀ (c : Ctx), (bitOf c.pstat 0 = true ↔ c.w = c.wmin) ∧ (bitOf c.pstat 1 = true ↔ c.w = c.wmax)) ∧
   ∀ (s : State), let n := s.my.arg.n
     let k := s.my.arg.m
     let c := (s.bu n).ctl k
     let clamp (v lo hi : Int) : Int := max lo (min v hi)
     (∀ occ weights pstat, k ∈ s.activeCtls n → (s.bu n).frozen = [] → c.sample = some (occ, weights, pstat) →
       let e : Int := (occ : Int) - c.set
       let acc1 := clamp (c.acc + e) (-c.imax) c.imax
       let adj1 := ⌊((c.kp * e + c.ki * acc1 : Int) : Rat) / 16⌋
       let held : Prop := (0 < adj1 ∧ (bitOf weights 1 = true ∨ bitOf pstat 0 = true)) ∨ (adj1 < 0 ∧ (bitOf weights 0 = true ∨ bitOf pstat 1 = true))
       ∃ t adj, exec .rateStep s = .next t ∧
         (held → (t.bu n).ctl k = { c with adj := adj, count := c.count - c.running, running := c.period, sample := none } ∧
           adj = clamp ⌊((c.kp * e + c.ki * c.acc : Int) : Rat) / 16⌋ (-255) 255) ∧
         (¬held → (t.bu n).ctl k = { c with acc := acc1, adj := adj, count := c.count - c.running, running := c.period, sample := none } ∧
           adj = clamp adj1 (-255) 255) ∧
         (t.bu n).adjNext = (s.bu n).adjNext ++ [⟨k / 16, adj, n, k⟩] ++
           (match s.producerOf n (k / 16) (k % 16) with | some (m, ps) => if m = n then [⟨ps, -adj, n, k⟩] else [] | none => []) ∧
         t.net.ctl.map (fun f => (f.src, f.dest, f.msg)) = s.net.ctl.map (fun f => (f.src, f.dest, f.msg)) ++
           (match s.producerOf n (k / 16) (k % 16) with | some (m, ps) => if m = n then [] else [(n, m, .rate ps (-adj) n k)] | none => []) ∧
         ∀ j, (t.ctx n j) = s.ctx n j) ∧
     (k ∉ s.activeCtls n ∨ (s.bu n).frozen ≠ [] ∨ c.sample = none → exec .rateStep s = .next s)) ∧
  (let clamp (v lo hi : Int) : Int := max lo (min v hi)
   (∀ (s : State) (f : CtlFlit), s.net.ctl.filter (fun g => g.id == s.my.arg.n) = [f] →
     let way := edgesBetween (buCol f.src) (buCol f.dest)
     let rest := s.net.ctl.filter (fun g => g.id != f.id)
     let granted : Prop := ∀ e ∈ way.1, 0 < s.net.granted e (buY f.src) way.2 true
     let spent (t : State) : Prop := ∀ e row east rate, row < 64 → t.net.granted e row east rate =
       s.net.granted e row east rate - (if e ∈ way.1 ∧ row = buY f.src ∧ east = way.2 ∧ rate = true then 1 else 0)
     (∀ slot adj bu entry, f.msg = .rate slot adj bu entry →
       (¬granted → exec .rateFlitArrival s = .next s) ∧
       (granted → ∃ t, exec .rateFlitArrival s = .next t ∧ (t.bu f.dest).adjNext = (s.bu f.dest).adjNext ++ [⟨slot, adj, bu, entry⟩] ∧
         t.net.ctl = rest ∧ spent t ∧ t.net.flits = s.net.flits ∧ ∀ n k, t.ctx n k = s.ctx n k)) ∧
     (∀ entry bits, f.msg = .status entry bits →
       (¬granted → exec .statusFlitArrival s = .next s) ∧
       (granted → ∃ t, exec .statusFlitArrival s = .next t ∧ (t.bu f.dest).ctl entry = { (s.bu f.dest).ctl entry with pstat := bits } ∧
         t.net.ctl = rest ∧ spent t ∧ t.net.flits = s.net.flits)) ∧
     (∀ entry k, f.msg = .credit entry k →
       (¬granted → exec .creditFlitArrival s = .next s) ∧
       (granted → ∃ t, exec .creditFlitArrival s = .next t ∧
         (∀ e ps, sendEntAt (s.routes f.dest) entry = some (e, ps) → (t.bu f.dest).credit e = min e.cap ((s.bu f.dest).credit e + k)) ∧
         (sendEntAt (s.routes f.dest) entry = none → t.bus = s.bus) ∧ t.net.ctl = rest ∧ spent t ∧ t.net.flits = s.net.flits))) ∧
   (∀ (s : State) (n : Nat), let t := endCycle s n
     let mine (k : Nat) : List Adj := (s.bu n).adjNow.filter (fun a => a.slot = k)
     let sum (k : Nat) : Int := ((mine k).map (·.amount)).sum
     (t.bu n).adjNow = (s.bu n).adjNext ∧ (t.bu n).adjNext = [] ∧
     (∀ k, k < 4 → let c := s.ctx n k
       (mine k = [] → t.ctx n k = c) ∧
       (mine k ≠ [] → c.wmin ≤ c.wmax →
         t.ctx n k = { c with w := (clamp (c.w + sum k) c.wmin c.wmax).toNat, lastadj := clamp (sum k) (-255) 255 })) ∧
     t.net.ctl.map (fun f => (f.src, f.dest, f.msg)) = s.net.ctl.map (fun f => (f.src, f.dest, f.msg)) ++
       [0, 1, 2, 3].flatMap (fun k => (mine k).filterMap (fun a =>
         if a.fromBu = n then none else some (n, a.fromBu, .status a.fromEntry (t.ctx n k).pstat))))) ∧
  (∀ (s : State), let a := s.my.arg
     let cap := if a.flag2 then 8 else 32
     let receiver := if a.flag then buNum (a.n + 1) 0 a.m else buNum a.n 95 a.m
     let waiting := if a.flag2 then 0 else s.net.flits.countP (fun f => f.crossed && f.at_ == receiver)
     let may : Prop := a.n < 3 ∧ a.m < 64 ∧ s.net.granted a.n a.m a.flag a.flag2 + 8 + waiting ≤ cap
     (may → ∃ t, exec .boundaryGrant s = .next t ∧
       t.net.granted a.n a.m a.flag a.flag2 = s.net.granted a.n a.m a.flag a.flag2 + 8 ∧
       (∀ e row east rate, row < 64 → (e, row, east, rate) ≠ (a.n, a.m, a.flag, a.flag2) → t.net.granted e row east rate = s.net.granted e row east rate) ∧
       t.net.flits = s.net.flits ∧ t.net.ctl = s.net.ctl) ∧
     (¬may → exec .boundaryGrant s = .next s))

/-- R123, R124, R135: a token flit that what it waits for, the flits of its route before it and the grants of the edges let move, and that no older
flit, nor one of its age and a lower route, contends with for the port, goes one hop, first along the columns and then along the rows, spending a
grant of each edge it crosses; at its destination its token joins the end of the queue, or of the input of the operator, that its route names. Until
it may move it stays.

R123, R376: a token that a router finds damaged, with a wrong residue, with bit 31 set, or at an end that its route does not name, is recovered by
a rollback of its round when one can be; otherwise TOKEN_CHK is posted and a poison token of its round goes on in its place, or ends in its place at
the queue that its flit names.

What is the model's own in this: assumptions 52, 53 and 93. -/
def Obligations.TokenHops : Prop :=
  (∀ (s : State) (f : Flit), s.net.flits.find? (fun f => f.id == s.my.arg.n) = some f →
     let hop (f : Flit) : Nat :=
       if buCol f.at_ < buCol f.dest then buAt (buCol f.at_ + 1) (buY f.at_)
       else if buCol f.dest < buCol f.at_ then buAt (buCol f.at_ - 1) (buY f.at_)
       else if buY f.at_ < buY f.dest then buAt (buCol f.at_) (buY f.at_ + 1)
       else if buY f.dest < buY f.at_ then buAt (buCol f.at_) (buY f.at_ - 1) else f.at_
     let next := hop f
     let way := edgesBetween (buCol f.at_) (buCol next)
     let older (g : Flit) : Prop := g.age < f.age ∨ (g.age = f.age ∧ (g.tok.route < f.tok.route ∨ (g.tok.route = f.tok.route ∧ g.id < f.id)))
     let may : Prop := canHop s f = true ∧ ∀ g ∈ s.net.flits, g.at_ = f.at_ → hop g = next → older g → canHop s g = false
     let spent (t : State) : Prop := ∀ e row east rate, row < 64 → t.net.granted e row east rate =
       s.net.granted e row east rate - (if e ∈ way.1 ∧ row = buY f.at_ ∧ east = way.2 ∧ rate = false then 1 else 0)
     (canHop s f = true → s.mayLeave f.after f.hold = true ∧ (∀ e ∈ way.1, 0 < s.net.granted e (buY f.at_) way.2 false) ∧
       ∀ g ∈ flitsBefore f.id s.net.flits, g.tok.route = f.tok.route → g.dest = f.dest → g.entry = f.entry → g.at_ ≠ f.at_) ∧
     (¬may → exec .tokenHop s = .next s) ∧
     (may → tokenBad s s.my.arg.flag f next = false → ∃ t, exec .tokenHop s = .next t ∧ spent t ∧ t.net.ctl = s.net.ctl ∧
       (next ≠ f.at_ → t.net.flits = s.net.flits.map (fun g =>
         if g.id = f.id then { f with at_ := next, after := [], hold := [], crossed := way.1 != [] } else g) ∧ t.bus = s.bus) ∧
       (next = f.at_ → t.net.flits = s.net.flits.filter (fun g => g.id != f.id)) ∧
       (next = f.at_ → f.input = none → (t.bu f.dest).queue f.entry = (s.bu f.dest).queue f.entry ++ [f.tok]) ∧
       (next = f.at_ → f.input = some 0 → (t.oper f.dest f.entry).a = (s.oper f.dest f.entry).a ++ [f.tok]) ∧
       (next = f.at_ → f.input = some 1 → (t.oper f.dest f.entry).b = (s.oper f.dest f.entry).b ++ [f.tok]) ∧
       (next = f.at_ → f.input = some 2 → (t.oper f.dest f.entry).c = (s.oper f.dest f.entry).c ++ [f.tok]))) ∧
  (∀ (s : State) (f : Flit), s.net.flits.find? (fun f => f.id == s.my.arg.n) = some f → mayHop s f = true →
     let next := nextHop f.at_ f.dest
     (s.my.arg.flag = true ∨ f.tok.res ≠ residue15 f.tok.payload ∨ f.tok.bit31 = true ∨ (next = f.dest ∧ routeNamed s f = false)) →
     let bad := callRollback s f.dest (s.tagRound f.dest 0 f.tok.round)
     let poison : Token := { f.tok with kind := .poison, res := 0, bit31 := false, payload := 0 }
     (bad.1 = true → exec .tokenHop s = .next bad.2) ∧
     (bad.1 = false → ∃ t p, exec .tokenHop s = .next t ∧ t.hub.recs = s.hub.recs ++ [p] ∧ p.record.code = Code.tokenChk.num ∧
       p.record.extra = f.tok.route % 2 ^ 48 ∧
       (next ≠ f.at_ → t.net.flits = s.net.flits.map (fun g => if g.id = f.id then
         { f with at_ := next, after := [], hold := [], crossed := (edgesBetween (buCol f.at_) (buCol next)).1 != [], tok := poison } else g)) ∧
       (next = f.at_ → t.net.flits = s.net.flits.filter (fun g => g.id != f.id)) ∧
       (next = f.at_ → f.input = none → (t.bu f.dest).queue f.entry = (s.bu f.dest).queue f.entry ++ [poison])))

/-- R124, R125, R133, R134: an operator of an unfrozen bank unit fires as its kind's row says, on data and control tokens, on markers of one round on
every input, and on a poison control token, once its outputs have room: what it consumes leaves its inputs, its state and its held value are set, and
one flit is sent for each token it emits and each consumer of its output. An operator that cannot fire stays as it is.

What is the model's own in this: assumption 52. -/
def Obligations.OperatorFirings : Prop :=
  ∀ (s : State) (i : Instr) (e : OperEnt) (f : Firing), let n := s.my.arg.n
    let o := s.oper n s.my.arg.m
    let goal (c : SendEnt) : Option (Nat × Nat × Option Nat) := ((s.bu n).region.bind (fun r => s.regionBu r c.die c.x c.y)).bind (fun m =>
      if c.toop then (operInput (s.routes m) c.route).map (fun x => (m, x.1, some x.2)) else (qiOf (s.routes m) c.slot c.qi).map (fun q => (m, q.entry, none)))
    let sends := f.outs.flatMap (fun x => (outOf (s.routes n) x.1).map (fun c => (x.2, c)))
    s.operEnt n s.my.arg.m = some e → firing i e o = some f →
    ((s.bu n).frozen ≠ [] → exec i s = .next s) ∧
    ((s.bu n).frozen = [] → (∃ x ∈ f.outs, (s.bu n).room (outOf (s.routes n) x.1) = 0) → exec i s = .next s) ∧
    ((s.bu n).frozen = [] → (∀ x ∈ f.outs, 1 ≤ (s.bu n).room (outOf (s.routes n) x.1)) → ∃ t fl, exec i s = .next t ∧
      t.oper n s.my.arg.m = { st := f.st, held := f.held, a := if f.takeA then o.a.tail else o.a, b := if f.takeB then o.b.tail else o.b,
                              c := if f.takeC then o.c.tail else o.c } ∧
      t.net.flits = s.net.flits ++ fl ∧
      fl.map (fun g => (g.tok, g.at_, g.dest, g.entry, g.input)) =
        sends.filterMap (fun y => (goal y.2).map (fun d => ({ y.1 with route := y.2.route }, n, d.1, d.2.1, d.2.2))) ∧
      (∀ g ∈ fl, g.after = [] ∧ g.hold = [] ∧ g.crossed = false) ∧
      (∀ m, m ≠ n → t.bu m = s.bu m))

/-- R270 to R272, R257, R225, R261: a run of a stream begins, in the order of the starts, with one pending start taken and the requests of R270 made;
it ends with its flags ORed into its context's, counted, and pulsing its source only with `pulse`; a failed run stops at once, sets `failed` and is
reported with slot 6; and a refill, once it is among the first 64 of its die, fills the stream's entry from a walk through the die's walk cache of 16K
entries, or fails the run.

What is the model's own in this: assumptions 30, 49, 54, 63, 69, 70 and 71. -/
def Obligations.StreamRuns : Prop :=
  ∀ (s : State), let n := s.my.arg.n
    let k := s.my.arg.m
    let x := s.strm n k
    let p := s.strmProg n k
    let other := s.strmWord n (k / 4) (k % 4) 1 % 2 ^ 32
    let roles := if p.dir = 1 then [(x.handle, if p.shadow then 1 else 0)] else if p.mode = 7 then [(x.handle, 2), (other, 2)]
      else (if p.consume then [(x.handle, 2)] else []) ++ (if p.mode = 6 then [(other, 2)] else [])
    (∀ o rest, x.order = o :: rest →
      let may : Prop := 0 < x.pend ∧ x.run = none ∧ (s.bu n).runs < 4 ∧ (s.bu n).frozen = [] ∧
        ∀ y ∈ (s.bu n).strms.toList, y.run = none → ∀ q l, y.order = q :: l → o ≤ q
      (may → ∃ t r, exec .streamRunBegin s = .next t ∧
        t.strm n k = { x with pend := x.pend - 1, order := rest, failed := false, run := some r } ∧ r.round = (s.ctx n (k / 4)).regs.round ∧
        r.pos = 0 ∧ r.todo = [] ∧ r.ended = false ∧ r.err = none ∧ r.waitH.map (·.2) = roles ∧ t.ms = s.ms) ∧
      (¬may → exec .streamRunBegin s = .next s)) ∧
    (∀ r, x.run = some r → r.ended = true → r.todo = [] → r.err = none → (p.dir = 1 ∨ p.mark = false ∨ p.end_ ≠ 0 ∨ r.marker = true) →
      (s.bu n).frozen = [] → x.redo = [] → ∃ t rel, exec .streamRunEnd s = .next t ∧ (t.strm n k).run = none ∧
        (t.strm n k).runs = (x.runs + 1) % 2 ^ 16 ∧ (t.strm n k).failed = x.failed ∧
        (t.ctx n (k / 4)).regs.flags = (s.ctx n (k / 4)).regs.flags ||| BitVec.ofNat 8 r.flags ∧
        (t.bu n).ev.pulses = (s.bu n).ev.pulses ++ (if p.pulse then [(8 + k, rel)] else [])) ∧
    (∀ r code address extra, x.run = some r → r.err = some (code, address, extra) → code ≠ Code.poison.num → ∃ t q,
      exec .streamRunFail s = .next t ∧ (t.strm n k).run = none ∧ (t.strm n k).failed = true ∧ (t.bu n).ev.pulses = (s.bu n).ev.pulses ∧
      t.hub.recs = s.hub.recs ++ [q] ∧ q.record.code = code ∧ q.record.address = address ∧ q.record.extra = extra % 2 ^ 48 ∧
      q.record.async = true ∧ q.record.slot = 6 ∧ q.record.op = 0 ∧ q.record.launch = r.launch) ∧
    (∀ r va h num, x.run = some r → r.refill = some (va, h, num) → let job := s.hJob (s.jobOf n) h
      let die := buDie n
      let turn : Prop := (s.refills die).countP (· < num) < 64
      let cache (s : State) : List WalkEnt := mapGetD die s.hub.walkCaches []
      (¬turn → exec .translationRefill s = .next s) ∧
      (turn → ∃ t, exec .translationRefill s = .next t ∧
        (∀ e, s.dieWalk die job va = .ok e → s.dying job va = false →
          (t.strm n k).trans = some { e with handle := h } ∧ (t.strm n k).run = some { r with refill := none }) ∧
        (∀ c, (s.dieWalk die job va = .error c ∨ ((∃ e, s.dieWalk die job va = .ok e) ∧ s.dying job va = true ∧ c = .pageDying)) →
          (t.strm n k).trans = x.trans ∧ (t.strm n k).run = some { r with refill := none, err := some (c.num, va, 0) }) ∧
        ((cache s).length ≤ 16384 → (cache t).length ≤ 16384) ∧
        (∀ y ∈ cache t, y ∈ cache s ∨ (y.job = job ∧ bitOf y.word 0 = true ∧ y.word = s.cachedWord (cache s) job y.addr)) ∧
        (∀ d, d ≠ die → mapGetD d t.hub.walkCaches [] = mapGetD d s.hub.walkCaches [])))

/-- R204, R257, R269, R271 to R273: in a cycle the port takes one request, of the slot's owner or the next stream after it that has one waiting, and a
stream without its turn makes none. A request of a run moves one unit. A LINE run from memory takes the next bytes of its buffer, padded with zeros, and
a unit that waits is delivered: as one token on every consumer of its QO when there is room, as an entry of its ring when that has room and is in no
other stream's block, or as 64 bytes of its window. A run to memory takes the next token of its QI, whose bytes it then writes; a marker is discarded,
and a poison token fails the run.

What is the model's own in this: assumptions 69 and 71. -/
def Obligations.StreamRequests : Prop :=
  (∀ (s : State) (n k owner : Nat), owner < 16 →
    (bitOf (s.strmWord n (owner / 4) (owner % 4) 15) ((s.bu n).cycle % 64) = true ∧
        (∀ j, j < owner → bitOf (s.strmWord n (j / 4) (j % 4) 15) ((s.bu n).cycle % 64) = false)) ∨
      (owner = 0 ∧ ∀ j, j < 16 → bitOf (s.strmWord n (j / 4) (j % 4) 15) ((s.bu n).cycle % 64) = false) →
    (s.portTurn n k = true ↔ (s.bu n).port ≠ some (s.bu n).cycle ∧
      ∃ i, i < 16 ∧ k = (owner + i) % 16 ∧ s.wantsPort n k = true ∧ ∀ j, j < i → s.wantsPort n ((owner + j) % 16) = false)) ∧
  ∀ (s : State) (r : Run), let n := s.my.arg.n
    let k := s.my.arg.m
    let v := s.sv n k
    let x := s.strm n k
    let turn : Prop := s.portTurn n k = true
    let s0 := s.usePort n
    let fails (c : Code) (a e : Nat) : Prop := ∃ t, exec .streamRequest s = .next t ∧ (t.strm n k).run = some { r with err := some (c.num, a, e) }
    let goal (c : SendEnt) : Option (Nat × Nat × Option Nat) := ((s.bu n).region.bind (fun r => s.regionBu r c.die c.x c.y)).bind (fun m =>
      if c.toop then (operInput (s.routes m) c.route).map (fun x => (m, x.1, some x.2)) else (qiOf (s.routes m) c.slot c.qi).map (fun q => (m, q.entry, none)))
    x.run = some r → x.redo = [] → (s.bu n).frozen = [] → r.waitH = [] → r.refill = none → r.err = none →
    (v.p.dir = 0 → v.p.mode = 1 → r.todo = [] → r.ended = false →
      let off := r.pos * v.unit s
      let total := v.w 3
      let got := readBuffer s0 n k v.h (v.w 2 + off) (min (v.unit s) (total - off)) []
      let last : Bool := total ≤ off + v.unit s
      (¬turn → exec .streamRequest s = .next s) ∧
      (turn → total ≤ off → ∃ t, exec .streamRequest s = .next t ∧ (t.strm n k).run = some { r with ended := true, part := [] }) ∧
      (∀ bytes s1, turn → off < total → got = .ok bytes s1 → ∃ t, exec .streamRequest s = .next t ∧ t.ms = s1.ms ∧ (t.bu n).port = some (s.bu n).cycle ∧
        (t.strm n k).run = some { r with todo := [lineOfBytes bytes], sbs := r.sbs ++ [rawSideband], pos := r.pos + 1, part := [], ended := last }) ∧
      (∀ made s1, turn → off < total → got = .part made s1 → ∃ t, exec .streamRequest s = .next t ∧ t.ms = s1.ms ∧
        (t.strm n k).run = some { r with part := made }) ∧
      (∀ c a e, turn → off < total → c ≠ .poison → got = .err c a e → fails c a e) ∧
      (turn → off < total → got = .wait → exec .streamRequest s = .next s) ∧
      (∀ va h, turn → off < total → got = .refill va h →
        ∃ t id, exec .streamRequest s = .next t ∧ (t.strm n k).run = some { r with refill := some (va, h, id) })) ∧
    (∀ l ls sb sbs, v.p.dir = 0 → r.todo = l :: ls → r.sbs = sb :: sbs →
      (v.p.end_ = 0 → v.p.mode ≠ 3 → let es := v.qo s 0
        ((s.bu n).room es = 0 → exec .streamRequest s = .next s) ∧
        (0 < (s.bu n).room es → ∃ t fl, exec .streamRequest s = .next t ∧ (t.strm n k).run = some { r with todo := ls, sbs := sbs, part := [] } ∧
          t.net.flits = s.net.flits ++ fl ∧
          (let tok (route : Nat) : Token := { kind := .data, round := r.round, res := l.toNat % 15, route := route,
                                              last := r.ended && ls.isEmpty, bit31 := false, payload := l, rel := [] }
           fl.map (fun g => (g.tok, g.at_, g.dest, g.entry, g.input)) = es.filterMap (fun e => (goal e).map (fun d => (tok e.route, n, d.1, d.2.1, d.2.2)))))) ∧
      (v.p.end_ = 1 → let ring := Fin.ofNat 16 (4 * v.slot + v.p.index)
        let g := (s.bu n).node.rings[ring]
        let (base, size) := s.ringOf n (4 * v.slot + v.p.index)
        let busy : Prop := size < g.count + 1 ∨ (r.tile = 0 ∧ (s.ringHeld n (4 * v.slot + v.p.index) = true ∨ (v.p.mode = 4 ∧ g.tail % 8 ≠ 0)))
        (busy → exec .streamRequest s = .next s) ∧
        (¬busy → (s.bu n).bank.wf = true → ∃ t, exec .streamRequest s = .next t ∧
          (t.strm n k).run = some { r with todo := ls, sbs := sbs, part := [], tile := if v.p.mode = 4 then (r.tile + 1) % 8 else 0 } ∧
          (t.bu n).node.rings[ring] = { g with tail := if size = 0 then 0 else (g.tail + 1) % size, count := g.count + 1 } ∧
          (t.bu n).bank.readBytes (ringEntryAddr base g.tail) 64 = lineBytes l ∧ (t.bu n).bank.readNat (ringSbAddr base g.tail) 8 = sb.toNat)) ∧
      (2 ≤ v.p.end_ → let off := v.w 4 + 64 * r.pos2
        let a := (s.window n v.slot).1 + off
        (inRange (s.window n v.slot) off 64 = false → fails .bankRange off 0) ∧
        (inRange (s.window n v.slot) off 64 = true → ∃ t, exec .streamRequest s = .next t ∧
          (t.strm n k).run = some { r with todo := ls, sbs := sbs, part := [], pos2 := r.pos2 + 1 } ∧
          (t.bu n).bank = (s.bu n).bank.writeBytes a (lineBytes l)))) ∧
    (∀ e tok rest, v.p.dir = 1 → v.p.end_ = 0 → (v.p.mode ≠ 1 ∨ r.pos * v.unit s < v.w 3) → r.ended = false → r.got = [] → v.qi s = some e →
      (s.bu n).queue e.entry = tok :: rest → ∃ t, exec .streamRequest s = .next t ∧ (t.bu n).queue e.entry = rest ∧
        (tok.kind = .marker → (t.strm n k).run = some { r with part := [] }) ∧
        (tok.kind = .poison → (t.strm n k).run = some { r with err := some (Code.poison.num, 0, tok.route), lineRound := tok.round }) ∧
        (tok.kind ≠ .marker → tok.kind ≠ .poison → (t.strm n k).run = some { r with
          got := bytesOfNat (v.unit s) tok.payload.toNat, lineRound := tok.round, sbs := r.sbs ++ [BitVec.ofNat 64 tok.round], part := [] })) ∧
    (v.p.dir = 1 → v.p.mode = 1 → r.ended = false → r.pos * v.unit s < v.w 3 → r.got ≠ [] →
      let off := r.pos * v.unit s
      let rd := s.tagRound n v.slot r.lineRound
      let put := writeBuffer s0 n k v.h (v.w 2 + off) rd v.p.shadow (r.got.take (min (v.unit s) (v.w 3 - off)))
      (¬turn → exec .streamRequest s = .next s) ∧
      (∀ ids s1, turn → put = .ok ids s1 → ∃ t w, exec .streamRequest s = .next t ∧ t.ms = s1.ms ∧ (∀ i, i ∈ w ↔ i ∈ r.writes ∨ i ∈ ids) ∧
        (t.strm n k).run = some { r with got := [], pos := r.pos + 1, writes := w, part := [], ended := v.w 3 ≤ off + v.unit s }))

/-- R66 to R68, R180, R257, R265, R273, R275, R287: an `ldm` that is served reads the visible copy of its stream's buffer once it is FULL or DRAINING,
in a cycle of the port that is its stream's, and a `prf` fills its stream's entry from the walk and never fails. The result of a request whose block has
committed fills the register that still waits for it and ORs in its flags, and the request is gone; before the commit it is kept for it; the result or
failure of a dead one is discarded. A failed request is first reported, and once its record is posted its register turns failed.

What is the model's own in this: assumptions 49, 56, 129 and 138. -/
def Obligations.DetachedResults : Prop :=
  ∀ (s : State) (q : Req), s.req s.my.arg.n = some q → q.org.bu < Config.bankUnits →
    let n := q.org.bu
    let slot := q.org.slot
    let g := (s.ctx n slot).regs
    let h := s.reqHandle q
    let job := s.hJob q.org.job h
    (q.dead = true → ((∃ v, q.stage = .replied v) ∨ ∃ c a e, q.stage = .failed c a e) → ∃ t, exec .detachedResult s = .next t ∧ t.req q.id = none ∧
      t.bus = s.bus ∧ t.ms = s.ms ∧ t.hub.recs = s.hub.recs) ∧
    (q.dead = true → (∃ c a e, q.stage = .failed c a e) → ∃ t, exec .detachedFailure s = .next t ∧ t.req q.id = none ∧
      t.bus = s.bus ∧ t.ms = s.ms ∧ t.hub.recs = s.hub.recs) ∧
    (∀ e, q.row = .ldm → s.mayServe q = true → s.hent q.org.job h = .ok e →
      let va := e.base + q.a
      let turn : Prop := s.portTurn n q.stream = true ∧ (s.strmCovers n q.stream job va = true ∨ s.walkerFree n q.stream = true)
      let failed (c : Code) (a : Nat) : Prop := ∃ t, exec .detachedResult s = .next t ∧
        t.req q.id = some { q with stage := .failed c.num a 0, hold := [], after := [] }
      (e.state < 2 → exec .detachedResult s = .next s) ∧
      (2 ≤ e.state → e.size < q.a + q.width → failed .handleRange q.a) ∧
      (2 ≤ e.state → q.a + q.width ≤ e.size → ¬turn → exec .detachedResult s = .next s) ∧
      (∀ c s1, 2 ≤ e.state → q.a + q.width ≤ e.size → turn → strmAccess (s.usePort n) n q.stream job va h false = (.error c, s1) → failed c va) ∧
      (∀ key s1, 2 ≤ e.state → q.a + q.width ≤ e.size → turn → strmAccess (s.usePort n) n q.stream job va h false = (.ok key, s1) →
        (s1.ms.bad key q.width = true → failed .bankEcc va) ∧
        (s1.ms.bad key q.width = false → s1.ms.readable q.party key q.width = true → ∃ t, exec .detachedResult s = .next t ∧
          let got := natOfBytes (readMem (s1.reach key) q.party key q.width).1
          t.req q.id = some { q with stage := .replied (BitVec.ofNat 512 (extendLoad q.ty q.width got)) }))) ∧
    (q.row = .prf → s.mayServe q = true →
      ((∃ c, s.hent q.org.job h = .error c) → ∃ t, exec .detachedResult s = .next t ∧ t.req q.id = none ∧ t.hub.recs = s.hub.recs ∧ t.bus = s.bus) ∧
      (∀ e, s.hent q.org.job h = .ok e → let va := e.base + q.a
        let turn : Prop := s.portTurn n q.stream = true ∧ s.walkerFree n q.stream = true
        let old := (s.strm n q.stream).trans
        (¬turn → exec .detachedResult s = .next s) ∧
        (turn → ∃ t, exec .detachedResult s = .next t ∧ t.req q.id = none ∧ t.hub.recs = s.hub.recs ∧
          (∀ w, s.dieWalk (buDie n) job va = .ok w → (t.strm n q.stream).trans = if s.dying job va then old else some { w with handle := h }) ∧
          (∀ c, s.dieWalk (buDie n) job va = .error c → (t.strm n q.stream).trans = old)))) ∧
    (∀ v, q.dead = false → q.stage = .replied v → (q.row.isVector = false ∨ trapOf s q = none) →
      (q.committed = false → ∃ t, exec .detachedResult s = .next t ∧ q.id ∈ (t.ctx n slot).blk.early ∧ (t.ctx n slot).regs = g ∧ t.hub = s.hub) ∧
      (q.committed = true → (s.ctx n slot).st ≠ .ending → ∃ t, exec .detachedResult s = .next t ∧ t.req q.id = none ∧
        (∀ i, q.dst = .g i → (t.ctx n slot).regs.g[i] = if g.g[i].st = .pending q.id then ⟨BitVec.ofNat 64 v.toNat, .full⟩ else g.g[i]) ∧
        (∀ i, q.dst = .v i → (t.ctx n slot).regs.v[i] = if g.v[i].st = .pending q.id then ⟨v, .full⟩ else g.v[i]) ∧
        (∀ i, q.dst ≠ .g i → (t.ctx n slot).regs.g[i] = g.g[i]) ∧ (∀ i, q.dst ≠ .v i → (t.ctx n slot).regs.v[i] = g.v[i]) ∧
        (t.ctx n slot).regs.flags = g.flags ||| BitVec.ofNat 8 q.flags)) ∧
    (∀ v k, q.dead = false → q.stage = .replied v → q.row.isVector = true → trapOf s q = some k →
      (q.committed = false → exec .detachedResult s = .next ((s.dropReq q.id).raise n slot q.org.block q.org.op q.org.elem ⟨.flag, 0, k⟩)) ∧
      (q.committed = true → ∃ t, exec .detachedResult s = .next t ∧
        t.req q.id = some { q with stage := .failed Code.flag.num 0 k, hold := [], after := [] })) ∧
    (∀ code address extra, q.dead = false → q.stage = .failed code address extra → q.committed = true →
      (q.hold = [] → ∃ t p, exec .detachedFailure s = .next t ∧ t.hub.recs = s.hub.recs ++ [p] ∧ p.id = s.hub.nextId ∧ p.record.code = code ∧
        p.record.address = address ∧ p.record.extra = extra % 2 ^ 48 ∧ p.record.async = true ∧ p.record.slot = slot ∧
        p.record.block = q.org.block ∧ p.record.op = q.org.op ∧ t.req q.id = some { q with hold := [s.hub.nextId], after := [] }) ∧
      (∀ rec_ rest, q.hold = rec_ :: rest →
        ((∃ p ∈ s.hub.recs, p.id = rec_) → exec .detachedFailure s = .next s) ∧
        ((∀ p ∈ s.hub.recs, p.id ≠ rec_) → (s.ctx n slot).st ≠ .ending → ∃ t, exec .detachedFailure s = .next t ∧ t.req q.id = none ∧
          (∀ i, q.dst = .g i → g.g[i].st = .pending q.id → (t.ctx n slot).regs.g[i].st = .failed) ∧
          (∀ i, q.dst = .v i → g.v[i].st = .pending q.id → (t.ctx n slot).regs.v[i].st = .failed))))

/-- R259 to R264: what the handle unit does with a request that may be served and whose handle has the entry e. `hb.state`, `sh.rd` and `sh.chk` are
answered at once; `hb.wait` waits, and is due when its state stands; `hb.set`, `hb.pub` and `hb.free` keep their place in the handle's order until
they are first and the counts let them run; a freed slot is unused under the next generation, and the waits on it fail; `hb.alloc` takes the lowest
unused slot from 1 on, whose handle it answers, or finds none, or is refused its arguments. An entry is 32 bytes of the job's table.

What is the model's own in this: assumptions 55 and 58. -/
def Obligations.HandleRequests : Prop :=
  (∀ (s : State) (q : Req), s.req s.my.arg.n = some q → s.mayServe q = true →
    let done (v : Nat) : Prop := ∃ t, exec .handleRequestService s = .next t ∧ t.ms = s.ms ∧
      t.req q.id = some { q with stage := .replied (BitVec.ofNat 512 v) }
    let fails (c : Code) : Prop := ∃ t, exec .handleRequestService s = .next t ∧ t.ms = s.ms ∧
      t.req q.id = some { q with stage := .failed c.num 0 0, hold := [], after := [] }
    let k := hKey q.org.job q.a
    let first : Prop := ((takePlace s k q.id).hq k).queue.head? = some q.id
    (∀ e, s.hent q.org.job q.a = .ok e →
      (q.row = .hbState → done (e.state + e.kind * 2 ^ 4 + (if e.shadowed then 2 ^ 7 else 0) + e.gen * 2 ^ 8 + e.writers * 2 ^ 20 +
        e.readers * 2 ^ 28 + (if e.pub then 2 ^ 36 else 0))) ∧
      (q.row = .shRd → done e.shadow) ∧
      (q.row = .shChk → done ((if e.pub then 1 else 0) + (if (s.shadowOf q.org.job (hSlot q.a)).1 then 2 else 0) +
        min (s.shadowOf q.org.job (hSlot q.a)).2 255 * 2 ^ 8)) ∧
      (q.row = .hbWait → q.a % 2 ^ 12 = e.gen → ∃ t, exec .handleRequestService s = .next t ∧ t.ms = s.ms ∧
        t.req q.id = some (if q.mod % 4 = e.state then { q with stage := .waiting, c := 1, b := e.word0, obs := (s.hq k).rel.toList }
          else { q with stage := .waiting, c := 0 })) ∧
      (q.row = .hbSet → e.kind ∈ [1, 2, 4] → e.writers = 0 → e.readers = 0 → first →
        exec .handleRequestService s = .next (((leavePlace (takePlace s k q.id) k q.id).putHent q.org.job q.a { e with state := q.mod % 4 } q.release).dropReq q.id)) ∧
      ((q.row = .hbSet ∧ e.kind ∈ [1, 2, 4] ∨ q.row = .hbPub ∧ e.kind = 1 ∧ e.shadowed = true ∨ q.row = .hbFree ∧ e.kind ∈ [1, 2, 4]) →
        (e.writers ≠ 0 ∨ e.readers ≠ 0 ∨ ¬first) → ∃ t, exec .handleRequestService s = .next t ∧ t.req q.id = some q ∧ t.ms = s.ms ∧ q.id ∈ (t.hq k).queue) ∧
      (q.row = .hbPub → e.kind = 1 → e.shadowed = true → e.writers = 0 → e.readers = 0 → e.pub = false → first → ∃ t u,
        exec .handleRequestService s = .next t ∧
        t = (((u : State).putHent q.org.job q.a { e with base := e.shadow, shadow := e.base, state := 2, pub := false } q.release).setShadow q.org.job (hSlot q.a)
          (false, (s.shadowOf q.org.job (hSlot q.a)).2)).reply q.id (q.a % 2 ^ 32) ∧ u.ms = s.ms ∧
        ∀ n m x, ((u.bu n).strms[(m : Fin 16)]).trans = some x → ¬(x.job = q.org.job ∧ x.handle = q.a % 2 ^ 32)) ∧
      (q.row = .hbPub → e.kind = 1 → e.shadowed = false → first → fails .handleKind) ∧
      (q.row = .hbPub ∨ q.row = .hbSet ∨ q.row = .hbFree → e.kind = 3 → fails .handleKind)) ∧
    (∀ c, s.hent q.org.job q.a = .error c → (q.row = .hbState ∨ q.row = .hbWait ∨ q.row = .hbSet ∨ q.row = .hbPub ∨ q.row = .hbFree ∨ q.row = .shRd ∨ q.row = .shChk) →
      fails c) ∧
    (∀ e, q.row = .hbFree → s.hent q.org.job q.a = .ok e → e.kind ∈ [1, 2, 4] → e.writers = 0 → e.readers = 0 → e.pub = false → first →
      exec .handleRequestService s = .next ((failWaits ((leavePlace (takePlace s k q.id) k q.id).putHent q.org.job q.a
        { e with kind := 0, state := 0, shadowed := false, shadow := 0, gen := (e.gen + 1) % 4096 } none) k).dropReq q.id)) ∧
    (let bad : Prop := q.a % 64 ≠ 0 ∨ q.b = 0 ∨ 2 ^ 48 < q.b ∨ (q.c ≠ 2 ^ 64 ∧ q.c % 64 ≠ 0)
     let taken (i : Nat) : Prop := ∃ e, s.slotEnt q.org.job i = .ok e ∧ e.kind ≠ 0
     (q.row = .hbAlloc → bad → fails .handleArg) ∧
     (∀ j, q.row = .hbAlloc → ¬bad → mapGet q.org.job s.hub.jobs = some j → (∀ i, 1 ≤ i → i < j.hslots → taken i) → fails .handleFull) ∧
     (∀ j i old, q.row = .hbAlloc → ¬bad → mapGet q.org.job s.hub.jobs = some j → 1 ≤ i → i < j.hslots → (∀ l, 1 ≤ l → l < i → taken l) →
      s.slotEnt q.org.job i = .ok old → old.kind = 0 → let h := i * 2 ^ 12 + old.gen
        let e : HEnt := { state := 0, kind := q.mod % 8, shadowed := decide (q.c ≠ 2 ^ 64), gen := old.gen, writers := 0, readers := 0, pub := false,
                          base := q.a, size := q.b, shadow := if q.c ≠ 2 ^ 64 then q.c else 0 }
        exec .handleRequestService s = .next (((s.putHent q.org.job h e none).setShadow q.org.job i (false, 0)).reply q.id h)))) ∧
  (∀ (s : State) (k : Nat × Nat), let t := failWaits s k
    t = { s with hub := { s.hub with reqs := t.hub.reqs } } ∧ t.hub.reqs.length = s.hub.reqs.length ∧
    ∀ (i : Nat) (r : Req), s.hub.reqs[i]? = some r → t.hub.reqs[i]? = some (
      if r.row = .hbWait ∧ r.stage = .waiting ∧ r.c = 0 ∧ hKey r.org.job r.a = k then { r with stage := .failed Code.handle.num 0 0, hold := [] } else r)) ∧
  (∀ (s : State) (q : Req), s.req s.my.arg.n = some q → q.row = .hbWait → q.stage = .waiting →
    (q.c = 1 → ∃ t, exec .hbWaitAnswer s = .next t ∧ t.req q.id = some { q with stage := .replied (BitVec.ofNat 512 q.b) }) ∧
    (q.c ≠ 1 → exec .hbWaitAnswer s = .next s)) ∧
  (∀ (s : State) (job h key : Nat) (e : HEnt) (rel : Option (Party × Nat × List Nat)), isRungHandle h = false →
    s.entPlace job (hSlot h) true = .ok key → let t := s.putHent job h e rel
      t.ms.mem = s.ms.mem.writeBytes key (bytesOfNat 8 e.word0 ++ bytesOfNat 8 e.base ++ bytesOfNat 8 e.size ++ bytesOfNat 8 e.shadow) ∧
      (t.hq (hKey job h)).rel = rel)

/-- R261, R282, R285, R295, R396, R406: a write that may perform changes the bytes it names and no other, joins the performed writes and its party's
past, is pending no longer, and ends the writer it was the last write of; a write through a shadow marks it written; one that must wait stays. A dying page that no address generator's entry covers is freed.

What is the model's own in this: assumptions 44 and 126. -/
def Obligations.StoresPerform : Prop :=
  ∀ (s : State), let n := s.my.arg.n
    (∀ p, s.ms.pending.find? (fun p => p.w.id == n) = some p →
      (mayPerform s p = false → exec .storePerform s = .next s) ∧
      (mayPerform s p = true → ∃ t, t.ms.pending = s.ms.pending.filter (fun q => q.w.id != n) ∧ t.ms.done = s.ms.done ++ [p.w] ∧
        t.ms.mem = s.ms.mem.writeBytes p.w.key p.w.bytes ∧
        (MemoriesCanonical s → ∀ a, t.ms.mem.read a =
          if p.w.key ≤ a ∧ a < p.w.key + p.w.bytes.length then p.w.bytes.getD (a - p.w.key) 0 else s.ms.mem.read a) ∧
        (∀ i, i < p.w.bytes.length → n + i ∈ t.ms.past p.w.party) ∧ t.bus = s.bus ∧ t.net = s.net ∧
        (p.shadow = none → t.hub = s.hub) ∧ (∀ job slot j, p.shadow = some (job, slot) → mapGet job s.hub.jobs = some j →
          t.shadowOf job slot = (true, (s.shadowOf job slot).2)) ∧
        (p.w.key < 2 ^ 61 → t.out = s.out) ∧
        (p.ends = none → exec .storePerform s = .next t) ∧
        (∀ job h role fin, p.ends = some (job, h, role, fin) → exec .storePerform s = .next (endRole t job h role fin false)))) ∧
    (∀ p, mapGet n s.hub.pages = some p →
      (p.dying = true → s.agCovers p.owner p.va = false → ∃ t, exec .dyingPageFree s = .next t ∧ t.hub.pages = mapDel n s.hub.pages ∧
        (∀ j, mapGet p.owner t.hub.jobs = some j → p.va / 2 ^ 16 ∉ j.heapUsed) ∧ t.ms = s.ms ∧ t.bus = s.bus) ∧
      (p.dying = false ∨ s.agCovers p.owner p.va = true → exec .dyingPageFree s = .next s))

/-- R296, R301 to R304: an atomic that may be served runs in one step at its home: it writes what its rule gives of the old value, and no other byte
of its bank or of device memory changes; `red` is gone, and the others are answered with the old value. One whose target cannot be reached fails.

R306: a `msg` to a mailbox of kind 1 is appended at its tail, its entry before its tail, and answered with the old tail; a full mailbox answers
all ones and nothing is written; one that cannot hold its slots fails with CE_ARG.

What is the model's own in this: assumptions 68, 74, 75 and 77. -/
def Obligations.AtomicAndMailboxResults : Prop :=
  (∀ (s : State) (q : Req), s.req s.my.arg.n = some q → (q.row = .atom ∨ q.row = .cas ∨ q.row = .cas2 ∨ q.row = .red) → s.mayServe q = true →
     let n := q.org.bu
     (∀ code a, requestHome s q true = .error (code, a) → ∃ t, exec .atomicExecute s = .next t ∧ t.ms = s.ms ∧
       t.req q.id = some { q with stage := .failed code.num a 0, hold := [], after := [] }) ∧
     (∀ h s1, requestHome s q true = .ok (h, s1) →
       let old := natOfBytes (homeBytes s1 n h q.width)
       let v := q.c % 2 ^ (8 * q.width)
       let signed (x : Nat) : Int := signedOf q.ty.bits x
       let new : Option Nat :=
         if q.row = .cas ∨ q.row = .cas2 then (if old = q.b % 2 ^ (8 * q.width) then some v else none)
         else some (match q.mod / 2 ^ 3 % 2 ^ 4 with
           | 0 => v
           | 1 => if q.ty.isInt then (old + v) % 2 ^ q.ty.bits else (round (addVal (valueOf q.ty old) (valueOf q.ty v) (q.rm == .rdn)).val q.ty q.rm none q.ovf).bits
           | 2 => old &&& v
           | 3 => old ||| v
           | 4 => old ^^^ v
           | 5 => if q.ty.isSigned then (if signed old ≤ signed v then old else v) else if q.ty.isInt then min old v else laneMin q.ty old v
           | _ => if q.ty.isSigned then (if signed v ≤ signed old then old else v) else if q.ty.isInt then max old v else laneMax q.ty old v)
       ∃ t, exec .atomicExecute s = .next t ∧
         t.req q.id = (if q.row = .red then none else some { q with stage := .replied (BitVec.ofNat 512
           (if q.row ≠ .cas2 ∧ q.ty.isInt = true then extendLoad q.ty q.width old else old)) }) ∧
         (∀ a, h = .bank a → t.ms.mem = s.ms.mem ∧
           (t.bu n).bank = match new with | some x => (s.bu n).bank.writeBytes a (bytesOfNat q.width x) | none => (s.bu n).bank) ∧
         (∀ k, h = .dev k → (t.bu n).bank = (s.bu n).bank ∧
           t.ms.mem = match new with | some x => s.ms.mem.writeBytes k (bytesOfNat q.width x) | none => s.ms.mem))) ∧
  (∀ (s : State) (q : Req) (e : HEnt) (key len : Nat) (rest : List (Nat × Nat × Nat)), let job := q.org.job
     s.req s.my.arg.n = some q → q.row = .msg → s.mayServe q = true → s.hentKind job q.a [1] = .ok e → 64 ≤ e.size →
     enginePlaces s job e.base 20 true = .ok ((key, 0, len) :: rest) → s.ms.bad key 24 = false →
     let m : Nat := natOfBytes (lastBytes s key 20)
     let tail : Nat := m % 2 ^ 64
     let head : Nat := m / 2 ^ 64 % 2 ^ 64
     let slots : Nat := m / 2 ^ 128 % 2 ^ 32
     let small : Prop := slots = 0 ∨ e.size < 64 * (slots + 1)
     let isFull : Prop := (slots : Int) ≤ (tail : Int) - head
     (small → ∃ t, exec .mailboxAppend s = .next t ∧ t.ms = s.ms ∧
       t.req q.id = some { q with stage := .failed Code.ceArg.num 0 0, hold := [], after := [] }) ∧
     (¬small → isFull → ∃ t, exec .mailboxAppend s = .next t ∧ t.ms.mem = s.ms.mem ∧
       t.req q.id = some { q with stage := .replied (BitVec.ofNat 512 (2 ^ 64 - 1)) }) ∧
     (∀ entry, ¬small → ¬isFull → enginePlaces (takeLast s q.party key 20) job (e.base + 64 * (1 + tail % slots)) 64 true = .ok [(entry, 0, 64)] →
       ∃ t, exec .mailboxAppend s = .next t ∧ t.req q.id = some { q with stage := .replied (BitVec.ofNat 512 tail) } ∧
         t.ms.mem = (s.ms.mem.writeBytes entry (bytesOfNat 64 q.b)).writeBytes key (bytesOfNat 8 ((tail + 1) % 2 ^ 64))))

/-- R261, R262, R307 to R309: a `ce.red` whose descriptor and handles are right waits in the order of its handles until they are ready, reads `idx` and
`offs` as their draining reader, writes every bag's row to the shadow of `out`, publishes it and is answered with `out`; else it fails with CE_ARG, or with
DEV_RANGE for an index beyond the table, and publishes nothing. A bag's row is the sum of the rows that its indices name, exactly converted: each engine
adds the rows it owns in their order, and the engines' partials are added in the order of the engines; +0 when there is none.

R310 to R313: a `ce.prog` that the checks turn away fails and runs nothing. One that passes takes its writers and starts on the engines of its
segments, or waits in their order. A row step runs the body over the engine's next segment, keeps what it wrote when it fails, and ends the run with
the last segment; it is answered with the row steps in [31:0] and the flags in [37:32], or fails. After a row step an engine with an ordinary request
waiting for its channel opens its window and runs no step until `ce.win` cycles have passed.

R311: the micro-ops, lane by lane: `seg.madd`, `seg.add` and `seg.scl` write the rounded result to accumulator d and OR in the flags of every lane,
`acc.clr` clears it, `seg.rd` reads segment i of its buffer into it, and `seg.wr` writes accumulator a to segment i; every other accumulator is as it
was.

What is the model's own in this: assumptions 62, 73, 78 and 153. -/
def Obligations.EngineRuns : Prop :=
  ((∀ (s : State) (q : Req), s.req s.my.arg.n = some q → q.row = .ceRed → s.mayServe q = true →
     let job := q.org.job
     let d := redDesc q.a
     let ks := [d.idx, d.offs, d.out].map (hKey job)
     ∀ e, redEnts s job d = .ok e →
     let right : Prop := 1 ≤ d.bags ∧ d.bags ≤ 2 ^ 24 ∧ 1 ≤ d.elems ∧ d.elems ≤ 4096 ∧ (d.tt = 10 ∨ d.tt = 11 ∨ d.tt = 12) ∧ d.rest = 0 ∧
       e.out.shadowed = true ∧ 4 * d.bags * d.elems ≤ e.out.size ∧ 4 * (d.bags + 1) ≤ e.offs.size
     let s1 := ks.foldl (fun s k => takePlace s k q.id) s
     let ready : Prop := (∀ k ∈ ks, (s1.hq k).queue.head? = some q.id) ∧ 2 ≤ e.idx.state ∧ 2 ≤ e.offs.state ∧ e.out.writers = 0 ∧
       e.out.readers = 0 ∧ e.out.pub = false
     (¬right → ∃ t, exec .ceRedRun s = .next t ∧ t.ms = s.ms ∧
       t.req q.id = some { q with stage := .failed Code.ceArg.num 0 0, hold := [], after := [] }) ∧
     (right → ¬ready → exec .ceRedRun s = .next s1) ∧
     (right → ready → exec .ceRedRun s = .next (runRed (ks.foldl (fun s k => leavePlace s k q.id) s1) q d e))) ∧
   (∀ (s : State) (q : Req) (d : RedDesc) (e : RedEnts) (leader : Nat), let job := q.org.job
     engineOf s job e.out.base = .ok leader →
     let s0 := startRole (engineAcquire s q) job d.idx 2 e.idx
     ∀ f, s0.hent job d.offs = .ok f →
     let s1 := startRole s0 job d.offs 2 f
     let release (s : State) : State := endRole (endRole s job d.idx 2 false false) job d.offs 2 false false
     (∀ x, redRows s1 job leader d e = .error x → runRed s q d e = failAt (release s1) q x) ∧
     (∀ rows s2 s3 o, redRows s1 job leader d e = .ok (rows, s2) →
       engineWrite s2 (.engine leader) job e.out.shadow (rows.flatMap (fun r => r.flatMap (bytesOfNat 4))) = .ok s3 → (release s3).hent job d.out = .ok o →
       runRed s q d e = (publish (release s3) job d.out o (some (.engine leader, 3, (release s3).ms.past (.engine leader)))).reply q.id d.out)) ∧
   (∀ (s : State) (job leader : Nat) (d : RedDesc) (e : RedEnts) (ob : List Byte) (s1 : State),
     engineRead s (.engine leader) job e.offs.base (4 * (d.bags + 1)) = .ok (ob, s1) →
     let offs := words32 ob
     let wrong : Prop := (∃ i, i + 1 < offs.length ∧ offs.getD (i + 1) 0 < offs.getD i 0) ∨ ∃ o ∈ offs, e.idx.size / 4 < o
     (wrong → redRows s job leader d e = .error (.ceArg, 0)) ∧
     (∀ ib s2, ¬wrong → engineRead s1 (.engine leader) job e.idx.base (4 * offs.getLastD 0) = .ok (ib, s2) →
       let bag (b : Nat) : List Nat := (((words32 ib).take (offs.getD (b + 1) 0)).drop (offs.getD b 0)).filter (fun x => x ≠ 0xFFFFFFFF)
       let beyond : Prop := ∃ b x, b < d.bags ∧ x ∈ bag b ∧ e.table.size / (d.elems * (Ty.ofCode d.tt).bytes) ≤ x
       (beyond → redRows s job leader d e = .error (.devRange, 0)) ∧
       (∀ rows t, redRows s job leader d e = .ok (rows, t) → rows.length = d.bags ∧ ∀ b, b < d.bags → ∃ rs,
         rows[b]? = some (foldBag d.elems rs) ∧ List.Forall₂ (fun x r => ∃ u u', redRow job d e x u = .ok (r, u')) (bag b) rs))) ∧
   (∀ (job : Nat) (d : RedDesc) (e : RedEnts) (x c : Nat) (s s1 : State) (bs : List Byte), let t := Ty.ofCode d.tt
     let va := e.table.base + x * d.elems * t.bytes
     engineOf s job va = .ok c → engineRead s (.engine c) job va (d.elems * t.bytes) = .ok (bs, s1) → ∃ row, redRow job d e x s = .ok ((c, row), s1) ∧
       row.length = d.elems ∧ ∀ i, i < d.elems →
         row.getD i 0 = (round (valueOf t (bitsOf (natOfBytes bs) (i * t.bits) t.bits)) .f32 .rne none .sat).bits) ∧
   (∀ (n : Nat) (rows : List (Nat × List Nat)),
     let add (p r : List Nat) : List Nat :=
       List.zipWith (fun a b => (round (addVal (valueOf .f32 a) (valueOf .f32 b) false).val .f32 .rne none .sat).bits) p r
     let sum (l : List (List Nat)) : Option (List Nat) := match l with | [] => none | r :: rest => some (rest.foldl add r)
     let partials := (List.range 32).filterMap (fun c => sum ((rows.filter (fun x => x.1 = c)).map (·.2)))
     foldBag n rows = (sum partials).getD (List.replicate n 0))) ∧
  ((∀ (s : State) (q : Req), s.req s.my.arg.n = some q → q.row = .ceProg → s.mayServe q = true →
     (∀ code a, progCheck (engineAcquire s q) q = .error (code, a) → ∃ t, exec .ceProgStart s = .next t ∧ t.ms = s.ms ∧ t.hub.progs = s.hub.progs ∧
       t.req q.id = some { q with stage := .failed code.num a 0, hold := [], after := [] }) ∧
     (∀ ws es s1, progCheck (engineAcquire s q) q = .ok (ws, es, s1) →
       let held := ((ws.filter (fun w => uopOf w = 1)).map (fun w => progH q.b (uopN w))).eraseDups
       let s2 := held.foldl (fun s h => takePlace s (hKey q.org.job h) q.id) s1
       ((∃ h ∈ held, (s2.hq (hKey q.org.job h)).queue.head? ≠ some q.id) → exec .ceProgStart s = .next s2) ∧
       (∀ owners s3, (∀ h ∈ held, (s2.hq (hKey q.org.job h)).queue.head? = some q.id ∧ ∃ e, s2.hent q.org.job h = .ok e ∧ e.state < 2) → es ≠ [] →
         eachOk (fun i s => match engineOf s q.org.job ((es.head?.map (·.2.base)).getD 0 + 1024 * i) with | .error x => .error x | .ok c => .ok (c, s))
           (List.range ((es.head?.map (·.2.size)).getD 0 / 1024)) s2 = .ok (owners, s3) → ∃ t, exec .ceProgStart s = .next t ∧
           (owners = [] → t.req q.id = some { q with stage := .replied 0 }) ∧
           (owners ≠ [] → ∃ p : Prog, t.hub.progs = s2.hub.progs ++ [p] ∧ p.req = q.id ∧ p.code = ws ∧ p.held = held ∧
             t.req q.id = some { q with stage := .waiting } ∧ p.parts ≠ [] ∧ ∀ x ∈ p.parts, x.steps = 0 ∧ x.window = none ∧
               x.todo = (List.range owners.length).filter (fun i => owners.getD i 0 == x.engine))))) ∧
   (∀ (s : State) (p : Prog) (q : Req) (x : ProgPart) (i : Nat) (rest : List Nat), let c := s.my.arg.m
     s.hub.progs.find? (fun p => p.req == s.my.arg.n) = some p → s.req s.my.arg.n = some q → p.parts.find? (fun x => x.engine == c) = some x →
     x.todo = i :: rest → let res := progRow q c i (progBody p.code) { xs := x.xs, flags := x.flags } s
     let opened : Option Nat := if channelBusy res.2.2 c then some res.2.2.out.tick else none
     let p1 : Prog := { p with parts := p.parts.map (fun y => if y.engine = c then { y with
       todo := rest, xs := res.2.1.xs, flags := res.2.1.flags, steps := y.steps + 1, window := opened } else y) }
     let last : Prop := res.1 ≠ none ∨ ∀ y ∈ p1.parts, y.todo = []
     (x.window ≠ none → exec .ceProgRowStep s = .next s) ∧
     (x.window = none → last → exec .ceProgRowStep s = .next (endProg res.2.2 q p1 res.1)) ∧
     (x.window = none → ¬last → ∃ t, exec .ceProgRowStep s = .next t ∧ t.ms = res.2.2.ms ∧ t.bus = res.2.2.bus ∧
       t.hub.progs = res.2.2.hub.progs.map (fun y => if y.req = p.req then p1 else y))) ∧
   (∀ (s : State) (c : Nat), channelBusy s c = true ↔ (∃ w ∈ s.ms.pending, w.w.key < 2 ^ 60 ∧ s.owner w.w.key = c) ∨
     ∃ r ∈ s.hub.reqs, s.mayServe r = true ∧ ∃ key len, s.reqPlace r = some (.bytes key len) ∧ key < 2 ^ 60 ∧ s.owner key = c) ∧
   (∀ (s : State) (q : Req) (p : Prog), s.req q.id = some q →
     (q.row = .ceProg → (endProg s q p none).req q.id = some { q with stage := .replied (BitVec.ofNat 512
       ((p.parts.map (·.steps)).sum % 2 ^ 32 + p.parts.foldl (fun f x => f ||| x.flags) 0 % 2 ^ 6 * 2 ^ 32)) }) ∧
     (∀ code a, q.row = .ceProg → (endProg s q p (some (code, a))).req q.id = some { q with stage := .failed code.num a 0, hold := [], after := [] })) ∧
   (∀ (s : State), let gone (t : Nat) : Prop := 1000 * s.hub.ceWin ≤ s.out.clockMHz * ((s.out.tick + 2 ^ 64 - t) % 2 ^ 64)
     ∃ t, exec .ceWindowExpiry s = .next t ∧ t.ms = s.ms ∧ t.bus = s.bus ∧ t.hub.reqs = s.hub.reqs ∧
       (∀ p ∈ s.hub.progs, p.req ≠ s.my.arg.n → p ∈ t.hub.progs) ∧
       t.hub.progs.map (fun p => (p.req, p.code, p.held)) = s.hub.progs.map (fun p => (p.req, p.code, p.held)) ∧
       ∀ (j k : Nat) (p : Prog) (x : ProgPart), s.hub.progs[j]? = some p → p.parts[k]? = some x → p.req = s.my.arg.n →
         ∃ p' x', t.hub.progs[j]? = some p' ∧ p'.parts[k]? = some x' ∧
           (x.engine = s.my.arg.m → (∃ w, x.window = some w ∧ gone w) → x' = { x with window := none }) ∧
           ((x.engine ≠ s.my.arg.m ∨ ∀ w, x.window = some w → ¬gone w) → x' = x))) ∧
  ((∀ (a : Acc) (params w : Nat) (k m : Nat), a.xs.length = 8 → k < 256 → m < 8 →
     let d := w / 2 ^ 25 % 8
     let i := w / 2 ^ 22 % 8
     let j := w / 2 ^ 19 % 8
     let u := w / 2 ^ 28 % 16
     let r (e : Exact) := round e.val .f32 .rne none .sat
     let x (n k : Nat) : Val := valueOf .f32 (((a.xs.getD n []).getD k 0).toNat % 2 ^ 32)
     let out (n : Nat) : Word := ((a.step params w).xs.getD n []).getD k 0
     let gives (f : Nat → Exact) : Prop := out d = BitVec.ofNat 64 (r (f k)).bits ∧
       (a.step params w).flags = (List.range 256).foldl (fun g k => g ||| ((f k).flags ||| (r (f k)).flags)) a.flags
     (m ≠ d → (a.step params w).xs.getD m [] = a.xs.getD m []) ∧
     (u = 2 → gives (fun k => dotVals [(x i k, x j k)] [x d k] false)) ∧
     (u = 3 → gives (fun k => addVal (x i k) (x j k) false)) ∧
     (u = 4 → gives (fun k => mulVal (x i k) (valueOf .f32 (params / 2 ^ (256 + 32 * (w / 2 ^ 16 % 8)) % 2 ^ 32)))) ∧
     (u = 5 → out d = 0 ∧ (a.step params w).flags = a.flags)) ∧
   (∀ (q : Req) (c i w : Nat) (a : Acc) (s : State) (e : HEnt), a.xs.length = 8 →
     s.hentKind q.org.job (q.b / 2 ^ (32 * (w / 2 ^ 16 % 8)) % 2 ^ 32) [1] = .ok e →
     let va := e.base + 1024 * i
     (∀ bs s1, w / 2 ^ 28 % 16 = 0 → engineRead s (.engine c) q.org.job va 1024 = .ok (bs, s1) → ∃ b, progStep q c i w a s = .ok (b, s1) ∧
       b.flags = a.flags ∧ ∀ m, m < 8 → b.xs.getD m [] = if m = w / 2 ^ 25 % 8 then (words32 bs).map (BitVec.ofNat 64) else a.xs.getD m []) ∧
     (∀ s1, w / 2 ^ 28 % 16 = 1 →
       engineWrite s (.engine c) q.org.job va ((a.xs.getD (w / 2 ^ 22 % 8) []).flatMap (fun x => bytesOfNat 4 x.toNat)) = .ok s1 →
       progStep q c i w a s = .ok (a, s1))))

/-- R302, R314 to R316: the barrier operations that reach one line in a cycle run one after the other at its home: all drops, then the arrivals, then
`bar.init`, each group by bank unit and slot; then the waits whose condition holds are marked for their answer. `bar.init` sets `expected`, clears
`arrived` and keeps the phase; an arrival or a drop is answered with the phase it was counted in, and completes it once `arrived` reaches `expected`;
with `expected` 0 they fail with BAR_STATE. A `bar.wait` waits, and is answered with the phase once its own has passed.

What is the model's own in this: assumption 76. -/
def Obligations.BarrierResults : Prop :=
  (∀ (s : State) (q : Req), s.req s.my.arg.n = some q → isBarrier q.row = true →
    (s.mayServe q = false → exec .barrierOp s = .next s) ∧
    (s.mayServe q = true → s.barHome q = none → exec .barrierOp s = .next (serveBarrier s q)) ∧
    (∀ num, s.mayServe q = true → s.barHome q = some num →
      let turn (r : Req) : Nat := match r.row with | .barDrop => 0 | .barArrive => 1 | .barInit => 3 | _ => 2
      let before (a b : Req) : Prop := turn a * 2 ^ 32 + 8 * a.org.bu + a.org.slot ≤ turn b * 2 ^ 32 + 8 * b.org.bu + b.org.slot
      let group := ((barGroup s.my.arg).filterMap s.req).filter (fun r => isBarrier r.row && s.mayServe r && s.barHome r == some num)
      ∃ l : List Req, l.Perm group ∧ q ∈ l ∧ l.Pairwise before ∧ exec .barrierOp s = .next (settleBar (l.foldl serveBarrier s) q.org.bu num))) ∧
  (∀ (s : State) (q : Req), s.req q.id = some q →
    let n := q.org.bu
    let t := serveBarrier s q
    let fails (code : Code) (a : Nat) : Prop := t.ms = s.ms ∧ t.req q.id = some { q with stage := .failed code.num a 0, hold := [], after := [] }
    (∀ code a, requestHome s q (q.row != .barWait) = .error (code, a) → fails code a) ∧
    (∀ h s1, requestHome s q (q.row != .barWait) = .ok (h, s1) →
      let b := barOf (homeBytes s1 n h 10)
      let puts (bs : List Byte) : Prop :=
        (∀ a, h = .bank a → (t.bu n).bank = (s.bu n).bank.writeBytes a bs) ∧ (∀ k, h = .dev k → t.ms.mem = s.ms.mem.writeBytes k bs)
      let settled (expected arrived : Nat) : Bar :=
        if expected ≤ arrived then ⟨expected, 0, (b.phase + 1) % 65536⟩ else ⟨expected, arrived, b.phase⟩
      let bytes (x : Bar) : List Byte := bytesOfNat 4 x.expected ++ bytesOfNat 4 x.arrived ++ bytesOfNat 2 x.phase
      (q.row = .barInit → t.req q.id = none ∧ puts (bytes ⟨q.c % 2 ^ 32, 0, b.phase⟩ ++ List.replicate 54 0)) ∧
      (q.row = .barArrive → b.expected ≠ 0 → t.req q.id = some { q with stage := .replied (BitVec.ofNat 512 b.phase) } ∧
        puts (bytes (settled b.expected ((b.arrived + 1) % 2 ^ 32)))) ∧
      (q.row = .barDrop → b.expected ≠ 0 → t.req q.id = some { q with stage := .replied (BitVec.ofNat 512 b.phase) } ∧
        puts (bytes (settled (b.expected - 1) b.arrived))) ∧
      ((q.row = .barArrive ∨ q.row = .barDrop) → b.expected = 0 → fails .barState 0) ∧
      (q.row = .barWait → t.req q.id = some { q with stage := .waiting, b := h.num n } ∧ (t.bu n).bank = (s.bu n).bank ∧ t.ms.mem = s.ms.mem))) ∧
  (∀ (s : State) (n num : Nat), let phase := (barOf (homeBytes s n (homeOf n num) 10)).phase
    let t := settleBar s n num
    t.bus = s.bus ∧ t.ms = s.ms ∧ ∀ (i : Nat) (r : Req), s.hub.reqs[i]? = some r →
      let passed := (phase + 65536 - r.c % 65536) % 65536
      let due : Prop := r.row = .barWait ∧ r.stage = .waiting ∧ r.b = num ∧ r.c < 2 ^ 64 ∧ 1 ≤ passed ∧ passed ≤ 32767
      (¬due → t.hub.reqs[i]? = some r) ∧
      (due → t.hub.reqs[i]? = some { r with c := 2 ^ 64 + phase,
                                             obs := (s.ms.bars.filter (fun x => x.key = num ∧ x.phase = r.c % 65536)).map (·.rel) })) ∧
  (∀ (s : State) (q : Req), s.req s.my.arg.n = some q → q.row = .barWait → q.stage = .waiting →
    let phase := (barOf (homeBytes s q.org.bu (homeOf q.org.bu q.b) 10)).phase
    let passed := (phase + 65536 - q.c % 65536) % 65536
    (q.c < 2 ^ 64 → 1 ≤ passed → passed ≤ 32767 → ∃ t r, exec .barWaitAnswer s = .next t ∧ t.req q.id = some r ∧
      r.stage = .replied (BitVec.ofNat 512 phase)) ∧
    (q.c < 2 ^ 64 → (passed = 0 ∨ 32767 < passed) → ∃ t, exec .barWaitAnswer s = .next t ∧ t.req q.id = some q) ∧
    (2 ^ 64 ≤ q.c → ∃ t r, exec .barWaitAnswer s = .next t ∧ t.req q.id = some r ∧ r.stage = .replied (BitVec.ofNat 512 (q.c % 2 ^ 64))))

/-- R354 to R356, R370: an add or a count raises its counter, and only it; a read is answered with it; a wait waits, is due once the counter has
reached its target, and is then answered; an index beyond the job's counters fails with CNT_RANGE. A completion is counted only when what its instance
issued, and what its streams wrote, has performed.

What is the model's own in this: assumptions 45, 59, 82, 96 and 124. -/
def Obligations.CounterResults : Prop :=
  (∀ (s : State) (q : Req), s.req s.my.arg.n = some q → q.begun = false → s.mayServe q = true →
    let fails (c : Code) : Prop := ∃ t, exec .counterRequest s = .next t ∧ t.hub.counters = s.hub.counters ∧
      t.req q.id = some { q with stage := .failed c.num 0 0, hold := [], after := [] }
    ((q.row = .cntAdd ∨ q.row = .cntRd ∨ q.row = .cntWait) → s.counterOf q.org.job q.a = none → fails .cntRange) ∧
    (∀ k, s.counterOf q.org.job q.a = some k →
      let val := (mapGetD k s.hub.counters (0, 0)).1
      let passed := (val.toNat + 2 ^ 32 - q.b % 2 ^ 32) % 2 ^ 32
      (q.row = .cntAdd → ∃ t, exec .counterRequest s = .next t ∧ t.req q.id = none ∧ (mapGetD k t.hub.counters (0, 0)).1 = val + BitVec.ofNat 32 q.b ∧
        ∀ i, i ≠ k → mapGet i t.hub.counters = mapGet i s.hub.counters) ∧
      (q.row = .cntRd → ∃ t, exec .counterRequest s = .next t ∧ t.req q.id = some { q with stage := .replied (BitVec.ofNat 512 val.toNat) } ∧
        t.hub.counters = s.hub.counters) ∧
      (q.row = .cntWait → ∃ t r, exec .counterRequest s = .next t ∧ t.hub.counters = s.hub.counters ∧ t.req q.id = some r ∧ r.stage = .waiting ∧
        (passed < 2 ^ 31 → r.c = 1 ∧ r.b = val.toNat) ∧ (2 ^ 31 ≤ passed → r.c = 0 ∧ r.a = k ∧ r.b = q.b % 2 ^ 32))) ∧
    (∀ c, q.row = .cancel → cancelWork s q.org.job (q.mod / 2 ^ 8 % 2 ^ 3) q.a (some q.org.region) = .error c → fails c)) ∧
  (∀ (s : State) (q : Req), s.req s.my.arg.n = some q → q.row = .cntAdd → q.begun = true →
    ((∃ id ∈ q.after, s.outstanding id = true) ∨ (∃ p ∈ s.ms.pending, p.w.party = q.party) → exec .counterRequest s = .next s) ∧
    ((∀ id ∈ q.after, s.outstanding id = false) → (∀ p ∈ s.ms.pending, p.w.party ≠ q.party) → ∃ t, exec .counterRequest s = .next t ∧ t.req q.id = none ∧
      ∀ k, s.counterOf q.org.job q.a = some k → (mapGetD k t.hub.counters (0, 0)).1 = (mapGetD k s.hub.counters (0, 0)).1 + 1)) ∧
  (∀ (s : State) (q : Req), s.req s.my.arg.n = some q → q.row = .cntWait → q.stage = .waiting →
    (q.c = 1 → ∃ t, exec .cntWaitAnswer s = .next t ∧ t.req q.id = some { q with stage := .replied (BitVec.ofNat 512 q.b) }) ∧
    (q.c ≠ 1 → exec .cntWaitAnswer s = .next s))

/-- R326, R331, R332, R335 to R337: a ladder request that names no span, or that the checks turn away, fails with its rung as detail; `probe` gives the
span's word, `sp.pin` and `sp.unpin` count its pins, and a rung that is present and not being built is answered; one whose source is absent fails
with LADDER_STATE, and one that must be built waits for its build. With nothing else parked on the span, a parked request that still waits stays.
R319: a request for a span of another module of the caravan goes over its link, and takes the answer or the failure that comes back (assumption 99).

R325, R329, R338: a transform whose launch has completed ends: its build is gone, its cost is charged to the payer's budget, and when it failed the
request that asked for it fails with LADDER_XFORM and the failure's code.

What is the model's own in this: assumptions 97, 98, 99 and 101. -/
def Obligations.LadderRequests : Prop :=
  ((∀ (s : State) (q : Req), s.my.arg.flag2 = false → s.req s.my.arg.n = some q → q.namesSpan = true → s.farHome q = none → s.mayServe q = true →
     s.hub.parked = [] → (∀ b ∈ s.hub.builds, b.req ≠ q.id) →
     let u := ladderAcquire s q
     let k := q.rung
     let fails (c : Code) : Prop := ∃ t, exec .ladderRequestService s = .next t ∧ t.ms.mem = s.ms.mem ∧
       t.req q.id = some { q with stage := .failed c.num 0 k, hold := [], after := [] }
     (∀ c, s.spanNamed q.a = .error c → fails c) ∧
     (∀ p, s.spanNamed q.a = .ok p → q.begun = false →
       (∀ c, ladderChecks s q p = some c → fails c) ∧
       (ladderChecks s q p = none →
         (q.row = .probe → exec .ladderRequestService s = .next (answer u q (s.probeWord p))) ∧
         (q.row = .spPin → p.pins = 65535 → fails .ladderPinned) ∧
         (q.row = .spUnpin → p.pins = 0 → fails .ladderPinned) ∧
         (q.row = .spPin → p.pins ≠ 65535 → exec .ladderRequestService s = .next (answer (u.putSpan { p with pins := p.pins + 1 }) q (p.pins + 1))) ∧
         (q.row = .spUnpin → p.pins ≠ 0 → exec .ladderRequestService s = .next (answer (u.putSpan { p with pins := p.pins - 1 }) q (p.pins - 1))) ∧
         ((q.row = .lift ∨ q.row = .lower) → p.has k = true → s.rungState p k ≠ 1 → ∃ t, exec .ladderRequestService s = .next t ∧ t.ms.mem = s.ms.mem ∧
           (t.req q.id).map (·.stage) = some (.replied (BitVec.ofNat 512 (recallWord p k)))) ∧
         (q.row = .lift → p.has k = false → p.has (k - 1) = false → fails .ladderState) ∧
         (q.row = .lower → p.has k = false → p.has (k + 1) = false → fails .ladderState) ∧
         (∀ t, q.row = .lower → p.has k = false → p.has (k + 1) = true → s.rungState p (k + 1) ≠ 1 →
           startBuild u q p k (k + 1) false q.org.job = .go t → (∃ b ∈ t.hub.builds, b.req = q.id) → t.req q.id = some q →
           ∃ v, exec .ladderRequestService s = .next v ∧ v.hub.builds = t.hub.builds ∧ v.hub.launches = t.hub.launches ∧
             v.req q.id = some { q with stage := .waiting, begun := true }) ∧
         (q.row = .recall → p.all = [] → fails .recallDead) ∧
         (q.row = .drop → p.has k = false → fails .ladderState) ∧
         (q.row = .spFree → p.pins ≠ 0 → fails .ladderPinned)))) ∧
   (∀ (s : State) (q : Req), s.my.arg.flag2 = false → s.req s.my.arg.n = some q → s.mayServe q = true →
     (∀ t c a x, q.row = .spNew → serveNew (ladderAcquire s q) q = .failIn t c a x → t.req q.id = some q → ∃ v, exec .ladderRequestService s = .next v ∧
       v.ms = t.ms ∧ v.req q.id = some { q with stage := .failed c.num a x, hold := [], after := [] }) ∧
     (∀ c a x, q.row = .spNew → serveNew (ladderAcquire s q) q = .fail c a x → ∃ t, exec .ladderRequestService s = .next t ∧
       t.req q.id = some { q with stage := .failed c.num a x, hold := [], after := [] }) ∧
     (∀ t, q.row = .spNew → serveNew (ladderAcquire s q) q = .go t → (∀ b ∈ t.hub.builds, b.req ≠ q.id) → exec .ladderRequestService s = .next t) ∧
     (∀ e bs s1 n s2, let job := q.org.job
       (q.row = .pgRef ∨ q.row = .pgUnref) → s.hentKind job (q.a % 2 ^ 32) [3, 4] = .ok e → isRungHandle (q.a % 2 ^ 32) = false → q.b % 2 ^ 32 < e.size / 8 →
       readVa (ladderAcquire s q) job .ladder (e.base + 8 * (q.b % 2 ^ 32)) 8 = .ok (bs, s1) → (∀ b ∈ s2.hub.builds, b.req ≠ q.id) →
       (if q.row = .pgRef then pageUp s1 job (natOfBytes bs) else pageDown s1 job (natOfBytes bs)) = .ok (n, s2) →
       exec .ladderRequestService s = .next (answer s2 q n))) ∧
   (∀ (s : State) (q : Req) (m link : Nat), s.my.arg.flag2 = false → s.req s.my.arg.n = some q → isLadder q.row = true → s.farHome q = some m →
     (q.stage ≠ .waiting → s.mayServe q = true → s.linkTo m = some link → 0 < s.out.window (16 + link) → ∃ t, exec .ladderRequestService s = .next t ∧
       t.ms = s.ms ∧ t.out.window (16 + link) = s.out.window (16 + link) - 1 ∧ t.req q.id = some { q with stage := .waiting, begun := true }) ∧
     (q.stage = .waiting → s.my.arg.flag = false → exec .ladderRequestService s = .next s) ∧
     (q.stage = .waiting → s.my.arg.flag = true → ∃ t, exec .ladderRequestService s = .next t ∧ t.ms = s.ms ∧ t.req q.id = some (
       if s.my.arg.m = 0 then { q with stage := .replied (BitVec.ofNat 512 (natOfBytes s.my.arg.bytes % 2 ^ 64)) }
       else { q with stage := .failed s.my.arg.m s.my.arg.cmd.a0.toNat q.rung, hold := [], after := [] }))) ∧
   (∀ (s : State) (q : Req), s.req s.my.arg.n = some q → q.namesSpan = true → q.stage = .waiting →
     ((∀ x ∈ s.parkedOn q.spanSlot, tryRequest s x = .wait) → exec .parkedRetry s = .next s) ∧
     (∀ c a x, s.hub.parked = [q.id] → tryRequest s q = .fail c a x → ∃ t, exec .parkedRetry s = .next t ∧ t.hub.parked = [] ∧
       t.req q.id = some { q with stage := .failed c.num a x, hold := [], after := [] }))) ∧
  (∀ (s : State) (b : Build), s.hub.builds.find? (fun b => b.id == s.my.arg.n) = some b → (∀ e ∈ s.hub.jobs, e.2.closed = false) →
     (∀ x ∈ s.hub.xforms, x.1 < 2 ^ 32) → s.hub.parked = [] →
     (b.launch ≠ none → exec .transformEnd s = .next s) ∧
     (b.launch = none → ∃ t, exec .transformEnd s = .next t ∧ t.hub.builds = s.hub.builds.filter (fun x => x.id != b.id) ∧
       (∀ j, mapGet b.payer s.hub.jobs = some j → (mapGet b.payer t.hub.jobs).map (·.budget) = some (j.budget - b.cost)) ∧
       (∀ c q, b.failed = some c → s.req b.req = some q → isLadder q.row = true → (s.span b.slot).live = true → (s.span b.slot).gen = b.gen →
         (s.span b.slot).owner = b.payer → t.req q.id = some { q with stage := .failed Code.ladderXform.num 0 (c * 2 ^ 8), hold := [], after := [] })))

/-- R360 to R362, R370, R54, R361, R276: a launch that arrives and passes the checks takes an ID and joins its region's queue; one that breaks a check is
rejected with its code and a record; while the queue holds 4,096 launches it waits. The first launch of a placed region's queue starts once its phase
and its tick have come, and no alarm has locked the module (R408): every context with a block 0 begins an instance, with its own seed and the
registers bound for it.

What is the model's own in this: assumptions 16, 60, 85, 103, 112, 113 and 146. -/
def Obligations.LaunchesArriveAndStart : Prop :=
  (∀ (s : State) (q : Req) (j : Job), let va := q.a % 2 ^ 57
    s.req s.my.arg.n = some q → q.row = .glLaunch → s.mayServe q = true → mapGet q.org.job s.hub.jobs = some j → j.id = q.org.job →
    let queued := (s.hub.launches.filter (fun e => e.2.st == .queued && e.2.build.isNone)).length
    (4096 ≤ queued → exec .launchArrival s = .next s) ∧
    (queued < 4096 →
    (va % 64 ≠ 0 → ∃ t, exec .launchArrival s = .next t ∧ t.hub.launches = s.hub.launches ∧
      t.req q.id = some { q with stage := .failed Code.launchBad.num 0 0, hold := [], after := [] }) ∧
    (∀ t1 t2 bytes, va % 64 = 0 → s.place j.id va false = .ok t1 → s.place j.id (va + 64) false = .ok t2 → t1.kind = 0 → t2.kind = 0 →
      s.peekVa j.id va 128 = some bytes → let r := launchRec (natOfBytes bytes) false
        (∀ c, checkLaunch s j r false = .error c → ∃ t p, exec .launchArrival s = .next t ∧ t.hub.launches = s.hub.launches ∧
          t.hub.recs = s.hub.recs ++ [p] ∧ p.record.code = c.num ∧ p.stage = 1 ∧ p.reply = r.reply ∧
          t.req q.id = some { q with stage := .failed c.num 0 0, hold := [], after := [] }) ∧
        (∀ l, checkLaunch s j r false = .ok l → ∃ t rid, let id := mapFree 65535 1 s.hub.launches
          exec .launchArrival s = .next t ∧ t.req q.id = some { q with stage := .replied (BitVec.ofNat 512 id) } ∧
          mapGet id t.hub.launches = some { l with id := id, region := rid } ∧ t.hub.recs = s.hub.recs ∧
          (s.regionFor r.image = none → ∃ g, t.region rid = some g ∧ g.image = r.image ∧ g.job = j.id ∧ g.pool = j.pool ∧ g.queue = [id]) ∧
          (∀ g, s.regionFor r.image = some g → s.region g.id = some g → rid = g.id ∧ (t.region g.id).map (·.queue) = some (g.queue ++ [id])))))) ∧
  (∀ (s : State) (r : Region) (l : Launch) (rest : List Nat), s.region s.my.arg.n = some r → r.id = s.my.arg.n → r.running = none →
    r.queue = l.id :: rest → s.launch l.id = some l → l.region = r.id → l.dual = false → r.primary = true →
    (r.place = none ∨ s.out.tick < l.tick ∨ s.phaseDue l = false ∨ s.out.locked = true → exec .launchStart s = .next s) ∧
    (s.out.locked = false → r.place ≠ none → l.tick ≤ s.out.tick → s.phaseDue l = true → ∃ t g, exec .launchStart s = .next t ∧ t.region r.id = some g ∧
      g.running = some l.id ∧ g.queue = rest ∧ g.commits = 0 ∧ g.opened = 1 ∧ g.rb = 0 ∧
      (∀ n k, n ∈ s.regionBus r → k < 4 → (s.bu n).region = some r.id → (s.block n k 0).isSome = true → let c := t.ctx n k
        let b := s.bu n
        let binds := l.bindsFor (b.offDie, b.offX, b.offY) k
        let seed := l.seed + BitVec.ofNat 64 (4 * ((96 * b.offDie + b.offX) * 64 + b.offY) + k)
        c.launch = some l.id ∧ (c.st = .active ∨ c.st = .fetch) ∧ c.regs.seed = seed ∧ c.regs.rng = (if seed = 0 then 1 else seed) ∧
          c.regs.bc = 0 ∧ c.regs.round = 0 ∧ c.regs.flags = 0 ∧
          (∀ i : Fin 32, (∀ x ∈ binds, x.what = 0 → Fin.ofNat 32 x.index ≠ i) → c.regs.g[i] = ⟨0, .full⟩) ∧
          (∀ i : Fin 32, ∀ x, binds = [x] → x.what = 0 → Fin.ofNat 32 x.index = i → c.regs.g[i] = ⟨x.val, .full⟩))))

/-- R352, R356, R366: a running launch completes once everything of it has: it is gone, its region runs nothing, its contexts hold no instance, and
its completion is counted on `cnt_launch`; until then it stays.

R357 to R359, R364, R365, R408: one act of a pool's scheduler. A region to place where nothing stands in its way takes its granules: each bank unit
of its box is its own, and keeps its bank. Retired granules that a placement would use leave the pool. A region that must give way begins to freeze.
After an `erase` alarm nothing is placed. When a quantum has passed, a completion that is due comes first; a region that another would take the place
of begins to freeze, or, while it cannot be pre-empted, waits for the next commit of its rounds; and one that no other would take the place of starts
its quantum again.

What is the model's own in this: assumptions 79, 80 and 86 to 89. -/
def Obligations.LaunchesCompleteAndRegionsMove : Prop :=
  (∀ (s : State) (l : Launch) (r : Region), s.launch s.my.arg.n = some l → l.id = s.my.arg.n → s.region l.region = some r → r.id = l.region →
     (∀ e ∈ s.hub.jobs, e.2.closed = false) →
     (launchReady s l = false → exec .launchCompletion s = .next s) ∧
     (launchReady s l = true → l.dual = false → r.running = some l.id → ∃ t, exec .launchCompletion s = .next t ∧
       t.hub.launches = mapDel l.id s.hub.launches ∧ (t.region r.id).map (·.running) = some none ∧
       (∀ n k, n ∈ s.regionBus r → k < 4 → (t.ctx n k).launch = none) ∧ t.ms.mem = s.ms.mem ∧
       (∀ j i, mapGet l.job s.hub.jobs = some j → l.cnts.getD 1 0xFFFF = i → i < j.ncnt → l.eos = false → l.close = false → l.build = none →
         j.phaseCnts = [] → (mapGetD (j.cntBase + i) t.hub.counters (0, 0)).1 = (mapGetD (j.cntBase + i) s.hub.counters (0, 0)).1 + 1))) ∧
  ((∀ (s : State), let pool := s.my.arg.n
     (s.out.locked = true → exec .regionPlacement s = .next s) ∧
     (s.out.locked = false → s.underPreempt pool = none →
     (nextAct s pool = .none → exec .regionPlacement s = .next s) ∧
     (∀ gs, nextAct s pool = .leave gs → ∃ t, exec .regionPlacement s = .next t ∧ t.bus = s.bus ∧ t.ms = s.ms ∧ t.hub.regions = s.hub.regions ∧
       ∀ e, e ∈ t.hub.pools ↔ e ∈ s.hub.pools ∧ ¬(e.2 = pool ∧ e.1 ∈ gs)) ∧
     (∀ rid p r im, nextAct s pool = .place rid p → s.region rid = some r → r.id = rid → s.image r.image = some im → r.saved = none → p.evict = [] →
       let ns := (boxOffsets im.dies im.width im.height).map (fun o => p.place.bu o.1 o.2.1 o.2.2)
       ((∃ n ∈ ns, (s.bu n).retention = true) → exec .regionPlacement s = .next s) ∧
       ((∀ n ∈ ns, (s.bu n).retention = false) → ∃ t g, exec .regionPlacement s = .next t ∧ t.region rid = some g ∧ g.place = some p.place ∧
         g.waitSince = none ∧ g.quantumUsed = 0 ∧ g.commits = 0 ∧ g.rb = 0 ∧ g.hang = 0x00100000 ∧
         (∀ n ∈ ns, (t.bu n).region = some rid ∧ (t.bu n).bank = (s.bu n).bank ∧ (t.bu n).rns.auto = (s.bu n).rns.auto ∧ (t.bu n).queues = [] ∧
           (t.bu n).hq = [] ∧ (t.bu n).frozen = []) ∧
         (∀ n, n ∉ ns → t.bu n = s.bu n))) ∧
     (∀ rid r, nextAct s pool = .preempt rid → s.region rid = some r → ∃ t, exec .regionPlacement s = .next t ∧ t.hub = s.hub ∧ t.ms = s.ms ∧
       ∀ n ∈ s.regionBus r, .preempt ∈ (t.bu n).frozen ∨ .preempt ∈ (t.bu n).waves))) ∧
   (∀ (s : State) (r : Region) (l : Launch), s.region s.my.arg.n = some r → r.id = s.my.arg.n → r.running.bind s.launch = some l →
     (l.quantum = 0 ∨ r.place = none ∨ r.quantumUsed < 1000 * l.quantum ∨ r.primary = false → exec .quantumExpiry s = .next s) ∧
     (l.quantum ≠ 0 → r.place ≠ none → 1000 * l.quantum ≤ r.quantumUsed → r.primary = true →
       (launchReady s l = true → l.region = r.id → (∀ e ∈ s.hub.jobs, e.2.closed = false) → ∃ t, exec .quantumExpiry s = .next t ∧
         t.hub.launches = mapDel l.id s.hub.launches) ∧
       (launchReady s l = false →
         let wanted : Prop := s.isXform r = false ∧ ∃ e ∈ s.hub.regions, e.2.pool = r.pool ∧ s.waits e.2 = true ∧ s.isXform e.2 = false ∧
           l.prio ≤ s.prioOf e.2 ∧ planFor (s.leavePool r.pool s.retiredGranules) e.2 (s.groupIds [r]) ≠ none
         (¬wanted → exec .quantumExpiry s = .next (s.modRegion r.id (fun g => { g with quantumUsed := 0, expired := false }))) ∧
         (wanted → s.preemptable r = false → exec .quantumExpiry s = .next (s.modRegion r.id (fun g => { g with quantumUsed := 0, expired := true }))) ∧
         (wanted → s.preemptable r = true → ∃ t, exec .quantumExpiry s = .next t ∧ t.ms = s.ms ∧
           t.region r.id = some { r with quantumUsed := 0, expired := false } ∧
           ∀ n ∈ s.regionBus r, .preempt ∈ (t.bu n).frozen ∨ .preempt ∈ (t.bu n).waves)))))

/-- R377, R380: a record under delivery is taken by the first stage from its own that accepts it, with that stage as its level, and is then posted:
the handler queue of its bank unit, the slot that its launch's `reply` names, the graph queue, the phase queue, or the job fault queue, which takes a
record before its `tail` rises and counts one it has no room for.

What is the model's own in this: assumptions 83, 105 and 106. -/
def Obligations.RecordDelivery : Prop :=
  (∀ (s : State) (p : PRec), s.hub.recs.find? (fun p => p.id == s.my.arg.n) = some p → (∀ e ∈ s.hub.jobs, e.2.closed = false) →
    let posted (t : State) : Prop := exec .faultRecordDelivery s = .next t ∧ t.hub.recs = s.hub.recs.filter (fun r => r.id != p.id)
    (p.stage = 0 → replyWord s p.org % 4 = 1 → handlerTakes s p.org = true → ∃ t, posted t ∧ t.ms.mem = s.ms.mem ∧
      (t.bu p.org.bu).hq = (s.bu p.org.bu).hq ++ [⟨{ p.record with level := 0 }, p.org.slot, (s.bu p.org.bu).cycle⟩]) ∧
    (∀ u, p.stage = 0 → replyWord s p.org % 4 = 2 → s.peekVa p.org.job (replyWord s p.org / 2 ^ 5 % 2 ^ 52 * 32) 1 = some [0] →
      writeVa s p.org.job .host (replyWord s p.org / 2 ^ 5 % 2 ^ 52 * 32) ({ p.record with level := 0 } : FaultRec).bytes = .ok u →
      ∃ t, posted t ∧ t.ms = u.ms) ∧
    (∀ u, p.stage = 1 → p.reply ≠ 0 → s.peekVa p.org.job p.reply 1 = some [0] →
      writeVa s p.org.job .host p.reply ({ p.record with level := 1 } : FaultRec).bytes = .ok u → ∃ t, posted t ∧ t.ms = u.ms) ∧
    (∀ r, (p.stage = 1 ∧ p.reply = 0 ∨ p.stage = 2) → s.region p.org.region = some r → r.id = p.org.region → r.graphDone = false → r.gq.length < 16 →
      ∃ t, posted t ∧ t.ms = s.ms ∧ t.region r.id = some { r with gq := r.gq ++ [{ p.record with level := 2 }] }) ∧
    (∀ j, (p.stage = 3 ∨ p.stage = 2 ∧ s.region p.org.region = none) → mapGet p.org.job s.hub.jobs = some j → j.phase ≤ p.phase →
      (s.phaseQueue j.id p.phase).length < 16 → ∃ t, posted t ∧ t.ms = s.ms ∧
        t.phaseQueue j.id p.phase = s.phaseQueue j.id p.phase ++ [{ p.record with level := 3 }]) ∧
    (∀ j, p.stage = 4 → mapGet p.org.job s.hub.jobs = some j → ∃ t, posted t ∧ t.ms = (fqAppend s j.id j.fq { p.record with level := 4 }).ms)) ∧
  (∀ (s u v : State) (job fq : Nat) (r : FaultRec) (bytes : List Byte), s.peekVa job fq 24 = some bytes →
    let n := natOfBytes bytes
    let tail := n % 2 ^ 64
    let head := n / 2 ^ 64 % 2 ^ 64
    let slots := n / 2 ^ 128 % 2 ^ 32
    (head + slots ≤ tail → writeVa s job .host (fq + 20) (bytesOfNat 4 (min (n / 2 ^ 160 % 2 ^ 32 + 1) 0xFFFFFFFF)) = .ok u → fqAppend s job fq r = u) ∧
    (tail < head + slots → writeVa s job .host (fq + 64 + 32 * (tail % slots)) r.bytes = .ok u →
      writeVa u job .host fq (bytesOfNat 8 ((tail + 1) % 2 ^ 64)) = .ok v → fqAppend s job fq r = v))

/-- R382 to R384, R388, R389: a region commits its next round once every context has closed it: the round counts, `rgn.stat` shows it, its held requests
leave and its entries go from the logs; a region whose quantum has passed is then tried again (R365). A placement of a dual run forms its value first, and waits for the other's. A third placement that has no
dispute to settle is removed, and one that has waits until it is placed and has its value; its value then says which placement is suspect.

What is the model's own in this: assumptions 90, 94 and 108. -/
def Obligations.RoundsCommit : Prop :=
  (∀ (s : State) (r : Region), s.region s.my.arg.n = some r → r.id = s.my.arg.n → let q := r.commits
    let calm : Prop := ∀ g, s.region (s.lead r).id = some g → g.expired = false
    (roundDue s r = false → exec .roundCommit s = .next s) ∧
    (roundDue s r = true → r.dual = false → r.primary = true → r.expired = true → r.running.bind s.launch ≠ none → ∃ t g, exec .roundCommit s = .next t ∧
      t.region r.id = some g ∧ g.commits = q + 1 ∧ g.quantumUsed = 0) ∧
    (roundDue s r = true → r.dual = false → calm → ∃ t, exec .roundCommit s = .next t ∧
      t.region r.id = some { r with commits := q + 1, shown := q % 4096, rb := 0, norepRounds := r.norepRounds.filter (· != q), vote := none } ∧
      t.ms.mem = s.ms.mem ∧
      (∀ n ∈ s.regionBus r, (t.bu n).wlog = (s.bu n).wlog.filter (fun e => !decide (e.round ≤ q)) ∧ (∀ e ∈ (t.bu n).replay, q < e.round) ∧
        (t.bu n).bank = (s.bu n).bank) ∧
      (∀ n ∈ s.regionBus r, ∀ e ∈ (s.bu n).wlog, ∀ id x, e.round ≤ q → e.item = .req id → s.req id = some x → x.row ≠ .cstep → x.row ≠ .cstepTo →
        (t.req id).map (·.stage) = some .queued)) ∧
    (roundDue s r = true → r.dual = true → r.voting = true → calm →
      exec .roundCommit s = .next (s.modRegion r.id (fun g => { g with vote := some (voteValue s r q) }))) ∧
    (∀ x, roundDue s r = true → r.dual = true → r.voting = false → r.primary = true → calm → s.twinOf r = some x → x.id ≠ r.id →
      r.twins.head? = some x.id → x.vote = none →
      exec .roundCommit s = .next (s.modRegion r.id (fun g => { g with vote := some (voteValue s r q) })))) ∧
  (∀ (s : State) (r : Region), s.region s.my.arg.n = some r →
    (s.twinOf r = none ∨ s.thirdOf r = none ∨ s.image r.image = none → exec .thirdPlacementVote s = .next s) ∧
    (∀ t x im, s.twinOf r = some t → s.thirdOf r = some x → s.image r.image = some im →
      (r.vote = none → exec .thirdPlacementVote s = .next (removeRegion s x)) ∧
      (r.vote ≠ none → x.place = none → exec .thirdPlacementVote s = .next s) ∧
      (r.vote ≠ none → x.place ≠ none → x.running ≠ none → x.vote = none → exec .thirdPlacementVote s = .next s) ∧
      (r.vote ≠ none → x.place ≠ none → x.running ≠ none → x.vote = r.vote → ∃ u, exec .thirdPlacementVote s = .next u ∧
        ∀ g ∈ s.granulesOf t, g ∈ u.hub.suspect ∧ g ∈ u.out.health.suspects)))

/-- R386, R390 to R392, R394: a region that a rollback is called for freezes first; frozen, and with nothing started in its nodes, it loses its queues,
credits, tokens in flight and log entries, counts the rollback and thaws; the placements of a dual run freeze together. A freeze wave that reaches a
bank unit lets a commit that is due come first (R65), and then aborts its blocks and freezes it. A region that stands stuck for `rgn.hang` cycles
freezes, and HANG is posted from stage 1; one that is not frozen whole is no frozen region.

R279, R280: firmware puts the bank of a bank unit without a region into retention, and its exit counts the corrected bits and marks a line that
cannot be corrected. A bank drop takes the bank's capacity, and the migration moves one unit of 1 KiB at a time in ascending order, and the new
striping stands when the last has moved; while too little memory is free the shortage is reported, and nothing moves (assumption 156).

What is the model's own in this: assumptions 90 to 92, 109, 110, 111 and 156. -/
def Obligations.RollbacksFreezesAndBanks : Prop :=
  ((∀ (s : State) (r : Region), s.region s.my.arg.n = some r → r.id = s.my.arg.n → let ns := s.regionBus r
     (r.wantRollback = false ∨ r.place = none → exec .rollback s = .next s) ∧
     (r.wantRollback = true → r.place ≠ none → (∃ n ∈ ns, .rollback ∉ (s.bu n).frozen) → ∃ t, exec .rollback s = .next t ∧ t.hub = s.hub ∧
       (∀ n ∈ ns, .rollback ∈ (t.bu n).frozen ∨ .rollback ∈ (t.bu n).waves) ∧
       (r.dual = true → ∀ g ∈ s.groupOf r, ∀ n ∈ s.regionBus g, .rollback ∈ (t.bu n).frozen ∨ .rollback ∈ (t.bu n).waves)) ∧
     (r.dual = false → r.wantRollback = true → r.place ≠ none → (∀ n ∈ ns, .rollback ∈ (s.bu n).frozen) →
       ((∃ n ∈ ns, (∃ f ∈ (s.bu n).frozen, f ≠ .rollback ∧ f ≠ .preempt) ∨ (s.bu n).node.started ≠ []) → exec .rollback s = .next s) ∧
       ((∀ n ∈ ns, (∀ f ∈ (s.bu n).frozen, f = .rollback ∨ f = .preempt) ∧ (s.bu n).node.started = []) → ∃ t g, exec .rollback s = .next t ∧
         t.region r.id = some g ∧ g.wantRollback = false ∧ g.rb = r.rb + 1 ∧ g.rbtotal = r.rbtotal + 1 ∧ g.commits = r.commits ∧
         (∀ f ∈ t.net.flits, f.dest ∉ ns) ∧
         ∀ n ∈ ns, (t.bu n).queues = [] ∧ (t.bu n).credits = [] ∧ (t.bu n).opers = [] ∧ (t.bu n).wlog = [] ∧ .rollback ∉ (t.bu n).frozen))) ∧
   (∀ (s : State), let n := s.my.arg.n
     ((∃ k, k < 4 ∧ commitReady s n k = true) → exec .freezeWave s = .next s) ∧
     ((∀ k, k < 4 → commitReady s n k = false) → ∃ t, exec .freezeWave s = .next t ∧ t.ms = s.ms ∧ t.net = s.net ∧ (t.bu n).bank = (s.bu n).bank ∧
       (t.bu n).waves = [] ∧ (∀ f, f ∈ (s.bu n).frozen ∨ f ∈ (s.bu n).waves ∧ f ≠ .frz → f ∈ (t.bu n).frozen) ∧
       ((s.bu n).waves ≠ [] → (t.bu n).frozen ≠ []) ∧ ((s.bu n).frozen ≠ [] → (s.bu n).waves = [.frz] → (t.bu n).frozen = (s.bu n).frozen) ∧
       ((s.bu n).waves ≠ [] → ∀ k, k < 4 → (t.ctx n k).blk.running = false ∧ (t.ctx n k).regs = (s.ctx n k).regs))) ∧
   (∀ (s : State) (r : Region) (im : Image), s.region s.my.arg.n = some r → r.id = s.my.arg.n → s.image r.image = some im → let ns := s.regionBus r
     let complete : Prop := ∃ l, r.running.bind s.launch = some l ∧ launchReady s l = true
     (r.place = none ∨ r.hang = 0 ∨ r.idle < r.hang → exec .hang s = .next s) ∧
     (r.dual = false → r.place ≠ none → r.hang ≠ 0 → r.hang ≤ r.idle → (∃ n ∈ ns, (s.bu n).frozen = []) →
       (hangStuck s r = false ∨ complete ∨ ∃ n ∈ ns, ∃ k, k < 4 ∧ commitReady s n k = true) → exec .hang s = .next s) ∧
     (r.dual = false → r.place ≠ none → r.hang ≠ 0 → r.hang ≤ r.idle → (∃ n ∈ ns, (s.bu n).frozen = []) → hangStuck s r = true → ¬complete →
       (∀ n ∈ ns, ∀ k, k < 4 → commitReady s n k = false) → r.map = 0 →
       ∃ t p, exec .hang s = .next t ∧ t.hub.recs = s.hub.recs ++ [p] ∧ p.stage = 1 ∧ p.record.code = Code.hang.num ∧
         p.record.extra = (hangQueues s r im).length % 2 ^ 16 ∧ p.record.round = r.commits % 4096 ∧ t.region r.id = some { r with idle := 0 } ∧
         ∀ n ∈ ns, .monitor ∈ (t.bu n).frozen ∧ ((s.bu n).frozen = [] → (t.bu n).frozen = [.monitor])))) ∧
  (∀ (s : State), let a := s.my.arg
     let b := s.bu a.n
     (b.region = none → a.n < Config.bankUnits → ∃ t, exec .retentionEntry s = .next t ∧ t.bu a.n = { b with retention := true } ∧ t.hub = s.hub ∧ t.ms = s.ms) ∧
     (b.region ≠ none ∨ Config.bankUnits ≤ a.n → exec .retentionEntry s = .next s) ∧
     (b.retention = false → exec .retentionExit s = .next s) ∧
     (b.retention = true → ∃ t, exec .retentionExit s = .next t ∧ (t.bu a.n).retention = false ∧ (t.bu a.n).bank = b.bank ∧
       (t.bu a.n).sec = min (b.sec + a.m) 0xFFFFFFFF ∧ (a.flag = false → (t.bu a.n).badWords = b.badWords) ∧
       (a.flag = true → ∀ i, i < 8 → 8 * (a.cmd.a0.toNat % 1024) + i ∈ (t.bu a.n).badWords)) ∧
     (a.flag = true → ∃ t, exec .bankDropMigration s = .next t ∧ t.hub = { s.hub with shortage := true } ∧ t.ms = s.ms ∧ t.bus = s.bus) ∧
     (a.flag = false → ∃ t, exec .bankDropMigration s = .next t ∧ t.ms = s.ms ∧ t.bus = s.bus ∧
       (s.hub.watermark = none → t.hub.watermark = some 0 ∧ t.hub.epoch = s.hub.epoch ∧ t.hub.dropped = s.hub.dropped + 1 ∧ t.hub.shortage = false) ∧
       (∀ w, s.hub.watermark = some w → w + 1024 < Config.deviceBytes → t.hub.watermark = some (w + 1024) ∧ t.hub.epoch = s.hub.epoch ∧
         t.hub.dropped = s.hub.dropped ∧ t.hub.shortage = false) ∧
       (∀ w, s.hub.watermark = some w → Config.deviceBytes ≤ w + 1024 → t.hub.watermark = none ∧ t.hub.epoch = s.hub.epoch + 1)))

/-- R282, R396, R397: the host's stores in device memory go out line by line and perform at their engines, its own memory takes them at once, and its reads
see what stands there, after its own writes to them; none of it while the link is down. A peer module's request spends a flit of its link's window, and a write's bytes perform.

R396, R398, R403, R405 to R409: the link's training and its failure, the host's registers, the module clock, the main clock's steps, alarms, power-on,
and the firmware calls of programs. A failed link and an erasing alarm freeze every placed region. A bell announces the commands up to `tail`,
after the host's writes to device memory that are under way (R399).

What is the model's own in this: assumptions 5, 7, 8, 40, 118, 121 to 123, 125 and 130. -/
def Obligations.OutsideWorld : Prop :=
  (∀ (s : State), let a := s.my.arg
     let link := a.cmd.a0.toNat % 16
     (2 ^ 60 ≤ a.n → a.n + a.bytes.length ≤ 2 ^ 61 → ∃ t, exec .hostMemoryWrite s = .next t ∧ t.ms.mem = s.ms.mem.writeBytes a.n a.bytes) ∧
     (a.n + a.bytes.length ≤ Config.deviceBytes → s.out.linkFailed = false → ∃ t ws, exec .hostMemoryWrite s = .next t ∧ t.ms.mem = s.ms.mem ∧
       t.ms.pending = s.ms.pending ++ ws ∧ ws.flatMap (fun p => p.w.bytes) = a.bytes ∧ (∀ p, ws.head? = some p → p.w.key = a.n) ∧
       ∀ p ∈ ws, p.w.party = .host ∧ p.w.bytes ≠ [] ∧ p.w.key / 64 = (p.w.key + p.w.bytes.length - 1) / 64) ∧
     (Config.deviceBytes < a.n + a.bytes.length → a.n < 2 ^ 60 → exec .hostMemoryWrite s = .next s) ∧
     (a.n < 2 ^ 60 → s.out.linkFailed = true → exec .hostMemoryWrite s = .next s) ∧
     (a.n + a.m ≤ Config.deviceBytes → s.out.linkFailed = false →
       let own : Prop := ∃ p ∈ s.ms.pending, p.w.party = .host ∧ p.w.key < a.n + a.m ∧ a.n < p.w.key + p.w.bytes.length
       (own → exec .hostMemoryRead s = .next s) ∧
       (¬own → ∃ t, exec .hostMemoryRead s = .next t ∧ t.ms.mem = s.ms.mem ∧
       t.out.lastRead = (readMem s .host a.n a.m).1)) ∧
     (Config.deviceBytes < a.n + a.m ∨ s.out.linkFailed = true → exec .hostMemoryRead s = .next s) ∧
     (s.out.moduleId ≠ none → (∃ k, mapGet a.n s.out.routeTable = some k) → 0 < s.out.window link → a.m + max a.cmd.a1.toNat a.bytes.length ≤ Config.deviceBytes →
       ∃ t, exec .peerRequest s = .next t ∧ t.out.window link = s.out.window link - 1 ∧ (∀ k, k ≠ link → t.out.window k = s.out.window k) ∧
         t.ms.mem = if a.flag then s.ms.mem.writeBytes a.m a.bytes else s.ms.mem) ∧
     (s.out.moduleId = none ∨ mapGet a.n s.out.routeTable = none ∨ s.out.window link = 0 → exec .peerRequest s = .next s) ∧
     (a.n < 32 → s.out.window a.n + 8 ≤ 32 → ∃ t, exec .peerLinkGrant s = .next t ∧ t.out.window a.n = s.out.window a.n + 8 ∧ t.hub = s.hub ∧ t.ms = s.ms) ∧
     (32 ≤ a.n ∨ 32 < s.out.window a.n + 8 → exec .peerLinkGrant s = .next s)) ∧
  (∀ (s : State), let a := s.my.arg
     let o := s.out
     let frozen (t : State) : Prop := ∀ e ∈ s.hub.regions, e.2.place ≠ none → ∀ n ∈ s.regionBus e.2, .firmware ∈ (t.bu n).frozen ∨ .firmware ∈ (t.bu n).waves
     let sets (i : Instr) (o' : Outside) : Prop := exec i s = .next { s with out := o' }
     (a.n = 8 ∨ a.n = 16 ∨ a.n = 32 → sets .jondovyLinkTraining { o with lanes := a.n, ready := true, fwTail := if o.ready then o.fwTail else s.cmdHead,
                                                                             bells := if o.ready then o.bells else [] }) ∧
     (a.n ≠ 8 → a.n ≠ 16 → a.n ≠ 32 → exec .jondovyLinkTraining s = .next s) ∧
     (∃ t, exec .linkRetrainFailure s = .next t ∧ t.out = { o with lanes := 0, linkFailed := true } ∧ t.hub = s.hub ∧ t.ms = s.ms ∧ frozen t) ∧
     sets .bell { o with fwTail := s.cmdTail, bells := if s.cmdTail = o.fwTail then o.bells else o.bells ++
       [(o.fwTail, s.cmdTail, (s.ms.pending.filter (fun p => p.w.party == .host)).map (fun p => p.w.id))] } ∧
     (o.linkFailed = true → exec .hbell s = .next s) ∧
     (o.linkFailed = false → sets .hbell { o with hbell := o.hbell &&& ~~~(BitVec.ofNat 16 a.cmd.a0.toNat) }) ∧
     (a.n = 8 → o.linkFailed = false → ∃ t, exec .hostRegisterWrite s = .next t ∧ t.out.qbase = a.cmd.a0.toNat / 64 * 64 ∧ t.out.fwTail = t.cmdHead ∧
       t.out.bells = [] ∧ t.hub = s.hub ∧ t.ms = s.ms) ∧
     (a.n ≠ 8 ∨ o.linkFailed = true → exec .hostRegisterWrite s = .next s) ∧
     (∃ t, exec .moduleClockTick s = .next t ∧ t.out = { o with tick := (o.tick + 1) % 2 ^ 64 } ∧ t.ms = s.ms ∧ t.bus = s.bus ∧
       t.hub.regions = s.hub.regions.map (fun e =>
         (e.1, if e.2.place ≠ none ∧ e.2.running ≠ none then { e.2 with quantumUsed := e.2.quantumUsed + 1 } else e.2))) ∧
     (o.timeRoot = true → exec .clockSync s = .next s) ∧
     (o.timeRoot = false → a.flag = true → ∃ t, exec .clockSync s = .next t ∧ t.out = { o with tick := a.n % 2 ^ 64, synced := true } ∧ t.ms = s.ms) ∧
     (o.timeRoot = false → a.flag = false → sets .clockSync { o with synced := false }) ∧
     sets .thermalClockStep { o with clockMHz := if a.flag then max 1250 (o.clockMHz - 250) else min 2250 (o.clockMHz + 250) } ∧
     (∀ k : Fin 4, a.n = k.val → let o1 : Outside := { o with
           alarmCount := o.alarmCount + 1, health := { o.health with alarms := o.health.alarms + 1 }, cmdMute := o.cmdMute || o.cmdBegun }
       (o.alarmAct[k] = .log → sets .alarm o1) ∧
       (o.alarmAct[k] = .erase → ∃ t, exec .alarm s = .next t ∧ t.out = { o1 with keyErased := true, locked := true } ∧ frozen t)) ∧
     (∃ t, exec .powerOn s = .next t ∧ t.out.health = o.health ∧ t.out.ready = false ∧ t.out.locked = false ∧ t.out.tick = 0 ∧ t.out.synced = false ∧
       t.out.routeTable = routesFound a.bytes ∧ t.hub.images = [] ∧
       t.hub.jobs = [] ∧ t.hub.regions = [] ∧ t.bus = State.reset.bus ∧ t.ms.mem = s.ms.mem.filter (fun c => 2 ^ 60 ≤ c.1)) ∧
     (∀ q v, s.req a.n = some q → s.mayServe q = true →
       (q.row = .fwcallId ∧ v = o.moduleId.getD 0 % 4096) ∨ (q.row = .fwcallTick ∧ v = o.tick) ∨
       (q.row = .fwcallHealth ∧ v = (if ∃ e ∈ o.health.modes, e.2 = 7 then 1 else 0) + (if s.hub.suspect = [] then 0 else 2) + o.alarmCount % 256 * 256) ∨
       (q.row = .fwcallBell ∧ bellInOrder s q = true ∧ v = 0) →
       ∃ t, exec .fwcallService s = .next t ∧ t.req q.id = some { q with stage := .replied (BitVec.ofNat 512 v) } ∧
         t.out = if q.row = .fwcallBell then { o with hbell := o.hbell ||| BitVec.ofNat 16 (2 ^ (q.a % 16)) } else o))

/-- R400, R408: a command completes with its status, code and results in the 16 bytes at its reply address, when it has one and no alarm has met it, and
then the queue's `head` rises by one; nothing but host memory changes.

R39, R47, R353, R362, R371, R372, R401: what the commands of a job answer. A command that job 0 submits is DENIED, and so is a launch with the record of another job. ARM writes its report; the release form
returns the identifier once no launch of the image is left. A launch is queued and its ID is the result, or its rejection's code is; the first starts
the job from its record; while the queue is full it waits (assumption 16). A caravan's launch that comes too late, or on a clock that cannot be relied
on, is GANG_LATE. A cancel's result is how many launches it cancelled. A query's is the value, or the oldest record, which leaves its queue.

What is the model's own in this: assumptions 14 to 18, 113, 114, 124, 148 and 157. -/
def Obligations.JobCommands : Prop :=
  (∀ (s : State) (code reply result result2 : Nat) (st : CmdStatus), let t := s.complete code reply st result result2
     let word : Nat := (match st with | .ok => 0 | .badCmd => 1 | .badArg => 2 | .denied => 3) + code % 2 ^ 8 * 2 ^ 8 + result % 2 ^ 48 * 2 ^ 16 +
       result2 % 2 ^ 64 * 2 ^ 64
     let m := if reply = 0 ∨ s.out.cmdMute = true then s.ms.mem else s.ms.mem.writeBytes (hostKey reply) (bytesOfNat 16 word)
     t.ms.mem = m.writeBytes (hostKey (s.out.qbase + 8)) (bytesOfNat 8 (natOfBytes (m.readBytes (hostKey (s.out.qbase + 8)) 8) + 1)) ∧
     t.bus = s.bus ∧ t.net = s.net ∧ t.my = s.my ∧ t.hub.jobs = s.hub.jobs ∧ t.hub.launches = s.hub.launches ∧ t.hub.reqs = s.hub.reqs ∧
     t.out = { s.out with cmdBegun := false, cmdMute := false, bells := t.out.bells } ∧ ∀ b ∈ t.out.bells, b ∈ s.out.bells) ∧
  (∀ (s : State), let c := s.my.arg.cmd
     let job := c.job.toNat
     let denied (i : Instr) (code : Nat) : Prop := exec i s = .next (s.complete code c.reply.toNat .denied 0 0)
     let answers (i : Instr) (code : Nat) (st : CmdStatus) (r r2 : Nat) (t : State) : Prop := exec i s = .next (t.complete code c.reply.toNat st r r2)
     (c.job = 0 → denied .arm 1 ∧ denied .armRelease 1 ∧ denied .launch 2 ∧ denied .launchDual 2 ∧ denied .cancelCommand 3 ∧ denied .queryCounter 4 ∧
       denied .queryGraphQueue 4 ∧ denied .queryPhaseQueue 4 ∧ denied .queryRgnStat 4 ∧ denied .queryHealth 4 ∧ denied .map 5 ∧ denied .bindClass 6 ∧
       denied .bindTransform 6 ∧ denied .gang 7) ∧
     (c.job ≠ 0 →
       (∃ t, exec .arm s = .next t ∧ (∀ e, (armAt s job c.a0.toNat).1 = .error e → t.hub.images = s.hub.images) ∧
         (∀ id, (armAt s job c.a0.toNat).1 = .ok id → ∃ im, mapGet id t.hub.images = some im ∧ im.job = job) ∧
         (c.reply ≠ 0 → s.out.cmdMute = false → t.ms.mem = ((s.ms.mem.writeBytes (hostKey c.reply.toNat) (armReport (armAt s job c.a0.toNat).1)).writeBytes (hostKey (s.out.qbase + 8))
           (bytesOfNat 8 (natOfBytes ((s.ms.mem.writeBytes (hostKey c.reply.toNat) (armReport (armAt s job c.a0.toNat).1)).readBytes (hostKey (s.out.qbase + 8)) 8) + 1))))) ∧
       (s.image c.a1.toNat = none → answers .armRelease 1 .badArg 0 0 s) ∧
       (∀ im, s.image c.a1.toNat = some im → (∀ x ∈ s.hub.xforms, x.2 ≠ c.a1.toNat) →
         (im.job ≠ job → answers .armRelease 1 .denied 0 0 s) ∧
         (im.job = job → s.launchesUnder c.a1.toNat = [] → answers .armRelease 1 .ok 0 0 (dropImage s c.a1.toNat)) ∧
         (im.job = job → s.launchesUnder c.a1.toNat ≠ [] → ∃ t, exec .armRelease s = .next t ∧ t.out = { s.out with cmdBegun := true })) ∧
       (∀ dual i, (i = .launch ∧ dual = false ∨ i = .launchDual ∧ dual = true) →
         let record := s.devNat c.a0.toNat 128
         let result (u : State) : Prop := ∀ j, mapGet job u.hub.jobs = some j →
           (c.a1.toNat % 64 ≠ 0 → answers i 2 .badArg Code.launchBad.num 0 (rejectLaunch u j (launchRec (u.devNat c.a1.toNat 128) false) .launchBad)) ∧
           (∀ r, c.a1.toNat % 64 = 0 → r = submitLaunch u j (u.devNat c.a1.toNat 128) false dual →
             (∀ id, r.1 = .ok id → answers i 2 .ok id 0 r.2) ∧ (∀ e, r.1 = .error e → answers i 2 .badArg e.num 0 r.2))
         (4096 ≤ s.queued → exec i s = .next s.cmdWaits) ∧
         (s.queued < 4096 → c.a0 = 0 → (mapGet job s.hub.jobs = none → answers i 2 .badArg Code.jobStart.num 0 s) ∧ result s) ∧
         (s.queued < 4096 → c.a0 ≠ 0 → s.devNat c.a0.toNat 2 ≠ job → answers i 2 .denied 0 0 s) ∧
         (s.queued < 4096 → c.a0 ≠ 0 → s.devNat c.a0.toNat 2 = job →
           (startJob s job record = none → answers i 2 .badArg Code.jobStart.num 0 (launchRefused s job c.a0.toNat c.a1.toNat)) ∧
           (∀ u, startJob s job record = some u → result u))) ∧
       (mapGet job s.hub.jobs = none → answers .cancelCommand 3 .badArg Code.cancelArg.num 0 s) ∧
       (∀ j, mapGet job s.hub.jobs = some j →
         (∀ e, cancelWork s job c.a0.toNat c.a1.toNat none = .error e → answers .cancelCommand 3 .badArg e.num 0 s) ∧
         (∀ n u, cancelWork s job c.a0.toNat c.a1.toNat none = .ok (n, u) →
           exec .cancelCommand s = .next (settleJobs (u.complete 3 u.my.arg.cmd.reply.toNat .ok n 0)))) ∧
       (s.counterOf job c.a1.toNat = none → answers .queryCounter 4 .badArg 0 0 s) ∧
       (∀ k, s.counterOf job c.a1.toNat = some k → mapGetD k s.hub.cntRels [] = [] →
         answers .queryCounter 4 .ok (mapGetD k s.hub.counters (0, 0)).1.toNat 0 s) ∧
       (∀ st, queryRegion s job c.a1.toNat = .error st → answers .queryGraphQueue 4 st 0 0 s ∧ answers .queryRgnStat 4 st 0 0 s) ∧
       (∀ r, queryRegion s job c.a1.toNat = .ok r →
         (r.gq = [] → ∃ t : State, exec .queryGraphQueue s = .next (t.complete 4 c.reply.toNat .ok 0 0) ∧ t.ms = s.ms) ∧
         (∀ x rest, r.gq = x :: rest → s.region r.id = some r → answers .queryGraphQueue 4 .ok (x.word 0) (x.word 1) (s.modRegion r.id (fun g => { g with gq := rest }))) ∧
         (r.place = none → answers .queryRgnStat 4 .ok (r.stat false) 0 s)) ∧
       (∀ j, mapGet job s.hub.jobs = some j → let q := s.phaseQueue job c.a1.toNat
         (∀ x rest, q = x :: rest → answers .queryPhaseQueue 4 .ok (x.word 0) (x.word 1) (s.setPhaseQueue job c.a1.toNat rest)) ∧
         (q = [] → answers .queryPhaseQueue 4 .ok 0 0 (s.setPhaseQueue job c.a1.toNat []))) ∧
       (Config.deviceBytes < c.a2.toNat + 64 → answers .queryHealth 4 .badArg 0 0 s) ∧
       (c.a2.toNat + 64 ≤ Config.deviceBytes → ∃ t bytes, answers .queryHealth 4 .ok 0 0 t ∧ bytes.length = 64 ∧
         t.ms.mem = s.ms.mem.writeBytes c.a2.toNat bytes ∧ t.hub.jobs = s.hub.jobs) ∧
       (4096 < c.a2.toNat → answers .gang 7 .badArg 0 0 s) ∧
       (c.a2.toNat ≤ 4096 → s.out.moduleId = none → answers .gang 7 .ok 0 0 s) ∧
       (∀ m, c.a2.toNat ≤ 4096 → s.out.moduleId = some m → m ∉ s.moduleList c.a1.toNat c.a2.toNat → answers .gang 7 .ok 0 0 s) ∧
       (∀ m j r, c.a2.toNat ≤ 4096 → s.out.moduleId = some m → m ∈ s.moduleList c.a1.toNat c.a2.toNat → s.queued < 4096 → mapGet job s.hub.jobs = some j →
         let u := s.modJob job (fun j => { j with caravan := joinNats j.caravan (s.moduleList c.a1.toNat c.a2.toNat) })
         r = submitGang u j (u.devNat c.a0.toNat 128) (c.a0.toNat % 64 = 0) →
         (∀ id, r.1 = .ok id → answers .gang 7 .ok id 0 r.2) ∧ (∀ e, r.1 = .error e → answers .gang 7 .badArg e.num 0 r.2)) ∧
       (∀ j n, (submitGang s j n false).1 = .error .launchBad) ∧
       (∀ j n e, checkLaunch s j (launchRec n true) false = .error e → (submitGang s j n true).1 = .error e) ∧
       (∀ j n l, checkLaunch s j (launchRec n true) false = .ok l → let late : Prop := s.out.unsync = true ∨ l.tick < s.out.tick + 2000
         (late → (submitGang s j n true).1 = .error .gangLate) ∧ (¬late → (submitGang s j n true).1 = .ok (mapFree 65535 1 s.hub.launches)))))

/-- R258, R323, R324, R401, R402, R404, R405, R407, R408: MAP writes its pairs in order and drops what translates through them; BIND stores a record that keeps its
table; the commands of the host's own are DENIED to a job, and otherwise set what their key names, or are refused their arguments; RESET returns
every setting to its reset value and keeps memory, clocks and the health record; firmware builds its route table again.

What is the model's own in this: assumptions 15, 19, 49, 115, 117, 119 and 120. -/
def Obligations.FirmwareSettings : Prop :=
  ∀ (s : State), let c := s.my.arg.cmd
    let answers (i : Instr) (code : Nat) (st : CmdStatus) (t : State) : Prop := exec i s = .next (t.complete code c.reply.toNat st 0 0)
    let policies : List Instr := [.policyModuleId, .policyPool, .policySpanDirectory, .policyCeWin, .policyTestMode, .policyClearMode, .policyBudget, .policyAlarm, .policyTimeRoot]
    (c.job ≠ 0 → let pairs := (List.range (c.a1.toNat % 257)).map (fun k => (s.devNat (c.a0.toNat + 16 * k) 8, s.devNat (c.a0.toNat + 16 * k + 8) 8))
      let n32 := s.devNat c.a1.toNat 32
      (256 < c.a1.toNat ∨ (∃ p ∈ pairs, Config.deviceBytes < p.1 + 8) → answers .map 5 .badArg s) ∧
      (c.a1.toNat ≤ 256 → (∀ p ∈ pairs, p.1 + 8 ≤ Config.deviceBytes) → ∃ t, answers .map 5 .ok t ∧
        t.ms.mem = pairs.foldl (fun m p => m.writeBytes p.1 (bytesOfNat 8 p.2)) s.ms.mem ∧
        ∀ n m x, ((t.bu n).strms[(m : Fin 16)]).trans = some x → x.job = c.job.toNat → let size := if x.big then 2 ^ 29 else 2 ^ 16
          ¬(x.vpage * size < c.a2.toNat + c.a3.toNat ∧ c.a2.toNat < (x.vpage + 1) * size)) ∧
      (c.a1.toNat ≤ 256 → (∀ p ∈ pairs, p.1 + 8 ≤ Config.deviceBytes) → ∃ t, answers .map 5 .ok t ∧
        ∀ w ∈ t.hub.walkCaches, ∀ e ∈ w.2, e.job = c.job.toNat →
          ¬(e.vpage * 2 ^ e.lo < c.a2.toNat + c.a3.toNat ∧ c.a2.toNat < (e.vpage + 1) * 2 ^ e.lo)) ∧
      (256 ≤ c.a0.toNat ∨ classBad n32 = true → answers .bindClass 6 .badArg s) ∧
      (c.a0.toNat < 256 → classBad n32 = false →
        answers .bindClass 6 .ok (s.modHub (fun h => { h with classes := mapSet c.a0.toNat (bytesOfNat 32 n32) h.classes }))) ∧
      (c.a0 = 0 ∨ Config.transforms ≤ c.a0.toNat ∨ transformBad n32 = true → answers .bindTransform 6 .badArg s) ∧
      (c.a0 ≠ 0 → c.a0.toNat < Config.transforms → transformBad n32 = false → ∃ t, answers .bindTransform 6 .ok t ∧ t.ms = s.ms ∧
        mapGet c.a0.toNat t.hub.transforms = some (bytesOfNat 32 n32) ∧ ∀ x ∈ t.hub.xforms, x.1 < 2 ^ 32 → x.1 / 2 ^ 16 = c.a0.toNat → False)) ∧
    (c.job ≠ 0 → answers .attest 8 .denied s ∧ answers .reset 9 .denied s ∧ ∀ i ∈ policies, answers i 10 .denied s) ∧
    (c.job = 0 →
      (Config.deviceBytes < c.a0.toNat + 32 → answers .attest 8 .badArg s) ∧
      (c.a0.toNat + 32 ≤ Config.deviceBytes → c.a1.toNat + (s.reportBody (lastBytes s c.a0.toNat 32)).length + 64 ≤ Config.deviceBytes → ∃ t sig,
        answers .attest 8 .ok t ∧ sig.length = 64 ∧ t.ms.mem = s.ms.mem.writeBytes c.a1.toNat (s.reportBody (lastBytes s c.a0.toNat 32) ++ sig)) ∧
      (∃ t, exec .reset s = .next t ∧ t.hub.images = [] ∧ t.hub.jobs = [] ∧ t.hub.launches = [] ∧ t.hub.regions = [] ∧ t.hub.reqs = [] ∧ t.hub.classes = [] ∧
        t.net.flits = [] ∧ t.ms.pending = [] ∧ t.ms.mem = (s.complete 9 c.reply.toNat .ok 0 0).ms.mem ∧ t.out.health = s.out.health ∧ t.out.tick = s.out.tick ∧
        t.out.ready = false ∧ t.out.synced = false ∧ t.out.moduleId = none ∧ t.out.routeTable = routesFound s.out.around ∧ t.my.issueQ = []) ∧
      answers .policyModuleId 10 .ok { s with out := { s.out with moduleId := some (c.a1.toNat % 4096) } } ∧
      (16 ≤ c.a1.toNat ∨ Config.deviceBytes < c.a2.toNat + 192 → answers .policyPool 10 .badArg s) ∧
      (c.a1.toNat < 16 → c.a2.toNat + 192 ≤ Config.deviceBytes → ∃ t, answers .policyPool 10 .ok t ∧ ∀ g, g < Config.granules →
        (bitOf (s.devNat c.a2.toNat 192) g = true → mapGet g t.hub.pools = some c.a1.toNat) ∧
        (bitOf (s.devNat c.a2.toNat 192) g = false → mapGet g s.hub.pools ≠ some c.a1.toNat → mapGet g t.hub.pools = mapGet g s.hub.pools)) ∧
      (c.a2.toNat = 0 ∨ 2 ^ 24 < c.a2.toNat → answers .policySpanDirectory 10 .badArg s) ∧
      (1 ≤ c.a2.toNat → c.a2.toNat ≤ 2 ^ 24 → answers .policySpanDirectory 10 .ok { s with hub := { s.hub with spanBase := c.a1.toNat, spanSize := c.a2.toNat } }) ∧
      (c.a1.toNat = 0 ∨ 65535 < c.a1.toNat → answers .policyCeWin 10 .badArg s) ∧
      (1 ≤ c.a1.toNat → c.a1.toNat ≤ 65535 → answers .policyCeWin 10 .ok { s with hub := { s.hub with ceWin := c.a1.toNat } }) ∧
      answers .policyTestMode 10 .ok { s with out := { s.out with testMode := decide (c.a1.toNat % 2 = 1) } } ∧
      (2 ^ 17 ≤ c.a1.toNat → answers .policyClearMode 10 .badArg s) ∧
      (c.a1.toNat < 2 ^ 17 → c.a1.toNat / 2 ^ 2 % 2 ^ 7 < Config.cols →
        let n := buNum (c.a1.toNat % 4) (c.a1.toNat / 2 ^ 2 % 2 ^ 7) (c.a1.toNat / 2 ^ 9 % 2 ^ 6)
        ∃ t, answers .policyClearMode 10 .ok t ∧ (t.bu n).rns = { (s.bu n).rns with mode := 0 } ∧ t.out.health.modes = mapDel n s.out.health.modes ∧ t.hub = s.hub) ∧
      (mapGet c.a1.toNat s.hub.jobs = none → answers .policyBudget 10 .badArg s) ∧
      (∀ j, mapGet c.a1.toNat s.hub.jobs = some j → ∃ t, answers .policyBudget 10 .ok t ∧
        mapGet c.a1.toNat t.hub.jobs = some { j with budget := j.budget + c.a2.toInt }) ∧
      (4 ≤ c.a1.toNat ∨ 2 ≤ c.a2.toNat → answers .policyAlarm 10 .badArg s) ∧
      (∀ k : Fin 4, c.a1.toNat = k.val → c.a2.toNat < 2 → ∃ t, answers .policyAlarm 10 .ok t ∧
        t.out.alarmAct[k] = (if c.a2 = 1 then .erase else .log) ∧ ∀ j : Fin 4, j ≠ k → t.out.alarmAct[j] = s.out.alarmAct[j]) ∧
      (c.a1.toNat % 2 = 1 → answers .policyTimeRoot 10 .ok { s with out := { s.out with timeRoot := true, synced := true } }) ∧
      (c.a1.toNat % 2 = 0 → answers .policyTimeRoot 10 .ok { s with out := { s.out with timeRoot := false, synced := false } }))

end
end

