-- ==== Sys2Proof/Laws/Codec.lean ====
section
/-!
SUPPORT. The laws of the encoding tables: what the decoder reads from an encoded operation, field by field and row by row.
-/
namespace Sys2Proof
set_option Elab.async false

/-! ### Operand specifiers and small fields -/

theorem Opnd.ofCode_code (x : Opnd) : Opnd.ofCode x.code = x := by
  obtain ⟨r, m⟩ := x
  cases r with
  | g i => exact (by decide +kernel : ∀ (m : Bool) (i : Fin 32), Opnd.ofCode (Opnd.code ⟨.g i, m⟩) = ⟨.g i, m⟩) m i
  | t i => exact (by decide +kernel : ∀ (m : Bool) (i : Fin 16), Opnd.ofCode (Opnd.code ⟨.t i, m⟩) = ⟨.t i, m⟩) m i
  | v i => exact (by decide +kernel : ∀ (m : Bool) (i : Fin 8), Opnd.ofCode (Opnd.code ⟨.v i, m⟩) = ⟨.v i, m⟩) m i
  | p i => exact (by decide +kernel : ∀ (m : Bool) (i : Fin 8), Opnd.ofCode (Opnd.code ⟨.p i, m⟩) = ⟨.p i, m⟩) m i
  | qi i => exact (by decide +kernel : ∀ (m : Bool) (i : Fin 16), Opnd.ofCode (Opnd.code ⟨.qi i, m⟩) = ⟨.qi i, m⟩) m i
  | qo i => exact (by decide +kernel : ∀ (m : Bool) (i : Fin 16), Opnd.ofCode (Opnd.code ⟨.qo i, m⟩) = ⟨.qo i, m⟩) m i
  | c i => exact (by decide +kernel : ∀ (m : Bool) (i : Fin 32), Opnd.ofCode (Opnd.code ⟨.c i, m⟩) = ⟨.c i, m⟩) m i

theorem Opnd.code_lt (x : Opnd) : x.code < 256 := by
  obtain ⟨r, m⟩ := x
  cases r with
  | g i | t i | v i | p i | qi i | qo i | c i => have := i.isLt; cases m <;> simp [Opnd.code] <;> omega

/-- The specifier 0xFF, the mark of an immediate, names C31 with its `mode` set. -/
theorem Opnd.code_ne_marker {x : Opnd} (h : x ≠ ⟨.c 31, true⟩) : x.code ≠ 255 := by
  intro hc
  apply h
  rw [← Opnd.ofCode_code x, hc]
  rfl

theorem Ty.ofCode_code (t : Ty) : Ty.ofCode t.code = t := by cases t <;> rfl
theorem Ty.code_lt (t : Ty) : t.code < 16 := by cases t <;> decide
theorem Rm.ofCode_code (t : Rm) : Rm.ofCode t.code = t := by cases t <;> rfl
theorem Rm.code_lt (t : Rm) : t.code < 4 := by cases t <;> decide
theorem Ovf.ofCode_code (t : Ovf) : Ovf.ofCode t.code = t := by cases t <;> rfl
theorem Ovf.code_lt (t : Ovf) : t.code < 4 := by cases t <;> decide
theorem Row.opcode_lt (r : Row) : r.spec.opcode < 256 := by cases r <;> decide

/-! ### Fields of a word -/

theorem Tail.code_lt (t : Tail) : t.code < 2 ^ 36 := by
  cases t with
  | reg b c ty rm sr ovf mod =>
    have h1 := Opnd.code_lt b
    have h2 := Opnd.code_lt c
    have h3 := Ty.code_lt ty
    have h4 := Rm.code_lt rm
    have h5 := Ovf.code_lt ovf
    have h6 := mod.isLt
    cases sr <;> simp only [Tail.code, if_true, if_false, Bool.false_eq_true] <;> omega
  | imm v =>
    have := v.isLt
    simp only [Tail.code]
    omega

/-- The parts of an encoded word above its tail. -/
theorem encodeOp_fields (r : Row) (o : Op) :
    bitsOf (encodeOp r o) 56 8 = r.spec.opcode ∧ bitsOf (encodeOp r o) 52 3 = o.pred.val ∧ bitOf (encodeOp r o) 55 = o.psense ∧
      bitsOf (encodeOp r o) 44 8 = o.dst.code ∧ bitsOf (encodeOp r o) 36 8 = o.a.code ∧
      (encodeOp r o) % 2 ^ 36 = o.tail.code ∧ encodeOp r o < 2 ^ 64 := by
  have h1 := Row.opcode_lt r
  have h2 := Opnd.code_lt o.dst
  have h3 := Opnd.code_lt o.a
  have h4 := Tail.code_lt o.tail
  have h5 := o.pred.isLt
  unfold encodeOp bitsOf bitOf
  generalize o.tail.code = t at *
  generalize o.dst.code = d at *
  generalize o.a.code = a at *
  generalize o.pred.val = p at *
  generalize r.spec.opcode = c at *
  generalize o.psense = q at *
  cases q <;> simp only [if_true, if_false, Bool.false_eq_true, beq_eq_false_iff_ne, beq_iff_eq] <;>
    refine ⟨?_, ?_, ?_, ?_, ?_, ?_, ?_⟩ <;> omega

theorem bitsOf_tail (n lo len : Nat) (h : lo + len ≤ 36) : bitsOf n lo len = bitsOf (n % 2 ^ 36) lo len := by
  unfold bitsOf
  rw [show 36 = lo + (36 - lo) by omega, Nat.pow_add, Nat.mod_mul_right_div_self, Nat.mod_mod_of_dvd]
  exact Nat.pow_dvd_pow 2 (by omega)

theorem bitOf_tail (n k : Nat) (h : k + 1 ≤ 36) : bitOf n k = bitOf (n % 2 ^ 36) k := by
  have := bitsOf_tail n k 1 h
  unfold bitOf
  simp only [bitsOf, pow_one] at this
  rw [this]

theorem decodeTail (t : Tail) (h : ∀ b c ty rm sr ovf m, t = .reg b c ty rm sr ovf m → b.code ≠ 255) :
    (if bitsOf t.code 28 8 = 255 then Tail.imm (BitVec.ofNat 28 (bitsOf t.code 0 28)) else decodeRegTail t.code) = t := by
  cases t with
  | reg b c ty rm sr ovf mod =>
    have hb := h _ _ _ _ _ _ _ rfl
    have h1 := Opnd.code_lt b
    have h2 := Opnd.code_lt c
    have h3 := Ty.code_lt ty
    have h4 := Rm.code_lt rm
    have h5 := Ovf.code_lt ovf
    have h6 := mod.isLt
    have e : bitsOf (Tail.code (.reg b c ty rm sr ovf mod)) 28 8 = b.code ∧
        bitsOf (Tail.code (.reg b c ty rm sr ovf mod)) 20 8 = c.code ∧
        bitsOf (Tail.code (.reg b c ty rm sr ovf mod)) 16 4 = ty.code ∧
        bitsOf (Tail.code (.reg b c ty rm sr ovf mod)) 14 2 = rm.code ∧
        bitOf (Tail.code (.reg b c ty rm sr ovf mod)) 13 = sr ∧
        bitsOf (Tail.code (.reg b c ty rm sr ovf mod)) 11 2 = ovf.code ∧
        bitsOf (Tail.code (.reg b c ty rm sr ovf mod)) 0 11 = mod.toNat := by
      unfold bitsOf bitOf
      simp only [Tail.code]
      generalize b.code = b at *
      generalize c.code = c at *
      generalize ty.code = ty at *
      generalize rm.code = rm at *
      generalize ovf.code = ovf at *
      generalize mod.toNat = mod at *
      cases sr <;> simp only [if_true, if_false, Bool.false_eq_true, beq_eq_false_iff_ne, beq_iff_eq] <;>
        refine ⟨?_, ?_, ?_, ?_, ?_, ?_, ?_⟩ <;> omega
    obtain ⟨e1, e2, e3, e4, e5, e6, e7⟩ := e
    rw [if_neg (by rw [e1]; exact hb)]
    unfold decodeRegTail
    rw [e1, e2, e3, e4, e5, e6, e7, Opnd.ofCode_code, Opnd.ofCode_code, Ty.ofCode_code, Rm.ofCode_code, Ovf.ofCode_code,
      BitVec.ofNat_toNat, BitVec.setWidth_eq]
  | imm v =>
    have hv := v.isLt
    have e1 : bitsOf (Tail.code (.imm v)) 28 8 = 255 := by unfold bitsOf; simp only [Tail.code]; omega
    have e2 : bitsOf (Tail.code (.imm v)) 0 28 = v.toNat := by unfold bitsOf; simp only [Tail.code]; omega
    rw [if_pos e1, e2, BitVec.ofNat_toNat, BitVec.setWidth_eq]

/-- The fields of an encoded operation whose `srcb` is not the mark of an immediate. -/
theorem decodeFields_encodeOp (r : Row) (o : Op) (h : ∀ b c ty rm sr ovf m, o.tail = .reg b c ty rm sr ovf m → b.code ≠ 255) :
    decodeFields (encodeOp r o) = o := by
  obtain ⟨-, e2, e3, e4, e5, e6, -⟩ := encodeOp_fields r o
  have ht := decodeTail o.tail h
  have hr : decodeRegTail (encodeOp r o) = decodeRegTail o.tail.code := by
    unfold decodeRegTail
    rw [bitsOf_tail _ 28 8 (by omega), bitsOf_tail _ 20 8 (by omega), bitsOf_tail _ 16 4 (by omega), bitsOf_tail _ 14 2 (by omega),
      bitOf_tail _ 13 (by omega), bitsOf_tail _ 11 2 (by omega), bitsOf_tail _ 0 11 (by omega), e6]
  unfold decodeFields
  rw [e2, e3, e4, e5, hr, bitsOf_tail _ 28 8 (by omega), bitsOf_tail _ 0 28 (by omega), e6, ht, Opnd.ofCode_code, Opnd.ofCode_code]
  have : Fin.ofNat 8 o.pred.val = o.pred := by ext; simp [Fin.ofNat]
  rw [this]

/-! ### What the checks rule out -/

theorem lowestSome_some (x : ArmOp) (l : List (Option ArmOp)) :
    l.foldl (fun b e => match b, e with
      | some x, some y => some (if y.code < x.code then y else x)
      | none, y => y
      | x, none => x) (some x) ≠ none := by
  induction l generalizing x with
  | nil => simp
  | cons e rest ih =>
    cases e with
    | none => exact ih x
    | some y => exact ih _

/-- The lowest of several breaches is none only when each is. -/
theorem lowestSome_none {l : List (Option ArmOp)} (h : lowestSome l = none) : ∀ e ∈ l, e = none := by
  induction l with
  | nil => simp
  | cons e rest ih =>
    cases e with
    | none => simpa using ih h
    | some y => exact absurd h (lowestSome_some y rest)

/-- No source that an arm accepts is the mark of an immediate. -/
theorem checkSrc_ne_marker {k : SrcKind} {o : Op} {x : Opnd} (h : checkSrc k o x = none) : x ≠ ⟨.c 31, true⟩ := by
  rintro rfl
  revert h
  unfold checkSrc
  have hz : (⟨.c 31, true⟩ : Opnd) ≠ Opnd.zero := by decide
  have ha : Opnd.checkAbsent ⟨.c 31, true⟩ = some .field := by decide
  have hc : ∀ k, Opnd.check k ⟨.c 31, true⟩ = some .operand := by
    intro k; unfold Opnd.check; simp [Opnd.sourceOk, need]
  have hcond : ∀ n, Opnd.checkCond ⟨.c 31, true⟩ n ≠ none := by
    intro n; unfold Opnd.checkCond; split
    · simp
    · split
      · rw [ha]; simp
      · rw [hc]; simp
  split
  · exact fun h => absurd h (hcond _)
  · exact fun h => absurd h (hcond _)
  · split
    · rw [ha]; simp
    · rw [hc]; simp

/-- An operation that passes the checks of one word has a `srcb` other than the mark of an immediate. -/
theorem checkOp_srcb {r : Row} {o : Op} (hc : checkOp r o = none) :
    ∀ b c ty rm sr ovf m, o.tail = .reg b c ty rm sr ovf m → b.code ≠ 255 := by
  intro b c ty rm sr ovf m ht
  have hb : o.b = b := by unfold Op.b; rw [ht]
  apply Opnd.code_ne_marker
  rw [← hb]
  unfold checkOp at hc
  simp only [ht] at hc
  exact checkSrc_ne_marker (lowestSome_none hc (checkSrc r.spec.b o o.b) (by simp))

/-! ### Rows of one opcode exclude each other -/

/-- Two rows are the same, have different opcodes, or select no word together. -/
def Row.apart (q r : Row) : Bool :=
  q.spec.opcode != r.spec.opcode || q == r ||
    [false, true].all (fun i => (List.range 2048).all (fun m => !(q.selects i m && r.selects i m)))

theorem Row.all_apart0 : Row.part0.all (fun q => Row.all.all (Row.apart q)) = true := by decide +kernel
theorem Row.all_apart1 : Row.part1.all (fun q => Row.all.all (Row.apart q)) = true := by decide +kernel
theorem Row.all_apart2 : Row.part2.all (fun q => Row.all.all (Row.apart q)) = true := by decide +kernel
theorem Row.all_apart3 : Row.part3.all (fun q => Row.all.all (Row.apart q)) = true := by decide +kernel
theorem Row.all_apart4 : Row.part4.all (fun q => Row.all.all (Row.apart q)) = true := by decide +kernel
theorem Row.all_apart5 : Row.part5.all (fun q => Row.all.all (Row.apart q)) = true := by decide +kernel
theorem Row.all_apart6 : Row.part6.all (fun q => Row.all.all (Row.apart q)) = true := by decide +kernel

theorem Row.mem_all (r : Row) : r ∈ Row.all := by
  have h : ∀ q, Row.all.contains q = true → q ∈ Row.all := fun q h => by simpa using h
  cases r <;> exact h _ (by decide +kernel)

/-- Two rows of the table are apart. -/
theorem Row.apart_all (q r : Row) : Row.apart q r = true := by
  have hr := Row.mem_all r
  have hq := Row.mem_all q
  have key : ∀ l : List Row, l.all (fun q => Row.all.all (Row.apart q)) = true → q ∈ l → Row.apart q r = true := by
    intro l hl hm
    exact List.all_eq_true.1 (List.all_eq_true.1 hl q hm) r hr
  unfold Row.all at hq
  simp only [List.mem_append] at hq
  rcases hq with hq | hq
  all_goals first
    | exact key _ Row.all_apart6 hq
    | (rcases hq with ((((hq | hq) | hq) | hq) | hq) | hq
       · exact key _ Row.all_apart0 hq
       · exact key _ Row.all_apart1 hq
       · exact key _ Row.all_apart2 hq
       · exact key _ Row.all_apart3 hq
       · exact key _ Row.all_apart4 hq
       · exact key _ Row.all_apart5 hq)

theorem find?_unique {α : Type} {p : α → Bool} {x : α} {l : List α} (hx : x ∈ l) (hp : p x = true)
    (hu : ∀ a, p a = true → a = x) : l.find? p = some x := by
  cases h : l.find? p with
  | none => exact absurd hp (List.find?_eq_none.1 h x hx)
  | some y => rw [hu y (List.find?_some h)]

/-- The decoder finds the row of an opcode that selects a word. -/
theorem decodeRow_of_selects {r : Row} {immForm : Bool} {mod : Nat} (hs : r.selects immForm mod = true) (hm : mod < 2048) :
    decodeRow r.spec.opcode immForm mod = .ok r := by
  unfold decodeRow
  rw [find?_unique (x := r) (Row.mem_all r) (by simp [hs])]
  intro a ha
  simp only [Bool.and_eq_true, beq_iff_eq] at ha
  have h := Row.apart_all a r
  unfold Row.apart at h
  simp only [Bool.or_eq_true, bne_iff_ne, ne_eq, beq_iff_eq, List.all_eq_true, List.mem_range] at h
  rcases h with (h | h) | h
  · exact absurd ha.1 h
  · exact h
  · have := h immForm (by cases immForm <;> simp) mod hm
    simp [ha.2, hs] at this

/-! ### The round trip of a row -/

/-- The decoder hands a word to the row it finds. -/
theorem decodeWord_of_row {w : Word} {r : Row} {n : Nat} {o : Op} (hn : w.toNat = n) (ho : decodeFields n = o)
    (h : decodeRow (bitsOf n 56 8) o.imm28.isSome o.mod.toNat = .ok r) : decodeWord w = decodeAs r n o := by
  subst hn ho
  unfold decodeWord
  dsimp only
  rw [h]

theorem decodeAs_of_wf {r : Row} {n : Nat} {o : Op} {i : Instr} (h : checkOp r o = none) (hi : r.mk o = some i) (h1 : r ≠ .imm) (h2 : r ≠ .nop) :
    decodeAs r n o = .ok i := by
  unfold decodeAs
  rw [if_neg h1, if_neg h2, h, hi]

/-- An operation that is well formed for its row decodes from its own word, for every row other than the primitives of R33. -/
theorem decodeWord_encodeOp {r : Row} {o : Op} {i : Instr} (h : r.wfOp o = true) (hi : r.mk o = some i) (h1 : r ≠ .imm) (h2 : r ≠ .nop) :
    decodeWord (BitVec.ofNat 64 (encodeOp r o)) = .ok i := by
  unfold Row.wfOp at h
  rw [Bool.and_eq_true, beq_iff_eq] at h
  obtain ⟨e1, -, -, -, -, -, e7⟩ := encodeOp_fields r o
  have hn : (BitVec.ofNat 64 (encodeOp r o)).toNat = encodeOp r o := by
    rw [BitVec.toNat_ofNat, Nat.mod_eq_of_lt e7]
  rw [decodeWord_of_row hn (decodeFields_encodeOp r o (checkOp_srcb h.1)) (by rw [e1]; exact decodeRow_of_selects h.2 o.mod.isLt)]
  exact decodeAs_of_wf h.1 hi h1 h2

/-- The word of an `imm` decodes to it (R33). -/
theorem decodeWord_imm (v : BitVec 32) : decodeWord (BitVec.ofNat 64 (0x36 * 2 ^ 56 + v.toNat)) = .ok (.imm v) := by
  have hv := v.isLt
  have hn : (BitVec.ofNat 64 (0x36 * 2 ^ 56 + v.toNat)).toNat = 0x36 * 2 ^ 56 + v.toNat := by
    rw [BitVec.toNat_ofNat, Nat.mod_eq_of_lt (by omega)]
  have e1 : bitsOf (0x36 * 2 ^ 56 + v.toNat) 56 8 = Row.imm.spec.opcode := by
    rw [show Row.imm.spec.opcode = 0x36 from rfl]; unfold bitsOf; omega
  have e2 : bitsOf (0x36 * 2 ^ 56 + v.toNat) 32 24 = 0 := by unfold bitsOf; omega
  have e3 : bitsOf (0x36 * 2 ^ 56 + v.toNat) 0 32 = v.toNat := by unfold bitsOf; omega
  rw [decodeWord_of_row hn rfl (by rw [e1]; exact decodeRow_of_selects (r := .imm) rfl (BitVec.isLt _))]
  unfold decodeAs
  rw [if_pos rfl, if_pos e2, e3, BitVec.ofNat_toNat, BitVec.setWidth_eq]

end Sys2Proof
end

