-- ==== Sys2Proof/Laws/Memory.lean ====
section
/-!
SUPPORT. The laws of memories: every operation keeps the canonical form, and a read after a write gives what was written.
-/
namespace Sys2Proof.Machine

theorem Memory.wfFrom_mono {lo lo' : Nat} {m : Memory} (h : Memory.wfFrom lo m = true) (hl : lo' ≤ lo) :
    Memory.wfFrom lo' m = true := by
  cases m with
  | nil => rfl
  | cons c rest =>
    simp only [Memory.wfFrom, Bool.and_eq_true, decide_eq_true_eq] at h ⊢
    exact ⟨⟨le_trans hl h.1.1, h.1.2⟩, h.2⟩

theorem Memory.wf_nil : Memory.wf [] = true := rfl

theorem Memory.wfFrom_write {m : Memory} : ∀ {lo a : Nat} (b : Byte), Memory.wfFrom lo m = true → lo ≤ a →
    Memory.wfFrom lo (Memory.write a b m) = true := by
  induction m with
  | nil =>
    intro lo a b _ hl
    unfold Memory.write
    split <;> simp_all [Memory.wfFrom]
  | cons c rest ih =>
    intro lo a b h hl
    obtain ⟨j, c⟩ := c
    simp only [Memory.wfFrom, Bool.and_eq_true, decide_eq_true_eq] at h
    obtain ⟨⟨h1, h2⟩, h3⟩ := h
    unfold Memory.write
    split
    · split
      · simp [Memory.wfFrom, h1, h2, h3]
      · rename_i hlt hb
        simp only [Memory.wfFrom, Bool.and_eq_true, decide_eq_true_eq]
        exact ⟨⟨hl, by simpa using hb⟩, ⟨hlt, h2⟩, h3⟩
    · split
      · split
        · exact Memory.wfFrom_mono h3 (by omega)
        · rename_i hlt heq hb
          simp only [Memory.wfFrom, Bool.and_eq_true, decide_eq_true_eq]
          exact ⟨⟨hl, by simpa using hb⟩, by rw [heq]; exact h3⟩
      · simp only [Memory.wfFrom, Bool.and_eq_true, decide_eq_true_eq]
        exact ⟨⟨h1, h2⟩, ih b h3 (by omega)⟩

/-- A write keeps the canonical form. -/
theorem Memory.wf_write {m : Memory} (a : Nat) (b : Byte) (h : Memory.wf m = true) : Memory.wf (Memory.write a b m) = true :=
  Memory.wfFrom_write b h (Nat.zero_le _)

/-- A write of several bytes keeps it. -/
theorem Memory.wf_writeBytes (bs : List Byte) : ∀ {m : Memory} (a : Nat), Memory.wf m = true →
    Memory.wf (Memory.writeBytes a bs m) = true := by
  induction bs with
  | nil => intro m a h; exact h
  | cons b rest ih => intro m a h; exact ih (a + 1) (Memory.wf_write a b h)

theorem Memory.wfFrom_filter {p : Host.Cell → Bool} {m : Memory} : ∀ {lo : Nat}, Memory.wfFrom lo m = true →
    Memory.wfFrom lo (m.filter p) = true := by
  induction m with
  | nil => intro lo h; exact h
  | cons c rest ih =>
    intro lo h
    simp only [Memory.wfFrom, Bool.and_eq_true, decide_eq_true_eq] at h
    obtain ⟨⟨h1, h2⟩, h3⟩ := h
    rw [List.filter_cons]
    split
    · simp only [Memory.wfFrom, Bool.and_eq_true, decide_eq_true_eq]
      exact ⟨⟨h1, h2⟩, ih h3⟩
    · exact Memory.wfFrom_mono (ih h3) (by omega)

/-- Clearing a range keeps it. -/
theorem Memory.wf_clear {m : Memory} (lo n : Nat) (h : Memory.wf m = true) : Memory.wf (Memory.clear lo n m) = true :=
  Memory.wfFrom_filter h

theorem Memory.read_of_lt {m : Memory} : ∀ {lo a : Nat}, Memory.wfFrom lo m = true → a < lo → Memory.read a m = Memory.unlisted := by
  cases m with
  | nil => intro lo a _ _; rfl
  | cons c rest =>
    intro lo a h hl
    obtain ⟨j, c⟩ := c
    simp only [Memory.wfFrom, Bool.and_eq_true, decide_eq_true_eq] at h
    unfold Memory.read
    rw [if_neg (by omega), if_pos (by omega)]

/-- A read after a write: the byte written at its address, and what stood there elsewhere. -/
theorem Memory.read_write {m : Memory} : ∀ {lo : Nat} (a x : Nat) (b : Byte), Memory.wfFrom lo m = true →
    Memory.read x (Memory.write a b m) = if x = a then b else Memory.read x m := by
  induction m with
  | nil =>
    intro lo a x b _
    unfold Memory.write
    split
    · rename_i h; subst h; simp [Memory.read]
    · simp only [Memory.read]
      split <;> simp
  | cons c rest ih =>
    intro lo a x b h
    obtain ⟨j, c⟩ := c
    simp only [Memory.wfFrom, Bool.and_eq_true, decide_eq_true_eq] at h
    obtain ⟨⟨h1, h2⟩, h3⟩ := h
    unfold Memory.write
    split
    · rename_i hlt
      split
      · rename_i hb
        by_cases hx : x = a
        · subst hx hb
          rw [if_pos rfl]; unfold Memory.read; rw [if_neg (by omega), if_pos hlt]
        · rw [if_neg hx]
      · rw [Memory.read]
        split
        · rfl
        · split
          · rw [Memory.read, if_neg (by omega), if_pos (by omega)]
          · rfl
    · split
      · rename_i hlt heq
        subst heq
        split
        · rename_i hb
          subst hb
          by_cases hx : x = a
          · subst hx; rw [if_pos rfl]; exact Memory.read_of_lt h3 (by omega)
          · rw [if_neg hx, Memory.read, if_neg hx]
            split
            · exact Memory.read_of_lt h3 (by omega)
            · rfl
        · rw [Memory.read, Memory.read]
          split <;> rfl
      · rename_i hlt hne
        rw [Memory.read, Memory.read]
        split
        · rename_i hx
          rw [if_neg (by omega)]
        · split
          · rw [if_neg (by omega)]
          · exact ih a x b h3

/-- A byte outside the bytes written reads as before; one of them reads as the byte written last at it. -/
theorem Memory.read_writeBytes (bs : List Byte) : ∀ {m : Memory} (a x : Nat), Memory.wf m = true →
    Memory.read x (Memory.writeBytes a bs m) = if a ≤ x ∧ x < a + bs.length then bs.getD (x - a) 0 else Memory.read x m := by
  induction bs with
  | nil => intro m a x _; rw [if_neg (by simp)]; rfl
  | cons b rest ih =>
    intro m a x h
    rw [Memory.writeBytes, ih (a + 1) x (Memory.wf_write a b h), Memory.read_write a x b h]
    simp only [List.length_cons]
    by_cases h1 : a + 1 ≤ x ∧ x < a + 1 + rest.length
    · rw [if_pos h1, if_pos (by omega), show x - a = (x - (a + 1)) + 1 by omega, List.getD_cons_succ]
    · rw [if_neg h1]
      by_cases hx : x = a
      · subst hx; rw [if_pos rfl, if_pos (by omega)]; simp
      · rw [if_neg hx, if_neg (by omega)]

/-- Bytes read are the bytes of their addresses. -/
theorem Memory.readBytes_length (m : Memory) : ∀ (n a : Nat), (m.readBytes a n).length = n
  | 0, _ => rfl
  | n + 1, a => by rw [Memory.readBytes, List.length_cons, Memory.readBytes_length m n (a + 1)]

/-! ### Data by number -/

theorem mapGet_mapSet {α : Type} (k : Nat) (v : α) (m : NMap α) : mapGet k (mapSet k v m) = some v := by
  induction m with
  | nil => simp [mapSet, mapGet]
  | cons c rest ih =>
    obtain ⟨j, w⟩ := c
    unfold mapSet
    split
    · simp [mapGet]
    · split
      · simp [mapGet]
      · rename_i h1 h2; rw [mapGet, if_neg h2]; exact ih

theorem mapGet_mapSet_ne {α : Type} {j k : Nat} (v : α) (m : NMap α) (h : j ≠ k) : mapGet j (mapSet k v m) = mapGet j m := by
  induction m with
  | nil => simp [mapSet, mapGet, h]
  | cons c rest ih =>
    obtain ⟨i, w⟩ := c
    unfold mapSet
    split
    · rw [mapGet, if_neg h]
    · split
      · rename_i h1 h2; subst h2; rw [mapGet, mapGet, if_neg h, if_neg h]
      · rw [mapGet, mapGet, ih]

/-- An entry of a map with an entry set is that entry or one that stood there. -/
theorem mem_mapSet {α : Type} {k : Nat} {v : α} {m : NMap α} {x : Nat × α} (h : x ∈ mapSet k v m) : x = (k, v) ∨ x ∈ m := by
  induction m with
  | nil => simpa [mapSet] using h
  | cons c rest ih =>
    obtain ⟨i, w⟩ := c
    unfold mapSet at h
    split at h
    · simpa using h
    · split at h
      · rename_i h1 h2
        rcases List.mem_cons.1 h with h | h
        · exact .inl h
        · exact .inr (List.mem_cons_of_mem _ h)
      · rcases List.mem_cons.1 h with h | h
        · exact .inr (h ▸ List.mem_cons_self)
        · rcases ih h with h | h
          · exact .inl h
          · exact .inr (List.mem_cons_of_mem _ h)

theorem mapGet_mem {α : Type} {k : Nat} {v : α} {m : NMap α} (h : mapGet k m = some v) : (k, v) ∈ m := by
  induction m with
  | nil => simp [mapGet] at h
  | cons c rest ih =>
    obtain ⟨i, w⟩ := c
    unfold mapGet at h
    split at h
    · rename_i h1; subst h1; simp_all
    · exact List.mem_cons_of_mem _ (ih h)

end Sys2Proof.Machine
end

