-- ==== Sys2Proof/Laws/Keeps.lean ====
section
/-!
SUPPORT. What the steps of the part keep: the host side as it was, and the memories in canonical form. One lemma for each way a
state is changed; the files beside this one have a lemma for each operation.
-/
namespace Sys2Proof.Machine
open Sys2Proof.Safety

/-- Every window to a peer is at most 32 flits (assumption 7, DESIGN CHOICE, unsafe). -/
def Outside.WindowsLegal (o : Outside) : Prop := ∀ e ∈ o.peerWindows, e.2 ≤ 32

/-- A state reached from `s0` with the same host side, but for what firmware has put into the health record, the command at the head
of the queue, the bells rung and the windows to the peers, and canonical memories. -/
structure Keeps (s0 s : State) : Prop where
  out : { s.out with health := s0.out.health, cmdBegun := s0.out.cmdBegun, cmdMute := s0.out.cmdMute, bells := s0.out.bells,
                     peerWindows := s0.out.peerWindows } = s0.out
  windows : s0.out.WindowsLegal → s.out.WindowsLegal
  wf : MemoriesCanonical s

/-- A region's saved image has canonical banks. -/
def Region.SavedOk (r : Region) : Prop := ∀ v, r.saved = some v → ∀ b ∈ v.bus, Memory.wf b.bank = true

/-- The regions of a hub have canonical saved images. -/
def Hub.SavedOk (h : Hub) : Prop := ∀ e ∈ h.regions, e.2.SavedOk

theorem Keeps.refl {s : State} (h : MemoriesCanonical s) : Keeps s s := ⟨rfl, id, h⟩

theorem Keeps.savedOk {s0 s : State} (h : Keeps s0 s) : s.hub.SavedOk := h.wf.saved

theorem Bu.reset_bank : Bu.reset.bank = [] := rfl

theorem wf_bu {s : State} (h : MemoriesCanonical s) (n : Nat) : Memory.wf (s.bu n).bank = true := by
  unfold State.bu mapGetD
  cases hg : mapGet n s.bus with
  | none => rfl
  | some b => exact h.banks _ (mapGet_mem hg)

theorem keeps_my {s0 s : State} {m : Model} (h : Keeps s0 s) : Keeps s0 { s with my := m } :=
  ⟨h.out, h.windows, h.wf.mem, h.wf.base, h.wf.banks, h.wf.saved⟩

theorem keeps_net {s0 s : State} {m : Net} (h : Keeps s0 s) : Keeps s0 { s with net := m } :=
  ⟨h.out, h.windows, h.wf.mem, h.wf.base, h.wf.banks, h.wf.saved⟩

theorem keeps_health {s0 s : State} {x : Health} (h : Keeps s0 s) : Keeps s0 { s with out := { s.out with health := x } } :=
  ⟨h.out, h.windows, h.wf.mem, h.wf.base, h.wf.banks, h.wf.saved⟩

theorem keeps_cmd {s0 s : State} {a b : Bool} {c : List (Nat × Nat × List Nat)} (h : Keeps s0 s) :
    Keeps s0 { s with out := { s.out with cmdBegun := a, cmdMute := b, bells := c } } :=
  ⟨h.out, h.windows, h.wf.mem, h.wf.base, h.wf.banks, h.wf.saved⟩

theorem keeps_ms {s0 s : State} {m : MemSys} (h : Keeps s0 s) (h1 : m.mem = s.ms.mem) (h2 : m.base = s.ms.base) : Keeps s0 { s with ms := m } :=
  ⟨h.out, h.windows, h1 ▸ h.wf.mem, h2 ▸ h.wf.base, h.wf.banks, h.wf.saved⟩

theorem keeps_hub {s0 s : State} {m : Hub} (h : Keeps s0 s) (h1 : m.SavedOk) : Keeps s0 { s with hub := m } :=
  ⟨h.out, h.windows, h.wf.mem, h.wf.base, h.wf.banks, h1⟩

theorem keeps_modHub {s0 s : State} {f : Hub → Hub} (h : Keeps s0 s) (h1 : (f s.hub).SavedOk) : Keeps s0 (s.modHub f) :=
  keeps_hub h h1

theorem keeps_setBu {s0 s : State} {n : Nat} {b : Bu} (h : Keeps s0 s) (h1 : Memory.wf b.bank = true) : Keeps s0 (s.setBu n b) := by
  refine ⟨h.out, h.windows, h.wf.mem, h.wf.base, ?_, h.wf.saved⟩
  intro e he
  rcases mem_mapSet he with he | he
  · subst he; exact h1
  · exact h.wf.banks e he

theorem keeps_modBu {s0 s : State} {n : Nat} {f : Bu → Bu} (h : Keeps s0 s) (h1 : ∀ b, Memory.wf b.bank = true → Memory.wf (f b).bank = true) :
    Keeps s0 (s.modBu n f) :=
  keeps_setBu h (h1 _ (wf_bu h.wf n))

theorem keeps_modCtx {s0 s : State} {n k : Nat} {f : Ctx → Ctx} (h : Keeps s0 s) : Keeps s0 (s.modCtx n k f) :=
  keeps_modBu h (fun _ hb => hb)

theorem keeps_modBlk {s0 s : State} {n k : Nat} {f : Blk → Blk} (h : Keeps s0 s) : Keeps s0 (s.modBlk n k f) :=
  keeps_modCtx h

theorem keeps_modHub_same {s0 s : State} {f : Hub → Hub} (h : Keeps s0 s) (h1 : (f s.hub).regions = s.hub.regions) :
    Keeps s0 (s.modHub f) :=
  keeps_modHub h (fun e he => h.wf.saved e (h1 ▸ he))

theorem keeps_hub_same {s0 s : State} {m : Hub} (h : Keeps s0 s) (h1 : m.regions = s.hub.regions) : Keeps s0 { s with hub := m } :=
  keeps_hub h (fun e he => h.wf.saved e (h1 ▸ he))

theorem keeps_fresh {s0 s : State} (h : Keeps s0 s) : Keeps s0 s.fresh.2 :=
  keeps_modHub_same (f := fun h => { h with nextId := h.nextId + 1 }) h rfl

theorem keeps_hubMy {s0 s : State} {m : Hub} {x : Model} (h : Keeps s0 s) (h1 : m.regions = s.hub.regions) :
    Keeps s0 { s with hub := m, my := x } :=
  keeps_my (keeps_hub_same h h1)

theorem keeps_freshFor {s0 s : State} {k : Nat} (h : Keeps s0 s) : Keeps s0 (s.freshFor k).2 :=
  keeps_modHub_same (f := fun x => { x with nextId := x.nextId + k }) h rfl

theorem keeps_ite {s0 a b : State} {c : Prop} [Decidable c] (ha : Keeps s0 a) (hb : Keeps s0 b) : Keeps s0 (if c then a else b) := by
  split <;> assumption

theorem keeps_foldl {α : Type} {s0 s : State} {f : State → α → State} {l : List α} (h : Keeps s0 s)
    (hf : ∀ t x, Keeps s0 t → Keeps s0 (f t x)) : Keeps s0 (l.foldl f s) := by
  induction l generalizing s with
  | nil => exact h
  | cons a rest ih => exact ih (hf s a h)

theorem keeps_foldl_mem {α : Type} {s0 s : State} {f : State → α → State} {l : List α} (h : Keeps s0 s)
    (hf : ∀ t x, x ∈ l → Keeps s0 t → Keeps s0 (f t x)) : Keeps s0 (l.foldl f s) := by
  induction l generalizing s with
  | nil => exact h
  | cons a rest ih => exact ih (hf s a List.mem_cons_self h) (fun t x hx => hf t x (List.mem_cons_of_mem _ hx))

theorem withIndex_mem {α : Type} {l : List α} {k : Nat} {x : Nat × α} (h : x ∈ withIndex k l) : x.2 ∈ l := by
  induction l generalizing k with
  | nil => cases h
  | cons a rest ih =>
    rcases List.mem_cons.1 h with h | h
    · subst h; exact List.mem_cons_self
    · exact List.mem_cons_of_mem _ (ih h)

theorem keeps_foldl_fst {α β : Type} {s0 : State} {f : State × β → α → State × β} {l : List α} {a : State × β} (h : Keeps s0 a.1)
    (hf : ∀ t x, Keeps s0 t.1 → Keeps s0 (f t x).1) : Keeps s0 (l.foldl f a).1 := by
  induction l generalizing a with
  | nil => exact h
  | cons x rest ih => exact ih (hf a x h)

theorem keeps_foldl_snd {α β : Type} {s0 : State} {f : β × State → α → β × State} {l : List α} {a : β × State} (h : Keeps s0 a.2)
    (hf : ∀ t x, Keeps s0 t.2 → Keeps s0 (f t x).2) : Keeps s0 (l.foldl f a).2 := by
  induction l generalizing a with
  | nil => exact h
  | cons x rest ih => exact ih (hf a x h)

/-- A map over the regions that keeps saved images. -/
theorem savedOk_mapMod {h : NMap Region} {k : Nat} {f : Region → Region} (hh : ∀ e ∈ h, e.2.SavedOk)
    (hf : ∀ r, r.SavedOk → (f r).SavedOk) : ∀ e ∈ mapMod k f h, e.2.SavedOk := by
  induction h with
  | nil => intro e he; simp [mapMod] at he
  | cons c rest ih =>
    obtain ⟨j, w⟩ := c
    intro e he
    unfold mapMod at he
    split at he
    · rcases List.mem_cons.1 he with he | he
      · subst he; exact hf w (hh _ List.mem_cons_self)
      · exact hh e (List.mem_cons_of_mem _ he)
    · rcases List.mem_cons.1 he with he | he
      · subst he; exact hh _ List.mem_cons_self
      · exact ih (fun e he => hh e (List.mem_cons_of_mem _ he)) e he

theorem savedOk_mapDel {h : NMap Region} {k : Nat} (hh : ∀ e ∈ h, e.2.SavedOk) : ∀ e ∈ mapDel k h, e.2.SavedOk := by
  induction h with
  | nil => intro e he; simp [mapDel] at he
  | cons c rest ih =>
    obtain ⟨j, w⟩ := c
    intro e he
    unfold mapDel at he
    split at he
    · exact hh e (List.mem_cons_of_mem _ he)
    · rcases List.mem_cons.1 he with he | he
      · subst he; exact hh _ List.mem_cons_self
      · exact ih (fun e he => hh e (List.mem_cons_of_mem _ he)) e he

theorem keeps_modRegion {s0 s : State} {id : Nat} {f : Region → Region} (h : Keeps s0 s) (hf : ∀ r, r.SavedOk → (f r).SavedOk) :
    Keeps s0 (s.modRegion id f) :=
  keeps_modHub h (savedOk_mapMod h.savedOk hf)

theorem Region.savedOk_same {r r' : Region} (h : r.SavedOk) (e : r'.saved = r.saved) : r'.SavedOk :=
  fun v hv => h v (e ▸ hv)
theorem Region.savedOk_none {r : Region} (e : r.saved = none) : r.SavedOk := fun v hv => by rw [e] at hv; cases hv
theorem Region.savedOk_ite {c : Prop} [Decidable c] {a b : Region} (ha : a.SavedOk) (hb : b.SavedOk) : (if c then a else b).SavedOk := by
  split <;> assumption
theorem Region.savedOk_bus {s0 t : State} {ns : List Nat} {r : Region} (h : Keeps s0 t) (e : r.saved = some ⟨ns.map t.bu⟩) : r.SavedOk := by
  intro v hv b hb
  rw [e] at hv
  cases hv
  obtain ⟨n, _, rfl⟩ := List.mem_map.1 hb
  exact wf_bu h.wf n
theorem savedOk_region {s0 s : State} {id : Nat} {r : Region} (h : Keeps s0 s) (e : mapGet id s.hub.regions = some r) : r.SavedOk :=
  h.savedOk _ (mapGet_mem e)

/-- What keeps the outside keeps a sound state sound: the health record is not part of what must be legal. -/
theorem sound_of_keeps {s t : State} (h : Sound s) (hk : Keeps s t) : Sound t := by
  refine ⟨hk.wf, ?_⟩
  have e := hk.out
  have h' := h.outside
  rw [← e] at h'
  exact ⟨h'.lanes, h'.qbase, h'.moduleId, h'.tick, h'.clockLow, h'.clockHigh, hk.windows h.outside.windows⟩

/-- Every state that an outcome holds is sound. -/
structure SoundOut (o : Host.Outcome State Fault Refusal) : Prop where
  sound : ∀ t, o = .next t → Sound t

theorem soundOut_next {t : State} (h : Sound t) : SoundOut (nextState t) := ⟨by intro u e; cases e; exact h⟩
theorem sound_ite {c : Prop} [Decidable c] {a b : State} (ha : Sound a) (hb : Sound b) : Sound (if c then a else b) := by
  split <;> assumption

/-! ### Results that hold a state -/

/-- Every state that an optional result holds. -/
structure KeepsOpt (s0 : State) (o : Option State) : Prop where
  keeps : ∀ t, o = some t → Keeps s0 t
/-- Every state that a result with failures holds. -/
structure KeepsExc {ε : Type} (s0 : State) (o : Except ε State) : Prop where
  keeps : ∀ t, o = .ok t → Keeps s0 t
/-- Every state that comes with a value. -/
structure KeepsExcP {ε α : Type} (s0 : State) (o : Except ε (α × State)) : Prop where
  keeps : ∀ a t, o = .ok (a, t) → Keeps s0 t
/-- Every state that an outcome holds. -/
structure KeepsOut (s0 : State) (o : Host.Outcome State Fault Refusal) : Prop where
  keeps : ∀ t, o = .next t → Keeps s0 t

theorem keepsOpt_none {s0 : State} : KeepsOpt s0 none := ⟨by intro t h; cases h⟩
theorem keepsOpt_some {s0 t : State} (h : Keeps s0 t) : KeepsOpt s0 (some t) := ⟨by intro u e; cases e; exact h⟩
theorem keepsExc_error {ε : Type} {s0 : State} {e : ε} : KeepsExc s0 (.error e) := ⟨by intro t h; cases h⟩
theorem keepsExc_ok {ε : Type} {s0 t : State} (h : Keeps s0 t) : KeepsExc (ε := ε) s0 (.ok t) :=
  ⟨by intro u e; cases e; exact h⟩
theorem keepsExcP_error {ε α : Type} {s0 : State} {e : ε} : KeepsExcP (α := α) s0 (.error e) := ⟨by intro a t h; cases h⟩
theorem keepsExcP_ok {ε α : Type} {s0 : State} {x : α × State} (h : Keeps s0 x.2) : KeepsExcP (ε := ε) s0 (.ok x) :=
  ⟨by intro a t e; cases e; exact h⟩
theorem keepsOut_next {s0 t : State} (h : Keeps s0 t) : KeepsOut s0 (.next t) := ⟨by intro u e; cases e; exact h⟩
theorem keepsOut_nextState {s0 t : State} (h : Keeps s0 t) : KeepsOut s0 (nextState t) := keepsOut_next h
theorem keepsOut_fault {s0 : State} {f : Fault} : KeepsOut s0 (.fault f) := ⟨by intro t h; cases h⟩
theorem keepsOut_refused {s0 : State} {f : Refusal} : KeepsOut s0 (.refused f) := ⟨by intro t h; cases h⟩

theorem soundOut_of_keeps {s : State} {o : Host.Outcome State Fault Refusal} (h : Sound s) (hk : KeepsOut s o) : SoundOut o :=
  ⟨fun t e => sound_of_keeps h (hk.keeps t e)⟩

theorem keeps_of_pair {α : Type} {s0 t : State} {x : α × State} {a : α} (e : x = (a, t)) (h : Keeps s0 x.2) : Keeps s0 t := by
  rw [e] at h; exact h
theorem keeps_of_triple {α β : Type} {s0 t : State} {x : α × β × State} {a : α} {b : β} (e : x = (a, b, t)) (h : Keeps s0 x.2.2) :
    Keeps s0 t := by
  rw [e] at h; exact h
theorem keeps_of_opt {s0 t : State} {x : Option State} (e : x = some t) (h : KeepsOpt s0 x) : Keeps s0 t := h.keeps t e
theorem keeps_of_exc {ε : Type} {s0 t : State} {x : Except ε State} (e : x = .ok t) (h : KeepsExc s0 x) : Keeps s0 t := h.keeps t e
theorem keeps_of_excP {ε α : Type} {s0 t : State} {x : Except ε (α × State)} {a : α} (e : x = .ok (a, t)) (h : KeepsExcP s0 x) :
    Keeps s0 t := h.keeps a t e
theorem keeps_of_excP' {ε α : Type} {s0 : State} {x : Except ε (α × State)} {y : α × State} (e : x = .ok y) (h : KeepsExcP s0 x) :
    Keeps s0 y.2 := h.keeps y.1 y.2 e
theorem keeps_of_excPP {ε α β : Type} {s0 t : State} {x : Except ε (α × β × State)} {a : α} {b : β} (e : x = .ok (a, b, t))
    (h : ∀ y, x = .ok y → Keeps s0 y.2.2) : Keeps s0 t := h _ e

theorem keepsExc_bind {ε α : Type} {s0 : State} {x : Except ε α} {f : α → Except ε State} (hf : ∀ a, x = .ok a → KeepsExc s0 (f a)) :
    KeepsExc s0 (x >>= f) := by
  cases x with
  | error e => exact keepsExc_error
  | ok a => exact hf a rfl
theorem keepsExcP_bind {ε α β : Type} {s0 : State} {x : Except ε α} {f : α → Except ε (β × State)}
    (hf : ∀ a, x = .ok a → KeepsExcP s0 (f a)) : KeepsExcP s0 (x >>= f) := by
  cases x with
  | error e => exact keepsExcP_error
  | ok a => exact hf a rfl
theorem keepsExc_pure {ε : Type} {s0 t : State} (h : Keeps s0 t) : KeepsExc (ε := ε) s0 (pure t) := keepsExc_ok h
theorem keepsExcP_pure {ε α : Type} {s0 : State} {x : α × State} (h : Keeps s0 x.2) : KeepsExcP (ε := ε) s0 (pure x) := keepsExcP_ok h
theorem keepsExc_throw {ε : Type} {s0 : State} {e : ε} : KeepsExc s0 (throw e : Except ε State) := keepsExc_error

theorem keepsExcP_inv {ε α : Type} {s0 t : State} {a : α} (h : KeepsExcP (ε := ε) s0 (.ok (a, t))) : Keeps s0 t := h.keeps a t rfl
theorem keepsExc_inv {ε : Type} {s0 t : State} (h : KeepsExc (ε := ε) s0 (.ok t)) : Keeps s0 t := h.keeps t rfl
theorem keepsOpt_inv {s0 t : State} (h : KeepsOpt s0 (some t)) : Keeps s0 t := h.keeps t rfl

theorem keeps_foldl_excP {ε α β : Type} {s0 : State} {f : Except ε (α × State) → β → Except ε (α × State)} {l : List β}
    {a : Except ε (α × State)} (h : KeepsExcP s0 a) (hf : ∀ t x, KeepsExcP s0 t → KeepsExcP s0 (f t x)) : KeepsExcP s0 (l.foldl f a) := by
  induction l generalizing a with
  | nil => exact h
  | cons x rest ih => exact ih (hf a x h)

theorem keeps_foldl_exc {ε β : Type} {s0 : State} {f : Except ε State → β → Except ε State} {l : List β}
    {a : Except ε State} (h : KeepsExc s0 a) (hf : ∀ t x, KeepsExc s0 t → KeepsExc s0 (f t x)) : KeepsExc s0 (l.foldl f a) := by
  induction l generalizing a with
  | nil => exact h
  | cons x rest ih => exact ih (hf a x h)

theorem keeps_foldl_opt {β : Type} {s0 : State} {f : Option State → β → Option State} {l : List β}
    {a : Option State} (h : KeepsOpt s0 a) (hf : ∀ t x, KeepsOpt s0 t → KeepsOpt s0 (f t x)) : KeepsOpt s0 (l.foldl f a) := by
  induction l generalizing a with
  | nil => exact h
  | cons x rest ih => exact ih (hf a x h)

theorem keepsOpt_getD {s0 s : State} {o : Option State} (h : KeepsOpt s0 o) (hk : Keeps s0 s) : Keeps s0 (o.getD s) := by
  cases o with
  | none => exact hk
  | some t => exact h.keeps t rfl

theorem keeps_mapBus {s0 s : State} {g : Bu → Bu} (h : Keeps s0 s) (hg : ∀ b, Memory.wf b.bank = true → Memory.wf (g b).bank = true) :
    Keeps s0 { s with bus := s.bus.map (fun x => (x.1, g x.2)) } := by
  refine ⟨h.out, h.windows, h.wf.mem, h.wf.base, ?_, h.wf.saved⟩
  intro e he
  obtain ⟨x, hx, rfl⟩ := List.mem_map.1 he
  exact hg _ (h.wf.banks x hx)

theorem keeps_filterBus {s0 s : State} {p : Nat × Bu → Bool} (h : Keeps s0 s) : Keeps s0 { s with bus := s.bus.filter p } :=
  ⟨h.out, h.windows, h.wf.mem, h.wf.base, fun e he => h.wf.banks e (List.mem_of_mem_filter he), h.wf.saved⟩

@[simp] theorem join_mem (m : MemSys) (p : Party) (ws : List Nat) : (m.join p ws).mem = m.mem := by
  unfold MemSys.join; split; rfl; split <;> rfl
@[simp] theorem join_base (m : MemSys) (p : Party) (ws : List Nat) : (m.join p ws).base = m.base := by
  unfold MemSys.join; split; rfl; split <;> rfl

theorem keeps_join {s0 s : State} {p : Party} {ws : List Nat} (h : Keeps s0 s) : Keeps s0 { s with ms := s.ms.join p ws } :=
  keeps_ms h (join_mem _ _ _) (join_base _ _ _)

end Sys2Proof.Machine
end

