-- ==== Sys2Proof/Laws/KeepsOps.lean ====
section
/-!
SUPPORT. What the operations of Machine/Ops.lean keep.
-/
namespace Sys2Proof.Machine
open Sys2Proof.Safety

theorem choose_keeps {s0 : State} (s : State) (cs : List (Option Write)) (hk : Keeps s0 s) : Keeps s0 (choose s cs).2 := by
  unfold choose
  try dsimp only
  repeat' first
    | with_reducible assumption
    | split
    | dsimp only
    | fail_if_no_progress with_reducible apply keeps_my

theorem noteSeen_keeps {s0 : State} (s : State) (p : Party) (rs : List (Party × Nat × List Nat)) (hk : Keeps s0 s) : Keeps s0 (noteSeen s p rs) := by
  unfold noteSeen
  try dsimp only
  repeat' first
    | with_reducible assumption
    | with_reducible apply keeps_modCtx
    | split

theorem takeCand_keeps {s0 : State} (s : State) (p : Party) (key len : Nat) (c : Option Write) (hk : Keeps s0 s) : Keeps s0 (takeCand s p key len c) := by
  unfold takeCand
  try dsimp only
  repeat' first
    | with_reducible assumption
    | with_reducible apply noteSeen_keeps
    | with_reducible apply keeps_join
    | split

theorem readBytesFrom_keeps {s0 : State} (p : Party) (n : Nat) : ∀ (s : State) (key : Nat), Keeps s0 s →
    Keeps s0 (readBytesFrom s p key n).2 := by
  induction n with
  | zero => intro s key h; exact h
  | succ n ih =>
    intro s key h
    unfold readBytesFrom
    exact ih _ _ (takeCand_keeps _ _ _ _ _ (choose_keeps _ _ h))

theorem readMem_keeps {s0 : State} (s : State) (p : Party) (key len : Nat) (h : Keeps s0 s) : Keeps s0 (readMem s p key len).2 := by
  unfold readMem
  dsimp only
  split
  · exact takeCand_keeps _ _ _ _ _ (choose_keeps _ _ h)
  · exact readBytesFrom_keeps p len s key h

theorem performWrite_keeps {s0 : State} (s : State) (w : Write) (h : Keeps s0 s) : Keeps s0 (performWrite s w) := by
  refine ⟨h.out, h.windows, Memory.wf_writeBytes _ _ h.wf.mem, ?_, h.wf.banks, h.wf.saved⟩
  show Memory.wf (s.ms.join w.party w.ids).base = true
  rw [join_base]
  exact h.wf.base

theorem writeNow_keeps {s0 : State} (s : State) (p : Party) (key : Nat) (bytes : List Byte) (hk : Keeps s0 s) : Keeps s0 (writeNow s p key bytes) := by
  unfold writeNow
  try dsimp only
  repeat' first
    | with_reducible assumption
    | with_reducible apply performWrite_keeps
    | with_reducible apply keeps_freshFor

theorem synchronise_keeps {s0 : State} (s : State) (p : Party) (a : Nat) (q : Party) (r : Nat) (past : List Nat) (hk : Keeps s0 s) : Keeps s0 (synchronise s p a q r past) := by
  unfold synchronise
  try dsimp only
  repeat' first
    | with_reducible assumption
    | with_reducible apply keeps_ite
    | with_reducible apply keeps_join

theorem State_learn_keeps {s0 : State} (s : State) (p : Party) (id : Nat) (new : List Nat) (hk : Keeps s0 s) :
    Keeps s0 (s.learn p id new) := by
  refine ⟨hk.out, hk.windows, ?_, ?_, ?_, hk.wf.saved⟩
  · show Memory.wf (s.ms.join p new).mem = true
    rw [join_mem]; exact hk.wf.mem
  · show Memory.wf (s.ms.join p new).base = true
    rw [join_base]; exact hk.wf.base
  · intro e he
    obtain ⟨x, hx, rfl⟩ := List.mem_map.1 he
    exact hk.wf.banks x hx

theorem State_postTo_keeps {s0 : State} (s : State) (r : FaultRec) (stage : Nat) (o : Origin) (reply phase : Nat) (hk : Keeps s0 s) : Keeps s0 (State.postTo s r stage o reply phase) := by
  unfold State.postTo
  try dsimp only
  repeat' first
    | with_reducible assumption
    | (with_reducible refine keeps_modHub_same ?_ (by rfl))
    | with_reducible apply keeps_fresh

theorem State_post_keeps {s0 : State} (s : State) (r : FaultRec) (stage : Nat) (o : Origin) (hk : Keeps s0 s) : Keeps s0 (State.post s r stage o) := by
  unfold State.post
  try dsimp only
  repeat' first
    | with_reducible assumption
    | with_reducible apply State_postTo_keeps

theorem State_abortBlock_keeps {s0 : State} (s : State) (n slot : Nat) (hk : Keeps s0 s) : Keeps s0 (State.abortBlock s n slot) := by
  unfold State.abortBlock
  try dsimp only
  repeat' first
    | with_reducible assumption
    | with_reducible apply keeps_modCtx
    | (with_reducible refine keeps_modHub_same ?_ (by rfl))

theorem State_endInstance_keeps {s0 : State} (s : State) (n slot : Nat) (hk : Keeps s0 s) : Keeps s0 (State.endInstance s n slot) := by
  unfold State.endInstance
  try dsimp only
  repeat' first
    | with_reducible assumption
    | with_reducible apply keeps_ite
    | with_reducible apply keeps_modCtx
    | (with_reducible refine keeps_modHub_same ?_ (by rfl))
    | with_reducible apply keeps_fresh
    | split

theorem State_stopCtx_keeps {s0 : State} (s : State) (n slot : Nat) (hk : Keeps s0 s) : Keeps s0 (State.stopCtx s n slot) := by
  unfold State.stopCtx
  try dsimp only
  repeat' first
    | with_reducible assumption
    | with_reducible apply State_abortBlock_keeps
    | with_reducible apply State_endInstance_keeps
    | with_reducible apply keeps_modCtx
    | (with_reducible refine keeps_modHub_same ?_ (by rfl))

theorem State_faultCtx_keeps {s0 : State} (s : State) (n slot : Nat) (r : FaultRec) (o : Origin) (hk : Keeps s0 s) : Keeps s0 (State.faultCtx s n slot r o) := by
  unfold State.faultCtx
  try dsimp only
  repeat' first
    | with_reducible assumption
    | with_reducible apply State_post_keeps
    | with_reducible apply State_abortBlock_keeps
    | with_reducible apply State_stopCtx_keeps
    | with_reducible apply keeps_ite
    | with_reducible apply keeps_modCtx
    | with_reducible apply keeps_modBu
    | (intro _ hb; exact hb)

theorem State_faultH_keeps {s0 : State} (s : State) (n : Nat) (f : Flt) (o : Origin) (hk : Keeps s0 s) : Keeps s0 (State.faultH s n f o) := by
  unfold State.faultH
  try dsimp only
  repeat' first
    | with_reducible assumption
    | with_reducible apply State_post_keeps
    | with_reducible apply State_abortBlock_keeps
    | with_reducible apply State_stopCtx_keeps
    | with_reducible apply keeps_ite
    | with_reducible apply keeps_modCtx
    | with_reducible apply keeps_modBu
    | (intro _ hb; exact hb)
    | split

theorem State_raise_keeps {s0 : State} (s : State) (n slot block op elem : Nat) (f : Flt) (hk : Keeps s0 s) : Keeps s0 (State.raise s n slot block op elem f) := by
  unfold State.raise
  try dsimp only
  repeat' first
    | with_reducible assumption
    | with_reducible apply State_faultCtx_keeps
    | with_reducible apply State_faultH_keeps
    | with_reducible apply keeps_ite
    | with_reducible apply keeps_modBu
    | (intro _ hb; exact hb)

theorem State_endRun_keeps {s0 : State} (s : State) (n action : Nat) (hk : Keeps s0 s) : Keeps s0 (State.endRun s n action) := by
  unfold State.endRun
  try dsimp only
  repeat' first
    | with_reducible assumption
    | with_reducible apply State_post_keeps
    | with_reducible apply State_stopCtx_keeps
    | with_reducible apply keeps_ite
    | with_reducible apply keeps_modCtx
    | with_reducible apply keeps_modBu
    | (intro _ hb; exact hb)
    | split

end Sys2Proof.Machine
end

