-- ==== Sys2Proof/Laws/KeepsOperands.lean ====
section
/-!
SUPPORT. What the operations of Machine/Operands.lean keep.
-/
namespace Sys2Proof.Machine
open Sys2Proof.Safety

theorem mkView_keeps {s0 s : State} {r : Row} {o : Op} (h : Keeps s0 s) : Keeps s0 (mkView s r o).s := h

theorem noteLoads_keeps {s0 : State} (s : State) (n slot : Nat) (ls : List (Nat × Nat)) (hk : Keeps s0 s) : Keeps s0 (noteLoads s n slot ls) := by
  unfold noteLoads
  try dsimp only
  repeat' first
    | with_reducible assumption
    | with_reducible apply noteSeen_keeps
    | with_reducible apply keeps_ite

theorem finishOp_keeps {s0 : State} (v : View) (x : Srcs) (r : Res) (hk : Keeps s0 v.s) : Keeps s0 (finishOp v x r) := by
  unfold finishOp
  try dsimp only
  repeat' first
    | with_reducible assumption
    | with_reducible apply noteLoads_keeps
    | with_reducible apply keeps_modCtx
    | (with_reducible refine keeps_modHub_same ?_ (by rfl))
    | with_reducible apply keeps_fresh
    | split

theorem stopOp_keeps {s0 : State} (v : View) (e : Stop) (hk : Keeps s0 v.s) : Keeps s0 (stopOp v e) := by
  unfold stopOp
  try dsimp only
  repeat' first
    | with_reducible assumption
    | with_reducible apply State_raise_keeps
    | with_reducible apply keeps_modCtx
    | split

theorem runScalar_keeps {s0 : State} (r : Row) (o : Op) (s : State) (ready : View → Bool) (body : View → Srcs → Except Stop Res) (hk : Keeps s0 s) : Keeps s0 (runScalar r o s ready body) := by
  unfold runScalar
  try dsimp only
  repeat' first
    | with_reducible assumption
    | with_reducible apply finishOp_keeps
    | with_reducible apply stopOp_keeps
    | with_reducible apply mkView_keeps
    | with_reducible apply keeps_ite
    | with_reducible apply keeps_modCtx
    | split

theorem runVector_keeps {s0 : State} (r : Row) (o : Op) (s : State) (ready : View → Bool) (body : View → Srcs → Except Stop Res) (hk : Keeps s0 s) : Keeps s0 (runVector r o s ready body) := by
  unfold runVector
  try dsimp only
  repeat' first
    | with_reducible assumption
    | with_reducible apply finishOp_keeps
    | with_reducible apply stopOp_keeps
    | with_reducible apply mkView_keeps
    | with_reducible apply keeps_ite
    | split

end Sys2Proof.Machine
end

