-- ==== Sys2Proof/Laws/KeepsBank.lean ====
section
/-!
SUPPORT. What the operations of Machine/Bank.lean keep.
-/
namespace Sys2Proof.Machine
open Sys2Proof.Safety

theorem runLoad_keeps {s0 : State} (r : Row) (size : Nat) (o : Op) (s : State) (hk : Keeps s0 s) : Keeps s0 (runLoad r size o s) := by
  unfold runLoad
  try dsimp only
  repeat' first
    | with_reducible assumption
    | with_reducible apply runScalar_keeps

theorem runStore_keeps {s0 : State} (r : Row) (size : Nat) (o : Op) (s : State) (hk : Keeps s0 s) : Keeps s0 (runStore r size o s) := by
  unfold runStore
  try dsimp only
  repeat' first
    | with_reducible assumption
    | with_reducible apply runScalar_keeps

theorem execLdb_keeps {s0 : State} (o : Op) (s : State) (hk : Keeps s0 s) : KeepsOut s0 (execLdb o s) := by
  unfold execLdb
  try dsimp only
  repeat' first
    | with_reducible assumption
    | with_reducible apply runLoad_keeps
    | with_reducible apply keepsOut_nextState

theorem execLdh_keeps {s0 : State} (o : Op) (s : State) (hk : Keeps s0 s) : KeepsOut s0 (execLdh o s) := by
  unfold execLdh
  try dsimp only
  repeat' first
    | with_reducible assumption
    | with_reducible apply runLoad_keeps
    | with_reducible apply keepsOut_nextState

theorem execLdw_keeps {s0 : State} (o : Op) (s : State) (hk : Keeps s0 s) : KeepsOut s0 (execLdw o s) := by
  unfold execLdw
  try dsimp only
  repeat' first
    | with_reducible assumption
    | with_reducible apply runLoad_keeps
    | with_reducible apply keepsOut_nextState

theorem execLdd_keeps {s0 : State} (o : Op) (s : State) (hk : Keeps s0 s) : KeepsOut s0 (execLdd o s) := by
  unfold execLdd
  try dsimp only
  repeat' first
    | with_reducible assumption
    | with_reducible apply runLoad_keeps
    | with_reducible apply keepsOut_nextState

theorem execStb_keeps {s0 : State} (o : Op) (s : State) (hk : Keeps s0 s) : KeepsOut s0 (execStb o s) := by
  unfold execStb
  try dsimp only
  repeat' first
    | with_reducible assumption
    | with_reducible apply runStore_keeps
    | with_reducible apply keepsOut_nextState

theorem execSth_keeps {s0 : State} (o : Op) (s : State) (hk : Keeps s0 s) : KeepsOut s0 (execSth o s) := by
  unfold execSth
  try dsimp only
  repeat' first
    | with_reducible assumption
    | with_reducible apply runStore_keeps
    | with_reducible apply keepsOut_nextState

theorem execStw_keeps {s0 : State} (o : Op) (s : State) (hk : Keeps s0 s) : KeepsOut s0 (execStw o s) := by
  unfold execStw
  try dsimp only
  repeat' first
    | with_reducible assumption
    | with_reducible apply runStore_keeps
    | with_reducible apply keepsOut_nextState

theorem execStd_keeps {s0 : State} (o : Op) (s : State) (hk : Keeps s0 s) : KeepsOut s0 (execStd o s) := by
  unfold execStd
  try dsimp only
  repeat' first
    | with_reducible assumption
    | with_reducible apply runStore_keeps
    | with_reducible apply keepsOut_nextState

theorem acquireBank_keeps {s0 : State} (s : State) (n slot scope addr size : Nat) (hk : Keeps s0 s) : Keeps s0 (acquireBank s n slot scope addr size) := by
  unfold acquireBank
  try dsimp only
  repeat' first
    | with_reducible assumption
    | with_reducible apply synchronise_keeps
    | (with_reducible refine keeps_foldl ?_ ?_)
    | (intro _ _ _; try dsimp only)

theorem execLda_keeps {s0 : State} (o : Op) (s : State) (hk : Keeps s0 s) : KeepsOut s0 (execLda o s) := by
  unfold execLda
  try dsimp only
  repeat' first
    | with_reducible assumption
    | with_reducible apply runScalar_keeps
    | with_reducible apply acquireBank_keeps
    | with_reducible apply keeps_ite
    | with_reducible apply keepsOut_nextState
    | split

theorem execStl_keeps {s0 : State} (o : Op) (s : State) (hk : Keeps s0 s) : KeepsOut s0 (execStl o s) := by
  unfold execStl
  try dsimp only
  repeat' first
    | with_reducible assumption
    | with_reducible apply runScalar_keeps
    | with_reducible apply keepsOut_nextState

end Sys2Proof.Machine
end

