-- ==== Sys2Proof/Laws/KeepsMatrix.lean ====
section
/-!
SUPPORT. What the operations of Machine/Matrix.lean keep.
-/
namespace Sys2Proof.Machine
open Sys2Proof.Safety

theorem execMxMma_keeps {s0 : State} (o : Op) (s : State) (hk : Keeps s0 s) : KeepsOut s0 (execMxMma o s) := by
  unfold execMxMma
  try dsimp only
  repeat' first
    | with_reducible assumption
    | with_reducible apply runScalar_keeps
    | with_reducible apply keepsOut_nextState

theorem execMxMmaToken_keeps {s0 : State} (o : Op) (s : State) (hk : Keeps s0 s) : KeepsOut s0 (execMxMmaToken o s) := by
  unfold execMxMmaToken
  try dsimp only
  repeat' first
    | with_reducible assumption
    | with_reducible apply runScalar_keeps
    | with_reducible apply keepsOut_nextState

theorem execMxImma_keeps {s0 : State} (o : Op) (s : State) (hk : Keeps s0 s) : KeepsOut s0 (execMxImma o s) := by
  unfold execMxImma
  try dsimp only
  repeat' first
    | with_reducible assumption
    | with_reducible apply runScalar_keeps
    | with_reducible apply keepsOut_nextState

theorem execMxImmaToken_keeps {s0 : State} (o : Op) (s : State) (hk : Keeps s0 s) : KeepsOut s0 (execMxImmaToken o s) := by
  unfold execMxImmaToken
  try dsimp only
  repeat' first
    | with_reducible assumption
    | with_reducible apply runScalar_keeps
    | with_reducible apply keepsOut_nextState

theorem execMxZero_keeps {s0 : State} (o : Op) (s : State) (hk : Keeps s0 s) : KeepsOut s0 (execMxZero o s) := by
  unfold execMxZero
  try dsimp only
  repeat' first
    | with_reducible assumption
    | with_reducible apply runScalar_keeps
    | with_reducible apply keepsOut_nextState

theorem execMxZeroToken_keeps {s0 : State} (o : Op) (s : State) (hk : Keeps s0 s) : KeepsOut s0 (execMxZeroToken o s) := by
  unfold execMxZeroToken
  try dsimp only
  repeat' first
    | with_reducible assumption
    | with_reducible apply runScalar_keeps
    | with_reducible apply keepsOut_nextState

theorem execMxDrain_keeps {s0 : State} (o : Op) (s : State) (hk : Keeps s0 s) : KeepsOut s0 (execMxDrain o s) := by
  unfold execMxDrain
  try dsimp only
  repeat' first
    | with_reducible assumption
    | with_reducible apply runScalar_keeps
    | with_reducible apply keepsOut_nextState

theorem execMxDrainToken_keeps {s0 : State} (o : Op) (s : State) (hk : Keeps s0 s) : KeepsOut s0 (execMxDrainToken o s) := by
  unfold execMxDrainToken
  try dsimp only
  repeat' first
    | with_reducible assumption
    | with_reducible apply runScalar_keeps
    | with_reducible apply keepsOut_nextState

theorem execMxFill_keeps {s0 : State} (o : Op) (s : State) (hk : Keeps s0 s) : KeepsOut s0 (execMxFill o s) := by
  unfold execMxFill
  try dsimp only
  repeat' first
    | with_reducible assumption
    | with_reducible apply runScalar_keeps
    | with_reducible apply keepsOut_nextState

theorem execMxFillToken_keeps {s0 : State} (o : Op) (s : State) (hk : Keeps s0 s) : KeepsOut s0 (execMxFillToken o s) := by
  unfold execMxFillToken
  try dsimp only
  repeat' first
    | with_reducible assumption
    | with_reducible apply runScalar_keeps
    | with_reducible apply keepsOut_nextState

theorem execMxRev_keeps {s0 : State} (o : Op) (s : State) (hk : Keeps s0 s) : KeepsOut s0 (execMxRev o s) := by
  unfold execMxRev
  try dsimp only
  repeat' first
    | with_reducible assumption
    | with_reducible apply runScalar_keeps
    | with_reducible apply keepsOut_nextState

theorem execMxRevToken_keeps {s0 : State} (o : Op) (s : State) (hk : Keeps s0 s) : KeepsOut s0 (execMxRevToken o s) := by
  unfold execMxRevToken
  try dsimp only
  repeat' first
    | with_reducible assumption
    | with_reducible apply runScalar_keeps
    | with_reducible apply keepsOut_nextState

theorem execMxChk_keeps {s0 : State} (o : Op) (s : State) (hk : Keeps s0 s) : KeepsOut s0 (execMxChk o s) := by
  unfold execMxChk
  try dsimp only
  repeat' first
    | with_reducible assumption
    | with_reducible apply runScalar_keeps
    | with_reducible apply keepsOut_nextState

theorem execMxChkToken_keeps {s0 : State} (o : Op) (s : State) (hk : Keeps s0 s) : KeepsOut s0 (execMxChkToken o s) := by
  unfold execMxChkToken
  try dsimp only
  repeat' first
    | with_reducible assumption
    | with_reducible apply runScalar_keeps
    | with_reducible apply keepsOut_nextState

theorem execRgPush_keeps {s0 : State} (o : Op) (s : State) (hk : Keeps s0 s) : KeepsOut s0 (execRgPush o s) := by
  unfold execRgPush
  try dsimp only
  repeat' first
    | with_reducible assumption
    | with_reducible apply runScalar_keeps
    | with_reducible apply keepsOut_nextState

theorem execRgInfo_keeps {s0 : State} (o : Op) (s : State) (hk : Keeps s0 s) : KeepsOut s0 (execRgInfo o s) := by
  unfold execRgInfo
  try dsimp only
  repeat' first
    | with_reducible assumption
    | with_reducible apply runScalar_keeps
    | with_reducible apply keepsOut_nextState

theorem execRgReset_keeps {s0 : State} (o : Op) (s : State) (hk : Keeps s0 s) : KeepsOut s0 (execRgReset o s) := by
  unfold execRgReset
  try dsimp only
  repeat' first
    | with_reducible assumption
    | with_reducible apply runScalar_keeps
    | with_reducible apply keepsOut_nextState

theorem execMxWait_keeps {s0 : State} (o : Op) (s : State) (hk : Keeps s0 s) : KeepsOut s0 (execMxWait o s) := by
  unfold execMxWait
  try dsimp only
  repeat' first
    | with_reducible assumption
    | with_reducible apply runScalar_keeps
    | with_reducible apply keepsOut_nextState

theorem execMxTag_keeps {s0 : State} (o : Op) (s : State) (hk : Keeps s0 s) : KeepsOut s0 (execMxTag o s) := by
  unfold execMxTag
  try dsimp only
  repeat' first
    | with_reducible assumption
    | with_reducible apply runScalar_keeps
    | with_reducible apply keepsOut_nextState

theorem execEvLoop_keeps {s0 : State} (o : Op) (s : State) (hk : Keeps s0 s) : KeepsOut s0 (execEvLoop o s) := by
  unfold execEvLoop
  try dsimp only
  repeat' first
    | with_reducible assumption
    | with_reducible apply runScalar_keeps
    | with_reducible apply keepsOut_nextState

theorem execEvWait_keeps {s0 : State} (o : Op) (s : State) (hk : Keeps s0 s) : KeepsOut s0 (execEvWait o s) := by
  unfold execEvWait
  try dsimp only
  repeat' first
    | with_reducible assumption
    | with_reducible apply synchronise_keeps
    | with_reducible apply runScalar_keeps
    | with_reducible apply keeps_ite
    | (with_reducible refine keeps_foldl ?_ ?_)
    | with_reducible apply keepsOut_nextState
    | (intro _ _ _; try dsimp only)

theorem execEvPulse_keeps {s0 : State} (o : Op) (s : State) (hk : Keeps s0 s) : KeepsOut s0 (execEvPulse o s) := by
  unfold execEvPulse
  try dsimp only
  repeat' first
    | with_reducible assumption
    | with_reducible apply runScalar_keeps
    | with_reducible apply keepsOut_nextState

theorem execEvRd_keeps {s0 : State} (o : Op) (s : State) (hk : Keeps s0 s) : KeepsOut s0 (execEvRd o s) := by
  unfold execEvRd
  try dsimp only
  repeat' first
    | with_reducible assumption
    | with_reducible apply runScalar_keeps
    | with_reducible apply keepsOut_nextState

theorem execEvArm_keeps {s0 : State} (o : Op) (s : State) (hk : Keeps s0 s) : KeepsOut s0 (execEvArm o s) := by
  unfold execEvArm
  try dsimp only
  repeat' first
    | with_reducible assumption
    | with_reducible apply runScalar_keeps
    | with_reducible apply keepsOut_nextState

end Sys2Proof.Machine
end

