-- ==== Sys2Proof/Laws/KeepsOrder.lean ====
section
/-!
SUPPORT. What the operations of Machine/Order.lean keep.
-/
namespace Sys2Proof.Machine
open Sys2Proof.Safety

theorem fenceAcquire_keeps {s0 : State} (v : View) (scope : Nat) (s : State) (hk : Keeps s0 v.s) (hk : Keeps s0 s) : Keeps s0 (fenceAcquire v scope s) := by
  unfold fenceAcquire
  try dsimp only
  repeat' first
    | with_reducible assumption
    | with_reducible apply synchronise_keeps
    | (with_reducible refine keeps_foldl ?_ ?_)
    | (intro _ _ _; try dsimp only)

theorem fencePrune_keeps {s0 : State} (p : Party) (scope : Nat) (s : State) (hk : Keeps s0 s) : Keeps s0 (fencePrune p scope s) := by
  unfold fencePrune
  try dsimp only
  repeat' first
    | with_reducible assumption
    | with_reducible apply keeps_join
    | (with_reducible refine keeps_foldl ?_ ?_)
    | (intro _ _ _; try dsimp only)

theorem runFence_keeps {s0 : State} (r : Row) (acq rel : Bool) (o : Op) (s : State) (hk : Keeps s0 s) : Keeps s0 (runFence r acq rel o s) := by
  unfold runFence
  try dsimp only
  repeat' first
    | with_reducible assumption
    | with_reducible apply runScalar_keeps
    | with_reducible apply fenceAcquire_keeps
    | with_reducible apply fencePrune_keeps
    | with_reducible apply mkView_keeps
    | with_reducible apply keeps_ite

theorem execFence_keeps {s0 : State} (o : Op) (s : State) (hk : Keeps s0 s) : KeepsOut s0 (execFence o s) := by
  unfold execFence
  try dsimp only
  repeat' first
    | with_reducible assumption
    | with_reducible apply runFence_keeps
    | with_reducible apply keepsOut_nextState

theorem execFenceAcq_keeps {s0 : State} (o : Op) (s : State) (hk : Keeps s0 s) : KeepsOut s0 (execFenceAcq o s) := by
  unfold execFenceAcq
  try dsimp only
  repeat' first
    | with_reducible assumption
    | with_reducible apply runFence_keeps
    | with_reducible apply keepsOut_nextState

theorem execFenceRls_keeps {s0 : State} (o : Op) (s : State) (hk : Keeps s0 s) : KeepsOut s0 (execFenceRls o s) := by
  unfold execFenceRls
  try dsimp only
  repeat' first
    | with_reducible assumption
    | with_reducible apply runFence_keeps
    | with_reducible apply keepsOut_nextState

end Sys2Proof.Machine
end

