-- ==== Sys2Proof/Laws/KeepsRequests.lean ====
section
/-!
SUPPORT. What the operations of Machine/Requests.lean keep.
-/
namespace Sys2Proof.Machine
open Sys2Proof.Safety

theorem runRequest_keeps {s0 : State} (r : Row) (o : Op) (s : State) (fill : View → Srcs → Req → Except Stop Req) (hk : Keeps s0 s) : Keeps s0 (runRequest r o s fill) := by
  unfold runRequest
  try dsimp only
  repeat' first
    | with_reducible assumption
    | with_reducible apply runScalar_keeps

theorem execLdm_keeps {s0 : State} (o : Op) (s : State) (hk : Keeps s0 s) : KeepsOut s0 (execLdm o s) := by
  unfold execLdm
  try dsimp only
  repeat' first
    | with_reducible assumption
    | with_reducible apply runScalar_keeps
    | with_reducible apply keepsOut_nextState

theorem execStm_keeps {s0 : State} (o : Op) (s : State) (hk : Keeps s0 s) : KeepsOut s0 (execStm o s) := by
  unfold execStm
  try dsimp only
  repeat' first
    | with_reducible assumption
    | with_reducible apply runRequest_keeps
    | with_reducible apply keepsOut_nextState

theorem execPrf_keeps {s0 : State} (o : Op) (s : State) (hk : Keeps s0 s) : KeepsOut s0 (execPrf o s) := by
  unfold execPrf
  try dsimp only
  repeat' first
    | with_reducible assumption
    | with_reducible apply runScalar_keeps
    | with_reducible apply keepsOut_nextState

theorem execCstep_keeps {s0 : State} (o : Op) (s : State) (hk : Keeps s0 s) : KeepsOut s0 (execCstep o s) := by
  unfold execCstep
  try dsimp only
  repeat' first
    | with_reducible assumption
    | with_reducible apply runScalar_keeps
    | with_reducible apply keepsOut_nextState

theorem execCstepTo_keeps {s0 : State} (o : Op) (s : State) (hk : Keeps s0 s) : KeepsOut s0 (execCstepTo o s) := by
  unfold execCstepTo
  try dsimp only
  repeat' first
    | with_reducible assumption
    | with_reducible apply runScalar_keeps
    | with_reducible apply keepsOut_nextState

theorem execCstate_keeps {s0 : State} (o : Op) (s : State) (hk : Keeps s0 s) : KeepsOut s0 (execCstate o s) := by
  unfold execCstate
  try dsimp only
  repeat' first
    | with_reducible assumption
    | with_reducible apply runRequest_keeps
    | with_reducible apply keepsOut_nextState

theorem execHbState_keeps {s0 : State} (o : Op) (s : State) (hk : Keeps s0 s) : KeepsOut s0 (execHbState o s) := by
  unfold execHbState
  try dsimp only
  repeat' first
    | with_reducible assumption
    | with_reducible apply runRequest_keeps
    | with_reducible apply keepsOut_nextState

theorem execHbWait_keeps {s0 : State} (o : Op) (s : State) (hk : Keeps s0 s) : KeepsOut s0 (execHbWait o s) := by
  unfold execHbWait
  try dsimp only
  repeat' first
    | with_reducible assumption
    | with_reducible apply runRequest_keeps
    | with_reducible apply keepsOut_nextState

theorem execHbSet_keeps {s0 : State} (o : Op) (s : State) (hk : Keeps s0 s) : KeepsOut s0 (execHbSet o s) := by
  unfold execHbSet
  try dsimp only
  repeat' first
    | with_reducible assumption
    | with_reducible apply runRequest_keeps
    | with_reducible apply keepsOut_nextState

theorem execHbPub_keeps {s0 : State} (o : Op) (s : State) (hk : Keeps s0 s) : KeepsOut s0 (execHbPub o s) := by
  unfold execHbPub
  try dsimp only
  repeat' first
    | with_reducible assumption
    | with_reducible apply runRequest_keeps
    | with_reducible apply keepsOut_nextState

theorem execHbAlloc_keeps {s0 : State} (o : Op) (s : State) (hk : Keeps s0 s) : KeepsOut s0 (execHbAlloc o s) := by
  unfold execHbAlloc
  try dsimp only
  repeat' first
    | with_reducible assumption
    | with_reducible apply runRequest_keeps
    | with_reducible apply keepsOut_nextState

theorem execHbFree_keeps {s0 : State} (o : Op) (s : State) (hk : Keeps s0 s) : KeepsOut s0 (execHbFree o s) := by
  unfold execHbFree
  try dsimp only
  repeat' first
    | with_reducible assumption
    | with_reducible apply runRequest_keeps
    | with_reducible apply keepsOut_nextState

theorem execShRd_keeps {s0 : State} (o : Op) (s : State) (hk : Keeps s0 s) : KeepsOut s0 (execShRd o s) := by
  unfold execShRd
  try dsimp only
  repeat' first
    | with_reducible assumption
    | with_reducible apply runRequest_keeps
    | with_reducible apply keepsOut_nextState

theorem execShChk_keeps {s0 : State} (o : Op) (s : State) (hk : Keeps s0 s) : KeepsOut s0 (execShChk o s) := by
  unfold execShChk
  try dsimp only
  repeat' first
    | with_reducible assumption
    | with_reducible apply runRequest_keeps
    | with_reducible apply keepsOut_nextState

theorem execMsg_keeps {s0 : State} (o : Op) (s : State) (hk : Keeps s0 s) : KeepsOut s0 (execMsg o s) := by
  unfold execMsg
  try dsimp only
  repeat' first
    | with_reducible assumption
    | with_reducible apply runRequest_keeps
    | with_reducible apply keepsOut_nextState

theorem execAtom_keeps {s0 : State} (o : Op) (s : State) (hk : Keeps s0 s) : KeepsOut s0 (execAtom o s) := by
  unfold execAtom
  try dsimp only
  repeat' first
    | with_reducible assumption
    | with_reducible apply runRequest_keeps
    | with_reducible apply keepsOut_nextState

theorem execCas_keeps {s0 : State} (o : Op) (s : State) (hk : Keeps s0 s) : KeepsOut s0 (execCas o s) := by
  unfold execCas
  try dsimp only
  repeat' first
    | with_reducible assumption
    | with_reducible apply runRequest_keeps
    | with_reducible apply keepsOut_nextState

theorem execCas2_keeps {s0 : State} (o : Op) (s : State) (hk : Keeps s0 s) : KeepsOut s0 (execCas2 o s) := by
  unfold execCas2
  try dsimp only
  repeat' first
    | with_reducible assumption
    | with_reducible apply runRequest_keeps
    | with_reducible apply keepsOut_nextState

theorem execRed_keeps {s0 : State} (o : Op) (s : State) (hk : Keeps s0 s) : KeepsOut s0 (execRed o s) := by
  unfold execRed
  try dsimp only
  repeat' first
    | with_reducible assumption
    | with_reducible apply runRequest_keeps
    | with_reducible apply keepsOut_nextState

theorem execCeRed_keeps {s0 : State} (o : Op) (s : State) (hk : Keeps s0 s) : KeepsOut s0 (execCeRed o s) := by
  unfold execCeRed
  try dsimp only
  repeat' first
    | with_reducible assumption
    | with_reducible apply runRequest_keeps
    | with_reducible apply keepsOut_nextState

theorem execCeProg_keeps {s0 : State} (o : Op) (s : State) (hk : Keeps s0 s) : KeepsOut s0 (execCeProg o s) := by
  unfold execCeProg
  try dsimp only
  repeat' first
    | with_reducible assumption
    | with_reducible apply runRequest_keeps
    | with_reducible apply keepsOut_nextState

theorem execBarInit_keeps {s0 : State} (o : Op) (s : State) (hk : Keeps s0 s) : KeepsOut s0 (execBarInit o s) := by
  unfold execBarInit
  try dsimp only
  repeat' first
    | with_reducible assumption
    | with_reducible apply runRequest_keeps
    | with_reducible apply keepsOut_nextState

theorem execBarArrive_keeps {s0 : State} (o : Op) (s : State) (hk : Keeps s0 s) : KeepsOut s0 (execBarArrive o s) := by
  unfold execBarArrive
  try dsimp only
  repeat' first
    | with_reducible assumption
    | with_reducible apply runRequest_keeps
    | with_reducible apply keepsOut_nextState

theorem execBarDrop_keeps {s0 : State} (o : Op) (s : State) (hk : Keeps s0 s) : KeepsOut s0 (execBarDrop o s) := by
  unfold execBarDrop
  try dsimp only
  repeat' first
    | with_reducible assumption
    | with_reducible apply runRequest_keeps
    | with_reducible apply keepsOut_nextState

theorem execBarWait_keeps {s0 : State} (o : Op) (s : State) (hk : Keeps s0 s) : KeepsOut s0 (execBarWait o s) := by
  unfold execBarWait
  try dsimp only
  repeat' first
    | with_reducible assumption
    | with_reducible apply runRequest_keeps
    | with_reducible apply keepsOut_nextState

theorem runLadder_keeps {s0 : State} (r : Row) (o : Op) (s : State) (hk : Keeps s0 s) : Keeps s0 (runLadder r o s) := by
  unfold runLadder
  try dsimp only
  repeat' first
    | with_reducible assumption
    | with_reducible apply runRequest_keeps

theorem execSpNew_keeps {s0 : State} (o : Op) (s : State) (hk : Keeps s0 s) : KeepsOut s0 (execSpNew o s) := by
  unfold execSpNew
  try dsimp only
  repeat' first
    | with_reducible assumption
    | with_reducible apply runLadder_keeps
    | with_reducible apply keepsOut_nextState

theorem execSpFree_keeps {s0 : State} (o : Op) (s : State) (hk : Keeps s0 s) : KeepsOut s0 (execSpFree o s) := by
  unfold execSpFree
  try dsimp only
  repeat' first
    | with_reducible assumption
    | with_reducible apply runLadder_keeps
    | with_reducible apply keepsOut_nextState

theorem execLift_keeps {s0 : State} (o : Op) (s : State) (hk : Keeps s0 s) : KeepsOut s0 (execLift o s) := by
  unfold execLift
  try dsimp only
  repeat' first
    | with_reducible assumption
    | with_reducible apply runLadder_keeps
    | with_reducible apply keepsOut_nextState

theorem execLower_keeps {s0 : State} (o : Op) (s : State) (hk : Keeps s0 s) : KeepsOut s0 (execLower o s) := by
  unfold execLower
  try dsimp only
  repeat' first
    | with_reducible assumption
    | with_reducible apply runLadder_keeps
    | with_reducible apply keepsOut_nextState

theorem execRecall_keeps {s0 : State} (o : Op) (s : State) (hk : Keeps s0 s) : KeepsOut s0 (execRecall o s) := by
  unfold execRecall
  try dsimp only
  repeat' first
    | with_reducible assumption
    | with_reducible apply runLadder_keeps
    | with_reducible apply keepsOut_nextState

theorem execProbe_keeps {s0 : State} (o : Op) (s : State) (hk : Keeps s0 s) : KeepsOut s0 (execProbe o s) := by
  unfold execProbe
  try dsimp only
  repeat' first
    | with_reducible assumption
    | with_reducible apply runLadder_keeps
    | with_reducible apply keepsOut_nextState

theorem execDrop_keeps {s0 : State} (o : Op) (s : State) (hk : Keeps s0 s) : KeepsOut s0 (execDrop o s) := by
  unfold execDrop
  try dsimp only
  repeat' first
    | with_reducible assumption
    | with_reducible apply runLadder_keeps
    | with_reducible apply keepsOut_nextState

theorem execSpPin_keeps {s0 : State} (o : Op) (s : State) (hk : Keeps s0 s) : KeepsOut s0 (execSpPin o s) := by
  unfold execSpPin
  try dsimp only
  repeat' first
    | with_reducible assumption
    | with_reducible apply runLadder_keeps
    | with_reducible apply keepsOut_nextState

theorem execSpUnpin_keeps {s0 : State} (o : Op) (s : State) (hk : Keeps s0 s) : KeepsOut s0 (execSpUnpin o s) := by
  unfold execSpUnpin
  try dsimp only
  repeat' first
    | with_reducible assumption
    | with_reducible apply runLadder_keeps
    | with_reducible apply keepsOut_nextState

theorem execKvApp_keeps {s0 : State} (o : Op) (s : State) (hk : Keeps s0 s) : KeepsOut s0 (execKvApp o s) := by
  unfold execKvApp
  try dsimp only
  repeat' first
    | with_reducible assumption
    | with_reducible apply runLadder_keeps
    | with_reducible apply keepsOut_nextState

theorem execPgRef_keeps {s0 : State} (o : Op) (s : State) (hk : Keeps s0 s) : KeepsOut s0 (execPgRef o s) := by
  unfold execPgRef
  try dsimp only
  repeat' first
    | with_reducible assumption
    | with_reducible apply runLadder_keeps
    | with_reducible apply keepsOut_nextState

theorem execPgUnref_keeps {s0 : State} (o : Op) (s : State) (hk : Keeps s0 s) : KeepsOut s0 (execPgUnref o s) := by
  unfold execPgUnref
  try dsimp only
  repeat' first
    | with_reducible assumption
    | with_reducible apply runLadder_keeps
    | with_reducible apply keepsOut_nextState

theorem execGlLaunch_keeps {s0 : State} (o : Op) (s : State) (hk : Keeps s0 s) : KeepsOut s0 (execGlLaunch o s) := by
  unfold execGlLaunch
  try dsimp only
  repeat' first
    | with_reducible assumption
    | with_reducible apply runLadder_keeps
    | with_reducible apply keepsOut_nextState

theorem execCntAdd_keeps {s0 : State} (o : Op) (s : State) (hk : Keeps s0 s) : KeepsOut s0 (execCntAdd o s) := by
  unfold execCntAdd
  try dsimp only
  repeat' first
    | with_reducible assumption
    | with_reducible apply runLadder_keeps
    | with_reducible apply keepsOut_nextState

theorem execCntRd_keeps {s0 : State} (o : Op) (s : State) (hk : Keeps s0 s) : KeepsOut s0 (execCntRd o s) := by
  unfold execCntRd
  try dsimp only
  repeat' first
    | with_reducible assumption
    | with_reducible apply runLadder_keeps
    | with_reducible apply keepsOut_nextState

theorem execCntWait_keeps {s0 : State} (o : Op) (s : State) (hk : Keeps s0 s) : KeepsOut s0 (execCntWait o s) := by
  unfold execCntWait
  try dsimp only
  repeat' first
    | with_reducible assumption
    | with_reducible apply runLadder_keeps
    | with_reducible apply keepsOut_nextState

theorem execCancel_keeps {s0 : State} (o : Op) (s : State) (hk : Keeps s0 s) : KeepsOut s0 (execCancel o s) := by
  unfold execCancel
  try dsimp only
  repeat' first
    | with_reducible assumption
    | with_reducible apply runLadder_keeps
    | with_reducible apply keepsOut_nextState

theorem execDonePhase_keeps {s0 : State} (o : Op) (s : State) (hk : Keeps s0 s) : KeepsOut s0 (execDonePhase o s) := by
  unfold execDonePhase
  try dsimp only
  repeat' first
    | with_reducible assumption
    | with_reducible apply runLadder_keeps
    | with_reducible apply keepsOut_nextState

theorem execDoneJob_keeps {s0 : State} (o : Op) (s : State) (hk : Keeps s0 s) : KeepsOut s0 (execDoneJob o s) := by
  unfold execDoneJob
  try dsimp only
  repeat' first
    | with_reducible assumption
    | with_reducible apply runLadder_keeps
    | with_reducible apply keepsOut_nextState

theorem runFwcall_keeps {s0 : State} (r : Row) (o : Op) (s : State) (hk : Keeps s0 s) : Keeps s0 (runFwcall r o s) := by
  unfold runFwcall
  try dsimp only
  repeat' first
    | with_reducible assumption
    | with_reducible apply runRequest_keeps

theorem execFwcallId_keeps {s0 : State} (o : Op) (s : State) (hk : Keeps s0 s) : KeepsOut s0 (execFwcallId o s) := by
  unfold execFwcallId
  try dsimp only
  repeat' first
    | with_reducible assumption
    | with_reducible apply runFwcall_keeps
    | with_reducible apply keepsOut_nextState

theorem execFwcallTick_keeps {s0 : State} (o : Op) (s : State) (hk : Keeps s0 s) : KeepsOut s0 (execFwcallTick o s) := by
  unfold execFwcallTick
  try dsimp only
  repeat' first
    | with_reducible assumption
    | with_reducible apply runFwcall_keeps
    | with_reducible apply keepsOut_nextState

theorem execFwcallBell_keeps {s0 : State} (o : Op) (s : State) (hk : Keeps s0 s) : KeepsOut s0 (execFwcallBell o s) := by
  unfold execFwcallBell
  try dsimp only
  repeat' first
    | with_reducible assumption
    | with_reducible apply runFwcall_keeps
    | with_reducible apply keepsOut_nextState

theorem execFwcallHealth_keeps {s0 : State} (o : Op) (s : State) (hk : Keeps s0 s) : KeepsOut s0 (execFwcallHealth o s) := by
  unfold execFwcallHealth
  try dsimp only
  repeat' first
    | with_reducible assumption
    | with_reducible apply runFwcall_keeps
    | with_reducible apply keepsOut_nextState

end Sys2Proof.Machine
end

