-- ==== Sys2Proof/Laws/KeepsLog.lean ====
section
/-!
SUPPORT. What the operations of Machine/Log.lean keep.
-/
namespace Sys2Proof.Machine
open Sys2Proof.Safety

theorem releaseCopies_keeps {s0 : State} (s : State) (id : Nat) (hk : Keeps s0 s) : Keeps s0 (releaseCopies s id) := by
  unfold releaseCopies
  try dsimp only
  repeat' first
    | with_reducible assumption
    | with_reducible apply keeps_modBu
    | (with_reducible refine keeps_modHub_same ?_ (by rfl))
    | (with_reducible refine keeps_foldl ?_ ?_)
    | (intro _ hb; exact hb)
    | split
    | (intro _ _ _; try dsimp only)

theorem stepCopies_keeps {s0 : State} (s : State) (id : Nat) (atLeast : Option Nat) (hk : Keeps s0 s) : Keeps s0 (stepCopies s id atLeast) := by
  unfold stepCopies
  try dsimp only
  repeat' first
    | with_reducible assumption
    | with_reducible apply releaseCopies_keeps
    | with_reducible apply keeps_ite
    | (with_reducible refine keeps_modHub_same ?_ (by rfl))

theorem releaseReq_keeps {s0 : State} (s : State) (id : Nat) (hk : Keeps s0 s) : Keeps s0 (releaseReq s id) := by
  unfold releaseReq
  try dsimp only
  repeat' first
    | with_reducible assumption
    | with_reducible apply stepCopies_keeps
    | (with_reducible refine keeps_modHub_same ?_ (by rfl))
    | split

theorem releaseLine_keeps {s0 : State} (s : State) (id : Nat) (hk : Keeps s0 s) : Keeps s0 (releaseLine s id) := by
  unfold releaseLine
  try dsimp only
  repeat' first
    | with_reducible assumption
    | fail_if_no_progress (with_reducible refine keeps_ms ?_ (by first | rfl | with_unfolding_all rfl | (simp only [join_mem]; done)) (by first | rfl | with_unfolding_all rfl | (simp only [join_base]; done)))

theorem publishItem_keeps {s0 : State} (n : Nat) (s : State) (i : LogItem) (hk : Keeps s0 s) : Keeps s0 (publishItem n s i) := by
  unfold publishItem
  try dsimp only
  repeat' first
    | with_reducible assumption
    | with_reducible apply State_post_keeps
    | with_reducible apply releaseReq_keeps
    | with_reducible apply releaseLine_keeps
    | split

theorem publishBu_keeps {s0 : State} (take : LogEnt → Bool) (s : State) (n : Nat) (hk : Keeps s0 s) : Keeps s0 (publishBu take s n) := by
  unfold publishBu
  try dsimp only
  repeat' first
    | with_reducible assumption
    | with_reducible apply publishItem_keeps
    | with_reducible apply keeps_modBu
    | (with_reducible refine keeps_foldl ?_ ?_)
    | (intro _ hb; exact hb)
    | (intro _ _ _; try dsimp only)

theorem makeNorep_keeps {s0 : State} (s : State) (rid rd : Nat) (hk : Keeps s0 s) : Keeps s0 (makeNorep s rid rd) := by
  unfold makeNorep
  try dsimp only
  repeat' first
    | with_reducible assumption
    | with_reducible apply publishBu_keeps
    | with_reducible apply keeps_ite
    | with_reducible apply keeps_modRegion
    | (with_reducible refine keeps_foldl ?_ ?_)
    | (with_reducible refine Region.savedOk_same (by with_reducible assumption) (by with_unfolding_all rfl))
    | (with_reducible intro _; with_reducible intro (_ : Region.SavedOk _); try dsimp only)
    | split

theorem openUpTo_keeps {s0 : State} (s : State) (n rd : Nat) (hk : Keeps s0 s) : Keeps s0 (openUpTo s n rd) := by
  unfold openUpTo
  try dsimp only
  repeat' first
    | with_reducible assumption
    | with_reducible apply keeps_modRegion
    | (with_reducible refine Region.savedOk_same (by with_reducible assumption) (by with_unfolding_all rfl))
    | (with_reducible intro _; with_reducible intro (_ : Region.SavedOk _); try dsimp only)
    | split

theorem logItem_keeps {s0 : State} (s : State) (n rd lines : Nat) (i : LogItem) (hk : Keeps s0 s) : Keeps s0 (logItem s n rd lines i).2 := by
  unfold logItem
  try dsimp only
  repeat' first
    | with_reducible assumption
    | with_reducible apply makeNorep_keeps
    | with_reducible apply openUpTo_keeps
    | with_reducible apply keeps_modBu
    | (intro _ hb; exact hb)
    | split

theorem logReplay_keeps {s0 : State} (s : State) (n rd lines : Nat) (i : ReplayItem) (hk : Keeps s0 s) : Keeps s0 (logReplay s n rd lines i) := by
  unfold logReplay
  try dsimp only
  repeat' first
    | with_reducible assumption
    | with_reducible apply makeNorep_keeps
    | with_reducible apply keeps_ite
    | with_reducible apply keeps_modBu
    | (intro _ hb; exact hb)
    | split

theorem logUndo_keeps {s0 : State} (s : State) (n rd line : Nat) (hk : Keeps s0 s) : Keeps s0 (logUndo s n rd line) := by
  unfold logUndo
  try dsimp only
  repeat' first
    | with_reducible assumption
    | with_reducible apply logItem_keeps
    | with_reducible apply keeps_ite

theorem bankPut_keeps {s0 : State} (s : State) (n addr : Nat) (bytes : List Byte) (hk : Keeps s0 s) : Keeps s0 (bankPut s n addr bytes) := by
  unfold bankPut
  try dsimp only
  repeat' first
    | with_reducible assumption
    | with_reducible apply keeps_modBu
    | with_reducible apply Memory.wf_writeBytes
    | (intro _ _; try dsimp only)

theorem bankWrite_keeps {s0 : State} (s : State) (n rd addr : Nat) (bytes : List Byte) (hk : Keeps s0 s) : Keeps s0 (bankWrite s n rd addr bytes) := by
  unfold bankWrite
  try dsimp only
  repeat' first
    | with_reducible assumption
    | with_reducible apply logUndo_keeps
    | with_reducible apply bankPut_keeps
    | with_reducible apply keeps_ite
    | (with_reducible refine keeps_foldl ?_ ?_)
    | (intro _ _ _; try dsimp only)

end Sys2Proof.Machine
end

