-- ==== Sys2Proof/Laws/KeepsQueues.lean ====
section
/-!
SUPPORT. What the operations of Machine/Queues.lean keep.
-/
namespace Sys2Proof.Machine
open Sys2Proof.Safety

theorem execQmark_keeps {s0 : State} (o : Op) (s : State) (hk : Keeps s0 s) : KeepsOut s0 (execQmark o s) := by
  unfold execQmark
  try dsimp only
  repeat' first
    | with_reducible assumption
    | with_reducible apply runScalar_keeps
    | with_reducible apply keepsOut_nextState

theorem execQpoison_keeps {s0 : State} (o : Op) (s : State) (hk : Keeps s0 s) : KeepsOut s0 (execQpoison o s) := by
  unfold execQpoison
  try dsimp only
  repeat' first
    | with_reducible assumption
    | with_reducible apply runScalar_keeps
    | with_reducible apply keepsOut_nextState

theorem execQlast_keeps {s0 : State} (o : Op) (s : State) (hk : Keeps s0 s) : KeepsOut s0 (execQlast o s) := by
  unfold execQlast
  try dsimp only
  repeat' first
    | with_reducible assumption
    | with_reducible apply runScalar_keeps
    | with_reducible apply keepsOut_nextState

theorem execQpeek_keeps {s0 : State} (o : Op) (s : State) (hk : Keeps s0 s) : KeepsOut s0 (execQpeek o s) := by
  unfold execQpeek
  try dsimp only
  repeat' first
    | with_reducible assumption
    | with_reducible apply runScalar_keeps
    | with_reducible apply keepsOut_nextState

theorem execQcnt_keeps {s0 : State} (o : Op) (s : State) (hk : Keeps s0 s) : KeepsOut s0 (execQcnt o s) := by
  unfold execQcnt
  try dsimp only
  repeat' first
    | with_reducible assumption
    | with_reducible apply runScalar_keeps
    | with_reducible apply keepsOut_nextState

theorem execQdrop_keeps {s0 : State} (o : Op) (s : State) (hk : Keeps s0 s) : KeepsOut s0 (execQdrop o s) := by
  unfold execQdrop
  try dsimp only
  repeat' first
    | with_reducible assumption
    | with_reducible apply runScalar_keeps
    | with_reducible apply keepsOut_nextState

theorem execQwaitr_keeps {s0 : State} (o : Op) (s : State) (hk : Keeps s0 s) : KeepsOut s0 (execQwaitr o s) := by
  unfold execQwaitr
  try dsimp only
  repeat' first
    | with_reducible assumption
    | with_reducible apply runScalar_keeps
    | with_reducible apply keepsOut_nextState

theorem execQfmt_keeps {s0 : State} (o : Op) (s : State) (hk : Keeps s0 s) : KeepsOut s0 (execQfmt o s) := by
  unfold execQfmt
  try dsimp only
  repeat' first
    | with_reducible assumption
    | with_reducible apply runScalar_keeps
    | with_reducible apply keepsOut_nextState

theorem execRateSet_keeps {s0 : State} (o : Op) (s : State) (hk : Keeps s0 s) : KeepsOut s0 (execRateSet o s) := by
  unfold execRateSet
  try dsimp only
  repeat' first
    | with_reducible assumption
    | with_reducible apply runScalar_keeps
    | with_reducible apply keepsOut_nextState

theorem execRateRd_keeps {s0 : State} (o : Op) (s : State) (hk : Keeps s0 s) : KeepsOut s0 (execRateRd o s) := by
  unfold execRateRd
  try dsimp only
  repeat' first
    | with_reducible assumption
    | with_reducible apply runScalar_keeps
    | with_reducible apply keepsOut_nextState

theorem execRateW_keeps {s0 : State} (o : Op) (s : State) (hk : Keeps s0 s) : KeepsOut s0 (execRateW o s) := by
  unfold execRateW
  try dsimp only
  repeat' first
    | with_reducible assumption
    | with_reducible apply runScalar_keeps
    | with_reducible apply keepsOut_nextState

end Sys2Proof.Machine
end

