-- ==== Sys2Proof/Laws/KeepsSpecial.lean ====
section
/-!
SUPPORT. What the operations of Machine/Special.lean keep.
-/
namespace Sys2Proof.Machine
open Sys2Proof.Safety

theorem sprWrite_keeps {s0 : State} (s : State) (n slot : Nat) (w : SprWrite) (hk : Keeps s0 s) : Keeps s0 (sprWrite s n slot w) := by
  unfold sprWrite
  try dsimp only
  repeat' first
    | with_reducible assumption
    | with_reducible apply keeps_ite
    | with_reducible apply keeps_modCtx
    | with_reducible apply keeps_modBu
    | with_reducible apply keeps_modRegion
    | (with_reducible refine Region.savedOk_same (by with_reducible assumption) (by with_unfolding_all rfl))
    | (with_reducible intro _; with_reducible intro (_ : Region.SavedOk _); try dsimp only)
    | (intro _ hb; exact hb)
    | split

theorem execSprRd_keeps {s0 : State} (o : Op) (s : State) (hk : Keeps s0 s) : KeepsOut s0 (execSprRd o s) := by
  unfold execSprRd
  try dsimp only
  repeat' first
    | with_reducible assumption
    | with_reducible apply runScalar_keeps
    | with_reducible apply keepsOut_nextState

theorem execSprWr_keeps {s0 : State} (o : Op) (s : State) (hk : Keeps s0 s) : KeepsOut s0 (execSprWr o s) := by
  unfold execSprWr
  try dsimp only
  repeat' first
    | with_reducible assumption
    | with_reducible apply runScalar_keeps
    | with_reducible apply keepsOut_nextState

theorem execFrz_keeps {s0 : State} (o : Op) (s : State) (hk : Keeps s0 s) : KeepsOut s0 (execFrz o s) := by
  unfold execFrz
  try dsimp only
  repeat' first
    | with_reducible assumption
    | with_reducible apply runScalar_keeps
    | with_reducible apply keepsOut_nextState

theorem execThaw_keeps {s0 : State} (o : Op) (s : State) (hk : Keeps s0 s) : KeepsOut s0 (execThaw o s) := by
  unfold execThaw
  try dsimp only
  repeat' first
    | with_reducible assumption
    | with_reducible apply runScalar_keeps
    | with_reducible apply keepsOut_nextState

theorem execMxDeg_keeps {s0 : State} (o : Op) (s : State) (hk : Keeps s0 s) : KeepsOut s0 (execMxDeg o s) := by
  unfold execMxDeg
  try dsimp only
  repeat' first
    | with_reducible assumption
    | with_reducible apply runScalar_keeps
    | with_reducible apply keepsOut_nextState

theorem execRnsInj_keeps {s0 : State} (o : Op) (s : State) (hk : Keeps s0 s) : KeepsOut s0 (execRnsInj o s) := by
  unfold execRnsInj
  try dsimp only
  repeat' first
    | with_reducible assumption
    | with_reducible apply runScalar_keeps
    | with_reducible apply keepsOut_nextState

end Sys2Proof.Machine
end

