-- ==== Sys2Proof/Laws/KeepsTokens.lean ====
section
/-!
SUPPORT. What the operations of Machine/Tokens.lean keep.
-/
namespace Sys2Proof.Machine
open Sys2Proof.Safety

theorem State_modNet_keeps {s0 : State} (s : State) (f : Net → Net) (hk : Keeps s0 s) : Keeps s0 (State.modNet s f) := by
  unfold State.modNet
  try dsimp only
  repeat' first
    | with_reducible assumption
    | fail_if_no_progress with_reducible apply keeps_net

theorem sendBy_keeps {s0 : State} (s : State) (n : Nat) (after hold : List Nat) (t : Token) (e : SendEnt) (hk : Keeps s0 s) : Keeps s0 (sendBy s n after hold t e) := by
  unfold sendBy
  try dsimp only
  repeat' first
    | with_reducible assumption
    | with_reducible apply State_modNet_keeps
    | with_reducible apply keeps_modBu
    | with_reducible apply keeps_fresh
    | (intro _ hb; exact hb)
    | split

theorem sendAll_keeps {s0 : State} (s : State) (n : Nat) (es : List SendEnt) (after hold : List Nat) (t : Token) (hk : Keeps s0 s) : Keeps s0 (sendAll s n es after hold t) := by
  unfold sendAll
  try dsimp only
  repeat' first
    | with_reducible assumption
    | with_reducible apply sendBy_keeps
    | (with_reducible refine keeps_foldl ?_ ?_)
    | (intro _ _ _; try dsimp only)

theorem sendCtl_keeps {s0 : State} (s : State) (src dest : Nat) (m : CtlMsg) (hk : Keeps s0 s) : Keeps s0 (sendCtl s src dest m) := by
  unfold sendCtl
  try dsimp only
  repeat' first
    | with_reducible assumption
    | with_reducible apply State_modNet_keeps
    | with_reducible apply keeps_fresh

theorem returnCredits_keeps {s0 : State} (s : State) (n route : Nat) (toop : Bool) (slot qi k : Nat) (hk : Keeps s0 s) : Keeps s0 (returnCredits s n route toop slot qi k) := by
  unfold returnCredits
  try dsimp only
  repeat' first
    | with_reducible assumption
    | with_reducible apply sendCtl_keeps
    | with_reducible apply keeps_ite
    | split

theorem popTokens_keeps {s0 : State} (s : State) (n slot qi k : Nat) (hk : Keeps s0 s) : Keeps s0 (popTokens s n slot qi k) := by
  unfold popTokens
  try dsimp only
  repeat' first
    | with_reducible assumption
    | with_reducible apply returnCredits_keeps
    | with_reducible apply keeps_modBu
    | (intro _ hb; exact hb)
    | split

end Sys2Proof.Machine
end

