-- ==== Sys2Proof/Laws/KeepsFreeze.lean ====
section
/-!
SUPPORT. What the operations of Machine/Freeze.lean keep.
-/
namespace Sys2Proof.Machine
open Sys2Proof.Safety

theorem pinBlock_keeps {s0 : State} (s : State) (n slot blk : Nat) (hk : Keeps s0 s) : Keeps s0 (pinBlock s n slot blk) := by
  unfold pinBlock
  try dsimp only
  repeat' first
    | with_reducible assumption
    | with_reducible apply keeps_modBu
    | (intro _ hb; exact hb)

theorem unpinSlot_keeps {s0 : State} (s : State) (n slot : Nat) (hk : Keeps s0 s) : Keeps s0 (unpinSlot s n slot) := by
  unfold unpinSlot
  try dsimp only
  repeat' first
    | with_reducible assumption
    | with_reducible apply keeps_ite
    | with_reducible apply keeps_modBu
    | (intro _ hb; exact hb)

theorem enterBlock_keeps {s0 : State} (s : State) (n slot : Nat) (hk : Keeps s0 s) : Keeps s0 (enterBlock s n slot) := by
  unfold enterBlock
  try dsimp only
  repeat' first
    | with_reducible assumption
    | with_reducible apply State_raise_keeps
    | with_reducible apply pinBlock_keeps
    | with_reducible apply keeps_ite
    | with_reducible apply keeps_modCtx
    | with_reducible apply keeps_modBu
    | (intro _ hb; exact hb)
    | split

theorem State_freezeBu_keeps {s0 : State} (s : State) (n : Nat) (f : Freeze) (hk : Keeps s0 s) : Keeps s0 (State.freezeBu s n f) := by
  unfold State.freezeBu
  try dsimp only
  repeat' first
    | with_reducible assumption
    | with_reducible apply State_abortBlock_keeps
    | with_reducible apply keeps_ite
    | with_reducible apply keeps_modBu
    | (with_reducible refine keeps_foldl ?_ ?_)
    | (intro _ hb; exact hb)
    | (intro _ _ _; try dsimp only)

theorem State_thawBu_keeps {s0 : State} (s : State) (n : Nat) (f : Freeze) (hk : Keeps s0 s) : Keeps s0 (State.thawBu s n f) := by
  unfold State.thawBu
  try dsimp only
  repeat' first
    | with_reducible assumption
    | with_reducible apply keeps_modBu
    | (intro _ hb; exact hb)

theorem State_startWave_keeps {s0 : State} (s : State) (ns : List Nat) (f : Freeze) (hk : Keeps s0 s) : Keeps s0 (State.startWave s ns f) := by
  unfold State.startWave
  try dsimp only
  repeat' first
    | with_reducible assumption
    | with_reducible apply keeps_modBu
    | (with_reducible refine keeps_foldl ?_ ?_)
    | split
    | (intro _ _ _; try dsimp only)
    | (intro _ _; try dsimp only)

theorem callRollback_keeps {s0 : State} (s : State) (n rd : Nat) (hk : Keeps s0 s) : Keeps s0 (callRollback s n rd).2 := by
  unfold callRollback
  try dsimp only
  repeat' first
    | with_reducible assumption
    | with_reducible apply keeps_modRegion
    | (with_reducible refine Region.savedOk_same (by with_reducible assumption) (by with_unfolding_all rfl))
    | (with_reducible intro _; with_reducible intro (_ : Region.SavedOk _); try dsimp only)
    | split

theorem State_degrade_keeps {s0 : State} (s : State) (n c : Nat) (hk : Keeps s0 s) : Keeps s0 (State.degrade s n c) := by
  unfold State.degrade
  try dsimp only
  repeat' first
    | with_reducible assumption
    | with_reducible apply keeps_ite
    | with_reducible apply keeps_modBu
    | (intro _ hb; exact hb)
    | split
    | fail_if_no_progress with_reducible apply keeps_health

theorem State_countCorr_keeps {s0 : State} (s : State) (n : Nat) (byChan : List Nat) (hk : Keeps s0 s) : Keeps s0 (State.countCorr s n byChan) := by
  unfold State.countCorr
  try dsimp only
  repeat' first
    | with_reducible assumption
    | with_reducible apply State_degrade_keeps
    | with_reducible apply keeps_ite
    | with_reducible apply keeps_modBu
    | (with_reducible refine keeps_foldl ?_ ?_)
    | (intro _ hb; exact hb)
    | (intro _ _ _; try dsimp only)

end Sys2Proof.Machine
end

