-- ==== Sys2Proof/Laws/KeepsCommit.lean ====
section
/-!
SUPPORT. What the operations of Machine/Commit.lean keep.
-/
namespace Sys2Proof.Machine
open Sys2Proof.Safety

theorem State_modReq_keeps {s0 : State} (s : State) (id : Nat) (f : Req → Req) (hk : Keeps s0 s) : Keeps s0 (State.modReq s id f) := by
  unfold State.modReq
  try dsimp only
  repeat' first
    | with_reducible assumption
    | (with_reducible refine keeps_modHub_same ?_ (by rfl))

theorem State_dropReq_keeps {s0 : State} (s : State) (id : Nat) (hk : Keeps s0 s) : Keeps s0 (State.dropReq s id) := by
  unfold State.dropReq
  try dsimp only
  repeat' first
    | with_reducible assumption
    | (with_reducible refine keeps_modHub_same ?_ (by rfl))

theorem cutPending_keeps {s0 : State} (s : State) (n slot : Nat) (d : Dest) (hk : Keeps s0 s) : Keeps s0 (cutPending s n slot d) := by
  unfold cutPending
  try dsimp only
  repeat' first
    | with_reducible assumption
    | with_reducible apply State_modReq_keeps
    | split

theorem State_modRegs_keeps {s0 : State} (s : State) (n slot : Nat) (f : Regs → Regs) (hk : Keeps s0 s) : Keeps s0 (State.modRegs s n slot f) := by
  unfold State.modRegs
  try dsimp only
  repeat' first
    | with_reducible assumption
    | with_reducible apply keeps_modCtx

theorem noteIssued_keeps {s0 : State} (s : State) (n slot : Nat) (ids : List Nat) (hk : Keeps s0 s) : Keeps s0 (noteIssued s n slot ids) := by
  unfold noteIssued
  try dsimp only
  repeat' first
    | with_reducible assumption
    | with_reducible apply keeps_modCtx

theorem pushToken_keeps {s0 : State} (a : CAcc) (n slot q : Nat) (kind : TKind) (payload : Line) (last : Bool) (hk : Keeps s0 a.s) : Keeps s0 (pushToken a n slot q kind payload last) := by
  unfold pushToken
  try dsimp only
  repeat' first
    | with_reducible assumption
    | with_reducible apply sendAll_keeps
    | with_reducible apply noteIssued_keeps

theorem commitReq_keeps {s0 : State} (a : CAcc) (n slot rd : Nat) (q : Req) (hk : Keeps s0 a.s) : Keeps s0 (commitReq a n slot rd q).s := by
  unfold commitReq
  try dsimp only
  repeat' first
    | with_reducible assumption
    | with_reducible apply logItem_keeps
    | with_reducible apply cutPending_keeps
    | with_reducible apply State_modRegs_keeps
    | with_reducible apply noteIssued_keeps
    | with_reducible apply keeps_ite
    | with_reducible apply keeps_modCtx
    | (with_reducible refine keeps_modHub_same ?_ (by rfl))
    | with_reducible apply keeps_freshFor
    | with_reducible apply keeps_join
    | split

theorem commitPend_keeps {s0 : State} (s : State) (n slot id : Nat) (early : Bool) (hk : Keeps s0 s) : Keeps s0 (commitPend s n slot id early) := by
  unfold commitPend
  try dsimp only
  repeat' first
    | with_reducible assumption
    | with_reducible apply logReplay_keeps
    | with_reducible apply State_modReq_keeps
    | with_reducible apply State_dropReq_keeps
    | with_reducible apply cutPending_keeps
    | with_reducible apply State_modRegs_keeps
    | with_reducible apply noteIssued_keeps
    | with_reducible apply keeps_ite
    | split

theorem commitStore_keeps {s0 : State} (s : State) (n slot rd addr : Nat) (bytes : List Byte) (hk : Keeps s0 s) : Keeps s0 (commitStore s n slot rd addr bytes) := by
  unfold commitStore
  try dsimp only
  repeat' first
    | with_reducible assumption
    | with_reducible apply bankWrite_keeps
    | with_reducible apply keeps_ite
    | with_reducible apply keeps_modBu
    | (with_reducible refine keeps_foldl ?_ ?_)
    | (intro _ hb; exact hb)
    | (intro _ _ _; try dsimp only)

theorem ringPushOne_keeps {s0 : State} (s : State) (n k : Nat) (row : Line) (sb : Word) (hk : Keeps s0 s) : Keeps s0 (ringPushOne s n k row sb) := by
  unfold ringPushOne
  try dsimp only
  repeat' first
    | with_reducible assumption
    | with_reducible apply bankPut_keeps
    | with_reducible apply keeps_modBu
    | (intro _ hb; exact hb)

theorem commitToken_keeps {s0 : State} (a : CAcc) (n slot : Nat) (t : MxTok) (hk : Keeps s0 a.s) : Keeps s0 (commitToken a n slot t) := by
  unfold commitToken
  try dsimp only
  repeat' first
    | with_reducible assumption
    | with_reducible apply noteIssued_keeps
    | with_reducible apply keeps_ite
    | with_reducible apply keeps_modBu
    | with_reducible apply keeps_fresh
    | (intro _ hb; exact hb)

theorem commitFreeze_keeps {s0 : State} (s : State) (n : Nat) (rgn : Bool) (hk : Keeps s0 s) : Keeps s0 (commitFreeze s n rgn) := by
  unfold commitFreeze
  try dsimp only
  repeat' first
    | with_reducible assumption
    | with_reducible apply State_startWave_keeps
    | with_reducible apply keeps_ite
    | with_reducible apply keeps_modBu
    | split
    | (intro _ _; try dsimp only)

theorem commitThaw_keeps {s0 : State} (s : State) (n : Nat) (rgn : Bool) (hk : Keeps s0 s) : Keeps s0 (commitThaw s n rgn) := by
  unfold commitThaw
  try dsimp only
  repeat' first
    | with_reducible assumption
    | with_reducible apply State_thawBu_keeps
    | with_reducible apply keeps_ite
    | (with_reducible refine keeps_foldl ?_ ?_)
    | (intro _ _ _; try dsimp only)

theorem commitFence_keeps {s0 : State} (s : State) (n slot : Nat) (rel : Bool) (scope : Nat) (hk : Keeps s0 s) : Keeps s0 (commitFence s n slot rel scope) := by
  unfold commitFence
  try dsimp only
  repeat' first
    | with_reducible assumption
    | with_reducible apply keeps_ite
    | with_reducible apply keeps_modCtx

theorem commitEff_keeps {s0 : State} (n slot : Nat) (c0 : Ctx) (past0 : List Nat) (a : CAcc) (x : Nat × Nat × Eff) (hk : Keeps s0 a.s) : Keeps s0 (commitEff n slot c0 past0 a x).s := by
  unfold commitEff
  try dsimp only
  repeat' first
    | with_reducible assumption
    | with_reducible apply noteSeen_keeps
    | with_reducible apply State_post_keeps
    | with_reducible apply stepCopies_keeps
    | with_reducible apply openUpTo_keeps
    | with_reducible apply logItem_keeps
    | with_reducible apply sprWrite_keeps
    | with_reducible apply popTokens_keeps
    | with_reducible apply State_degrade_keeps
    | with_reducible apply State_countCorr_keeps
    | with_reducible apply cutPending_keeps
    | with_reducible apply State_modRegs_keeps
    | with_reducible apply pushToken_keeps
    | with_reducible apply commitReq_keeps
    | with_reducible apply commitPend_keeps
    | with_reducible apply commitStore_keeps
    | with_reducible apply ringPushOne_keeps
    | with_reducible apply commitToken_keeps
    | with_reducible apply commitFreeze_keeps
    | with_reducible apply commitThaw_keeps
    | with_reducible apply commitFence_keeps
    | with_reducible apply keeps_ite
    | with_reducible apply keeps_modCtx
    | with_reducible apply keeps_modBu
    | (with_reducible refine keeps_modHub_same ?_ (by rfl))
    | with_reducible apply keeps_fresh
    | (with_reducible refine keeps_foldl ?_ ?_)
    | (intro _ hb; exact hb)
    | split
    | (intro _ _ _; try dsimp only)

theorem commitEffs_keeps {s0 : State} {n slot : Nat} {c0 : Ctx} {past0 : List Nat} {l : List (Nat × Nat × Eff)} {a : CAcc}
    (h : Keeps s0 a.s) : Keeps s0 (l.foldl (commitEff n slot c0 past0) a).s := by
  induction l generalizing a with
  | nil => exact h
  | cons x rest ih => exact ih (commitEff_keeps n slot c0 past0 a x h)

theorem settleEnding_keeps {s0 : State} (s : State) (n slot : Nat) (hk : Keeps s0 s) : Keeps s0 (settleEnding s n slot) := by
  unfold settleEnding
  try dsimp only
  repeat' first
    | with_reducible assumption
    | with_reducible apply State_endInstance_keeps
    | with_reducible apply keeps_ite
    | with_reducible apply keeps_modCtx

theorem poisonFaulted_keeps {s0 : State} (s : State) (n slot block op : Nat) (hk : Keeps s0 s) : Keeps s0 (poisonFaulted s n slot block op) := by
  unfold poisonFaulted
  try dsimp only
  repeat' first
    | with_reducible assumption
    | with_reducible apply publishItem_keeps
    | with_reducible apply logItem_keeps
    | with_reducible apply popTokens_keeps
    | with_reducible apply pushToken_keeps
    | with_reducible apply keeps_ite
    | (with_reducible refine keeps_foldl ?_ ?_)
    | split
    | (intro _ _ _; try dsimp only)

theorem commitEret_keeps {s0 : State} (s : State) (n action : Nat) (hk : Keeps s0 s) : Keeps s0 (commitEret s n action) := by
  unfold commitEret
  try dsimp only
  repeat' first
    | with_reducible assumption
    | with_reducible apply State_endRun_keeps
    | with_reducible apply enterBlock_keeps
    | with_reducible apply poisonFaulted_keeps
    | with_reducible apply keeps_ite
    | split

theorem takeCkpts_keeps {s0 : State} (n slot : Nat) (first marks : Nat) (active : Bool) (s : State) (hk : Keeps s0 s) : Keeps s0 (takeCkpts n slot first marks active s) := by
  unfold takeCkpts
  try dsimp only
  repeat' first
    | with_reducible assumption
    | with_reducible apply keeps_ite
    | with_reducible apply keeps_modCtx

theorem commitBlock_keeps {s0 : State} (s : State) (n slot target : Nat) (hk : Keeps s0 s) : Keeps s0 (commitBlock s n slot target) := by
  unfold commitBlock
  try dsimp only
  repeat' first
    | with_reducible assumption
    | with_reducible apply makeNorep_keeps
    | with_reducible apply openUpTo_keeps
    | with_reducible apply unpinSlot_keeps
    | with_reducible apply enterBlock_keeps
    | with_reducible apply settleEnding_keeps
    | with_reducible apply commitEret_keeps
    | with_reducible apply takeCkpts_keeps
    | with_reducible apply commitEffs_keeps
    | with_reducible apply keeps_ite
    | with_reducible apply keeps_modCtx
    | with_reducible apply keeps_modBu
    | (with_reducible refine keeps_foldl ?_ ?_)
    | (intro _ hb; exact hb)
    | split
    | (intro _ _ _; try dsimp only)

theorem execBlockCommit_keeps {s0 : State} (s : State) (hk : Keeps s0 s) : KeepsOut s0 (execBlockCommit s) := by
  unfold execBlockCommit
  try dsimp only
  repeat' first
    | with_reducible assumption
    | with_reducible apply State_raise_keeps
    | with_reducible apply commitBlock_keeps
    | with_reducible apply keeps_ite
    | with_reducible apply keepsOut_nextState
    | split

end Sys2Proof.Machine
end

