-- ==== Sys2Proof/Laws/KeepsControl.lean ====
section
/-!
SUPPORT. What the operations of Machine/Control.lean keep.
-/
namespace Sys2Proof.Machine
open Sys2Proof.Safety

theorem runControl_keeps {s0 : State} (r : Row) (o : Op) (s : State) (fire : View → Srcs → Except Stop Blk) (hk : Keeps s0 s) : Keeps s0 (runControl r o s fire) := by
  unfold runControl
  try dsimp only
  repeat' first
    | with_reducible assumption
    | with_reducible apply stopOp_keeps
    | with_reducible apply mkView_keeps
    | with_reducible apply keeps_ite
    | with_reducible apply keeps_modCtx
    | split

theorem execExit_keeps {s0 : State} (o : Op) (s : State) (hk : Keeps s0 s) : KeepsOut s0 (execExit o s) := by
  unfold execExit
  try dsimp only
  repeat' first
    | with_reducible assumption
    | with_reducible apply runControl_keeps
    | with_reducible apply keepsOut_nextState

theorem execExitRegisterTarget_keeps {s0 : State} (o : Op) (s : State) (hk : Keeps s0 s) : KeepsOut s0 (execExitRegisterTarget o s) := by
  unfold execExitRegisterTarget
  try dsimp only
  repeat' first
    | with_reducible assumption
    | with_reducible apply runControl_keeps
    | with_reducible apply keepsOut_nextState

theorem execCall_keeps {s0 : State} (o : Op) (s : State) (hk : Keeps s0 s) : KeepsOut s0 (execCall o s) := by
  unfold execCall
  try dsimp only
  repeat' first
    | with_reducible assumption
    | with_reducible apply runControl_keeps
    | with_reducible apply keepsOut_nextState

theorem execCallRegisterTarget_keeps {s0 : State} (o : Op) (s : State) (hk : Keeps s0 s) : KeepsOut s0 (execCallRegisterTarget o s) := by
  unfold execCallRegisterTarget
  try dsimp only
  repeat' first
    | with_reducible assumption
    | with_reducible apply runControl_keeps
    | with_reducible apply keepsOut_nextState

theorem execRet_keeps {s0 : State} (o : Op) (s : State) (hk : Keeps s0 s) : KeepsOut s0 (execRet o s) := by
  unfold execRet
  try dsimp only
  repeat' first
    | with_reducible assumption
    | with_reducible apply runControl_keeps
    | with_reducible apply keepsOut_nextState

theorem execHalt_keeps {s0 : State} (o : Op) (s : State) (hk : Keeps s0 s) : KeepsOut s0 (execHalt o s) := by
  unfold execHalt
  try dsimp only
  repeat' first
    | with_reducible assumption
    | with_reducible apply runControl_keeps
    | with_reducible apply keepsOut_nextState

theorem execYield_keeps {s0 : State} (o : Op) (s : State) (hk : Keeps s0 s) : KeepsOut s0 (execYield o s) := by
  unfold execYield
  try dsimp only
  repeat' first
    | with_reducible assumption
    | with_reducible apply runControl_keeps
    | with_reducible apply keepsOut_nextState

theorem execTrap_keeps {s0 : State} (o : Op) (s : State) (hk : Keeps s0 s) : KeepsOut s0 (execTrap o s) := by
  unfold execTrap
  try dsimp only
  repeat' first
    | with_reducible assumption
    | with_reducible apply runControl_keeps
    | with_reducible apply keepsOut_nextState

theorem execBrk_keeps {s0 : State} (o : Op) (s : State) (hk : Keeps s0 s) : KeepsOut s0 (execBrk o s) := by
  unfold execBrk
  try dsimp only
  repeat' first
    | with_reducible assumption
    | with_reducible apply runControl_keeps
    | with_reducible apply keepsOut_nextState

theorem runEret_keeps {s0 : State} (r : Row) (action : Nat) (o : Op) (s : State) (hk : Keeps s0 s) : Keeps s0 (runEret r action o s) := by
  unfold runEret
  try dsimp only
  repeat' first
    | with_reducible assumption
    | with_reducible apply stopOp_keeps
    | with_reducible apply mkView_keeps
    | with_reducible apply keeps_ite
    | with_reducible apply keeps_modCtx
    | split

theorem execEretResume_keeps {s0 : State} (o : Op) (s : State) (hk : Keeps s0 s) : KeepsOut s0 (execEretResume o s) := by
  unfold execEretResume
  try dsimp only
  repeat' first
    | with_reducible assumption
    | with_reducible apply runEret_keeps
    | with_reducible apply keepsOut_nextState

theorem execEretPoison_keeps {s0 : State} (o : Op) (s : State) (hk : Keeps s0 s) : KeepsOut s0 (execEretPoison o s) := by
  unfold execEretPoison
  try dsimp only
  repeat' first
    | with_reducible assumption
    | with_reducible apply runEret_keeps
    | with_reducible apply keepsOut_nextState

theorem execEretEsc_keeps {s0 : State} (o : Op) (s : State) (hk : Keeps s0 s) : KeepsOut s0 (execEretEsc o s) := by
  unfold execEretEsc
  try dsimp only
  repeat' first
    | with_reducible assumption
    | with_reducible apply runEret_keeps
    | with_reducible apply keepsOut_nextState

theorem execNop_keeps {s0 : State} (s : State) (hk : Keeps s0 s) : KeepsOut s0 (execNop s) := by
  unfold execNop
  try dsimp only
  repeat' first
    | with_reducible assumption
    | with_reducible apply keeps_modCtx
    | with_reducible apply keepsOut_nextState

theorem execImm_keeps {s0 : State} (value : BitVec 32) (s : State) (hk : Keeps s0 s) : KeepsOut s0 (execImm value s) := by
  unfold execImm
  try dsimp only
  repeat' first
    | with_reducible assumption
    | with_reducible apply execNop_keeps

theorem execRep_keeps {s0 : State} (o : Op) (s : State) (hk : Keeps s0 s) : KeepsOut s0 (execRep o s) := by
  unfold execRep
  try dsimp only
  repeat' first
    | with_reducible assumption
    | with_reducible apply stopOp_keeps
    | with_reducible apply mkView_keeps
    | with_reducible apply keeps_ite
    | with_reducible apply keeps_modCtx
    | with_reducible apply keepsOut_nextState
    | split

end Sys2Proof.Machine
end

