-- ==== Sys2Proof/Laws/KeepsConvert.lean ====
section
/-!
SUPPORT. What the operations of Machine/Convert.lean keep.
-/
namespace Sys2Proof.Machine
open Sys2Proof.Safety

theorem execVcvt_keeps {s0 : State} (o : Op) (s : State) (hk : Keeps s0 s) : KeepsOut s0 (execVcvt o s) := by
  unfold execVcvt
  try dsimp only
  repeat' first
    | with_reducible assumption
    | with_reducible apply runVector_keeps
    | with_reducible apply keepsOut_nextState

theorem execVpack_keeps {s0 : State} (o : Op) (s : State) (hk : Keeps s0 s) : KeepsOut s0 (execVpack o s) := by
  unfold execVpack
  try dsimp only
  repeat' first
    | with_reducible assumption
    | with_reducible apply runVector_keeps
    | with_reducible apply keepsOut_nextState

theorem execVunpk_keeps {s0 : State} (o : Op) (s : State) (hk : Keeps s0 s) : KeepsOut s0 (execVunpk o s) := by
  unfold execVunpk
  try dsimp only
  repeat' first
    | with_reducible assumption
    | with_reducible apply runVector_keeps
    | with_reducible apply keepsOut_nextState

theorem execVrnd_keeps {s0 : State} (o : Op) (s : State) (hk : Keeps s0 s) : KeepsOut s0 (execVrnd o s) := by
  unfold execVrnd
  try dsimp only
  repeat' first
    | with_reducible assumption
    | with_reducible apply runVector_keeps
    | with_reducible apply keepsOut_nextState

theorem execVscl_keeps {s0 : State} (o : Op) (s : State) (hk : Keeps s0 s) : KeepsOut s0 (execVscl o s) := by
  unfold execVscl
  try dsimp only
  repeat' first
    | with_reducible assumption
    | with_reducible apply runVector_keeps
    | with_reducible apply keepsOut_nextState

theorem execVfclass_keeps {s0 : State} (o : Op) (s : State) (hk : Keeps s0 s) : KeepsOut s0 (execVfclass o s) := by
  unfold execVfclass
  try dsimp only
  repeat' first
    | with_reducible assumption
    | with_reducible apply runVector_keeps
    | with_reducible apply keepsOut_nextState

theorem execVqnt_keeps {s0 : State} (o : Op) (s : State) (hk : Keeps s0 s) : KeepsOut s0 (execVqnt o s) := by
  unfold execVqnt
  try dsimp only
  repeat' first
    | with_reducible assumption
    | with_reducible apply runVector_keeps
    | with_reducible apply keepsOut_nextState

theorem execVdqnt_keeps {s0 : State} (o : Op) (s : State) (hk : Keeps s0 s) : KeepsOut s0 (execVdqnt o s) := by
  unfold execVdqnt
  try dsimp only
  repeat' first
    | with_reducible assumption
    | with_reducible apply runVector_keeps
    | with_reducible apply keepsOut_nextState

theorem runSpecial_keeps {s0 : State} (r : Row) (f : Val → Exact) (o : Op) (s : State) (hk : Keeps s0 s) : Keeps s0 (runSpecial r f o s) := by
  unfold runSpecial
  try dsimp only
  repeat' first
    | with_reducible assumption
    | with_reducible apply runVector_keeps

theorem execVexp_keeps {s0 : State} (o : Op) (s : State) (hk : Keeps s0 s) : KeepsOut s0 (execVexp o s) := by
  unfold execVexp
  try dsimp only
  repeat' first
    | with_reducible assumption
    | with_reducible apply runVector_keeps
    | with_reducible apply keepsOut_nextState

theorem execVexp2_keeps {s0 : State} (o : Op) (s : State) (hk : Keeps s0 s) : KeepsOut s0 (execVexp2 o s) := by
  unfold execVexp2
  try dsimp only
  repeat' first
    | with_reducible assumption
    | with_reducible apply runVector_keeps
    | with_reducible apply keepsOut_nextState

theorem execVlog2_keeps {s0 : State} (o : Op) (s : State) (hk : Keeps s0 s) : KeepsOut s0 (execVlog2 o s) := by
  unfold execVlog2
  try dsimp only
  repeat' first
    | with_reducible assumption
    | with_reducible apply runSpecial_keeps
    | with_reducible apply keepsOut_nextState

theorem execVrcp_keeps {s0 : State} (o : Op) (s : State) (hk : Keeps s0 s) : KeepsOut s0 (execVrcp o s) := by
  unfold execVrcp
  try dsimp only
  repeat' first
    | with_reducible assumption
    | with_reducible apply runSpecial_keeps
    | with_reducible apply keepsOut_nextState

theorem execVrsq_keeps {s0 : State} (o : Op) (s : State) (hk : Keeps s0 s) : KeepsOut s0 (execVrsq o s) := by
  unfold execVrsq
  try dsimp only
  repeat' first
    | with_reducible assumption
    | with_reducible apply runSpecial_keeps
    | with_reducible apply keepsOut_nextState

theorem execVsqrt_keeps {s0 : State} (o : Op) (s : State) (hk : Keeps s0 s) : KeepsOut s0 (execVsqrt o s) := by
  unfold execVsqrt
  try dsimp only
  repeat' first
    | with_reducible assumption
    | with_reducible apply runSpecial_keeps
    | with_reducible apply keepsOut_nextState

theorem execVtanh_keeps {s0 : State} (o : Op) (s : State) (hk : Keeps s0 s) : KeepsOut s0 (execVtanh o s) := by
  unfold execVtanh
  try dsimp only
  repeat' first
    | with_reducible assumption
    | with_reducible apply runSpecial_keeps
    | with_reducible apply keepsOut_nextState

theorem execVrnsFwd_keeps {s0 : State} (o : Op) (s : State) (hk : Keeps s0 s) : KeepsOut s0 (execVrnsFwd o s) := by
  unfold execVrnsFwd
  try dsimp only
  repeat' first
    | with_reducible assumption
    | with_reducible apply runVector_keeps
    | with_reducible apply keepsOut_nextState

theorem execVrnsRev_keeps {s0 : State} (o : Op) (s : State) (hk : Keeps s0 s) : KeepsOut s0 (execVrnsRev o s) := by
  unfold execVrnsRev
  try dsimp only
  repeat' first
    | with_reducible assumption
    | with_reducible apply runVector_keeps
    | with_reducible apply keepsOut_nextState

theorem execVrnsChk_keeps {s0 : State} (o : Op) (s : State) (hk : Keeps s0 s) : KeepsOut s0 (execVrnsChk o s) := by
  unfold execVrnsChk
  try dsimp only
  repeat' first
    | with_reducible assumption
    | with_reducible apply runVector_keeps
    | with_reducible apply keepsOut_nextState

end Sys2Proof.Machine
end

