-- ==== Sys2Proof/Laws/KeepsFetch.lean ====
section
/-!
SUPPORT. What the operations of Machine/Fetch.lean keep.
-/
namespace Sys2Proof.Machine
open Sys2Proof.Safety

theorem State_atCursor_keeps {s0 : State} (s : State) (c : Cursor) (rest : List Cursor) (hk : Keeps s0 s) : Keeps s0 (State.atCursor s c rest) := by
  unfold State.atCursor
  try dsimp only
  repeat' first
    | with_reducible assumption
    | fail_if_no_progress with_reducible apply keeps_my

theorem State_hostStore_keeps {s0 : State} (s : State) (a n v : Nat) (hk : Keeps s0 s) : Keeps s0 (State.hostStore s a n v) := by
  unfold State.hostStore
  try dsimp only
  repeat' first
    | with_reducible assumption
    | with_reducible apply writeNow_keeps

theorem State_cmdDone_keeps {s0 : State} (s : State) (hk : Keeps s0 s) : Keeps s0 (State.cmdDone s) := by
  unfold State.cmdDone
  try dsimp only
  repeat' first
    | with_reducible assumption
    | with_reducible apply State_hostStore_keeps
    | fail_if_no_progress with_reducible apply keeps_cmd

theorem State_cmdWaits_keeps {s0 : State} (s : State) (hk : Keeps s0 s) : Keeps s0 (State.cmdWaits s) := by
  unfold State.cmdWaits
  try dsimp only
  repeat' first
    | with_reducible assumption
    | fail_if_no_progress with_reducible apply keeps_cmd

theorem State_answerHost_keeps {s0 : State} (s : State) (reply v : Nat) (hk : Keeps s0 s) : Keeps s0 (State.answerHost s reply v) := by
  unfold State.answerHost
  try dsimp only
  repeat' first
    | with_reducible assumption
    | with_reducible apply State_hostStore_keeps
    | with_reducible apply keeps_ite

theorem State_complete_keeps {s0 : State} (s : State) (code : Nat) (reply : Nat) (st : CmdStatus) (result result2 : Nat) (hk : Keeps s0 s) : Keeps s0 (State.complete s code reply st result result2) := by
  unfold State.complete
  try dsimp only
  repeat' first
    | with_reducible assumption
    | with_reducible apply State_cmdDone_keeps
    | with_reducible apply State_answerHost_keeps

theorem State_rejectCommand_keeps {s0 : State} (s : State) (e : CmdError) (hk : Keeps s0 s) : Keeps s0 (State.rejectCommand s e) := by
  unfold State.rejectCommand
  try dsimp only
  repeat' first
    | with_reducible assumption
    | with_reducible apply State_complete_keeps

end Sys2Proof.Machine
end

