-- ==== Sys2Proof/Laws/KeepsIssue.lean ====
section
/-!
SUPPORT. What the operations of Machine/Issue.lean keep.
-/
namespace Sys2Proof.Machine
open Sys2Proof.Safety

theorem tickBu_keeps {s0 : State} (s : State) (n : Nat) (hk : Keeps s0 s) : Keeps s0 (tickBu s n) := by
  unfold tickBu
  try dsimp only
  repeat' first
    | with_reducible assumption
    | with_reducible apply keeps_modBu
    | (intro _ hb; exact hb)

theorem applyAdj_keeps {s0 : State} (s : State) (n slot : Nat) (sum : Int) (hk : Keeps s0 s) : Keeps s0 (applyAdj s n slot sum) := by
  unfold applyAdj
  try dsimp only
  repeat' first
    | with_reducible assumption
    | with_reducible apply keeps_modCtx

theorem takeAdjs_keeps {s0 : State} (n : Nat) (l : List Adj) (s : State) (slot : Nat) (hk : Keeps s0 s) : Keeps s0 (takeAdjs n l s slot) := by
  unfold takeAdjs
  try dsimp only
  repeat' first
    | with_reducible assumption
    | with_reducible apply sendCtl_keeps
    | with_reducible apply applyAdj_keeps
    | with_reducible apply keeps_ite
    | (with_reducible refine keeps_foldl ?_ ?_)
    | (intro _ _ _; try dsimp only)

theorem endCycle_keeps {s0 : State} (s : State) (n : Nat) (hk : Keeps s0 s) : Keeps s0 (endCycle s n) := by
  unfold endCycle
  try dsimp only
  repeat' first
    | with_reducible assumption
    | with_reducible apply takeAdjs_keeps
    | with_reducible apply keeps_modBu
    | (with_reducible refine keeps_foldl ?_ ?_)
    | (intro _ hb; exact hb)

theorem countIdle_keeps {s0 : State} (s : State) (n : Nat) (fired : Bool) (hk : Keeps s0 s) : Keeps s0 (countIdle s n fired) := by
  unfold countIdle
  try dsimp only
  repeat' first
    | with_reducible assumption
    | with_reducible apply keeps_ite
    | with_reducible apply keeps_modRegion
    | (with_reducible refine Region.savedOk_same (by with_reducible assumption) (by with_unfolding_all rfl))
    | (with_reducible intro _; with_reducible intro (_ : Region.SavedOk _); try dsimp only)
    | split

theorem issueOps_keeps {s0 : State} (s : State) (n slot : Nat) (cs : List Cursor) (hk : Keeps s0 s) : Keeps s0 (issueOps s n slot cs) := by
  unfold issueOps
  try dsimp only
  repeat' first
    | with_reducible assumption
    | with_reducible apply keeps_modCtx
    | with_reducible apply keeps_modBu
    | (intro _ hb; exact hb)
    | fail_if_no_progress with_reducible apply keeps_my

theorem arithCheck_keeps {s0 : State} (s : State) (n slot : Nat) (c : Cursor) (hk : Keeps s0 s) : Keeps s0 (arithCheck s n slot c) := by
  unfold arithCheck
  try dsimp only
  repeat' first
    | with_reducible assumption
    | with_reducible apply State_faultCtx_keeps
    | with_reducible apply State_faultH_keeps
    | with_reducible apply callRollback_keeps
    | with_reducible apply keeps_ite

theorem postCtxChk_keeps {s0 : State} (s : State) (n slot route : Nat) (hk : Keeps s0 s) : Keeps s0 (postCtxChk s n slot route) := by
  unfold postCtxChk
  try dsimp only
  repeat' first
    | with_reducible assumption
    | with_reducible apply State_post_keeps

theorem tokenCheckPop_keeps {s0 : State} (s : State) (n slot : Nat) (p : Nat × Nat) (hk : Keeps s0 s) : Keeps s0 (tokenCheckPop s n slot p) := by
  unfold tokenCheckPop
  try dsimp only
  repeat' first
    | with_reducible assumption
    | with_reducible apply callRollback_keeps
    | with_reducible apply postCtxChk_keeps
    | with_reducible apply keeps_ite
    | with_reducible apply keeps_modBu
    | (intro _ hb; exact hb)

theorem refetchBad_keeps {s0 : State} (s : State) (n slot : Nat) (hk : Keeps s0 s) : KeepsOpt s0 (refetchBad s n slot) := by
  unfold refetchBad
  try dsimp only
  repeat' first
    | with_reducible assumption
    | with_reducible apply enterBlock_keeps
    | with_reducible apply keeps_modBu
    | with_reducible apply keepsOpt_none
    | with_reducible apply keepsOpt_some
    | (intro _ hb; exact hb)
    | split

theorem issueSlot_keeps {s0 : State} (s : State) (n slot : Nat) (cs : List Cursor) (hk : Keeps s0 s) : Keeps s0 (issueSlot s n slot cs) := by
  unfold issueSlot
  try dsimp only
  repeat' first
    | with_reducible assumption
    | with_reducible apply issueOps_keeps
    | with_reducible apply arithCheck_keeps
    | with_reducible apply tokenCheckPop_keeps
    | split

theorem findSome_keeps {α : Type} {s0 t : State} {f : α → Option State} {l : List α} (e : l.findSome? f = some t)
    (h : ∀ x, KeepsOpt s0 (f x)) : Keeps s0 t := by
  obtain ⟨_, x, _, _, hx, _⟩ := List.findSome?_eq_some_iff.1 e
  exact (h x).keeps t hx

theorem execIssueCycle_keeps {s0 : State} (s : State) (h : Keeps s0 s) : KeepsOut s0 (execIssueCycle s) := by
  unfold execIssueCycle
  try dsimp only
  apply keepsOut_nextState
  split
  · exact h
  split
  · rename_i t e
    exact findSome_keeps e (fun k => refetchBad_keeps s s.my.arg.n k h)
  repeat' first
    | with_reducible assumption
    | with_reducible apply tickBu_keeps
    | with_reducible apply endCycle_keeps
    | with_reducible apply countIdle_keeps
    | with_reducible apply issueSlot_keeps
    | with_reducible apply keeps_ite
    | with_reducible apply keeps_modCtx
    | with_reducible apply keeps_modBu
    | (intro _ hb; exact hb)
    | split

theorem fetchBlock_keeps {s0 : State} (s : State) (n slot : Nat) (b : Block) (hk : Keeps s0 s) : Keeps s0 (fetchBlock s n slot b) := by
  unfold fetchBlock
  try dsimp only
  repeat' first
    | with_reducible assumption
    | with_reducible apply keeps_modBu
    | (intro _ hb; exact hb)

theorem execBlockFetchComplete_keeps {s0 : State} (s : State) (hk : Keeps s0 s) : KeepsOut s0 (execBlockFetchComplete s) := by
  unfold execBlockFetchComplete
  try dsimp only
  repeat' first
    | with_reducible assumption
    | with_reducible apply State_raise_keeps
    | with_reducible apply fetchBlock_keeps
    | with_reducible apply keeps_ite
    | with_reducible apply keeps_modCtx
    | with_reducible apply keeps_modBu
    | with_reducible apply keepsOut_nextState
    | (intro _ hb; exact hb)
    | split

theorem execHandlerRunStart_keeps {s0 : State} (s : State) (hk : Keeps s0 s) : KeepsOut s0 (execHandlerRunStart s) := by
  unfold execHandlerRunStart
  try dsimp only
  repeat' first
    | with_reducible assumption
    | with_reducible apply enterBlock_keeps
    | with_reducible apply keeps_ite
    | with_reducible apply keeps_modCtx
    | with_reducible apply keeps_modBu
    | with_reducible apply keepsOut_nextState
    | (intro _ hb; exact hb)
    | split

end Sys2Proof.Machine
end

