-- ==== Sys2Proof/Laws/KeepsNetwork.lean ====
section
/-!
SUPPORT. What the operations of Machine/Network.lean keep.
-/
namespace Sys2Proof.Machine
open Sys2Proof.Safety

theorem execBoundaryGrant_keeps {s0 : State} (s : State) (hk : Keeps s0 s) : KeepsOut s0 (execBoundaryGrant s) := by
  unfold execBoundaryGrant
  try dsimp only
  repeat' first
    | with_reducible assumption
    | with_reducible apply State_modNet_keeps
    | with_reducible apply keeps_ite
    | with_reducible apply keepsOut_nextState

theorem deliver_keeps {s0 : State} (s : State) (f : Flit) (hk : Keeps s0 s) : Keeps s0 (deliver s f) := by
  unfold deliver
  try dsimp only
  repeat' first
    | with_reducible assumption
    | with_reducible apply keeps_modBu
    | (intro _ hb; exact hb)
    | split

theorem postTokenChk_keeps {s0 : State} (s : State) (f : Flit) (hk : Keeps s0 s) : Keeps s0 (postTokenChk s f) := by
  unfold postTokenChk
  try dsimp only
  repeat' first
    | with_reducible assumption
    | with_reducible apply State_post_keeps
    | with_reducible apply postCtxChk_keeps
    | split

theorem execTokenHop_keeps {s0 : State} (s : State) (hk : Keeps s0 s) : KeepsOut s0 (execTokenHop s) := by
  unfold execTokenHop
  try dsimp only
  repeat' first
    | with_reducible assumption
    | with_reducible apply State_modNet_keeps
    | with_reducible apply callRollback_keeps
    | with_reducible apply deliver_keeps
    | with_reducible apply postTokenChk_keeps
    | with_reducible apply keeps_ite
    | with_reducible apply keepsOut_nextState
    | split

theorem takeCtl_keeps {s0 : State} (s : State) (f : CtlFlit) (hk : Keeps s0 s) : KeepsOpt s0 (takeCtl s f) := by
  unfold takeCtl
  try dsimp only
  repeat' first
    | with_reducible assumption
    | with_reducible apply State_modNet_keeps
    | with_reducible apply keepsOpt_none
    | with_reducible apply keepsOpt_some
    | split

theorem execCreditFlitArrival_keeps {s0 : State} (s : State) (hk : Keeps s0 s) : KeepsOut s0 (execCreditFlitArrival s) := by
  unfold execCreditFlitArrival
  try dsimp only
  repeat' first
    | with_reducible assumption
    | with_reducible apply takeCtl_keeps
    | with_reducible apply keeps_modBu
    | with_reducible apply keepsOut_nextState
    | (with_reducible refine keeps_of_opt (by with_reducible assumption) ?_)
    | (intro _ hb; exact hb)
    | split

theorem execRateFlitArrival_keeps {s0 : State} (s : State) (hk : Keeps s0 s) : KeepsOut s0 (execRateFlitArrival s) := by
  unfold execRateFlitArrival
  try dsimp only
  repeat' first
    | with_reducible assumption
    | with_reducible apply takeCtl_keeps
    | with_reducible apply keeps_modBu
    | with_reducible apply keepsOut_nextState
    | (with_reducible refine keeps_of_opt (by with_reducible assumption) ?_)
    | (intro _ hb; exact hb)
    | split

theorem execStatusFlitArrival_keeps {s0 : State} (s : State) (hk : Keeps s0 s) : KeepsOut s0 (execStatusFlitArrival s) := by
  unfold execStatusFlitArrival
  try dsimp only
  repeat' first
    | with_reducible assumption
    | with_reducible apply takeCtl_keeps
    | with_reducible apply keeps_modBu
    | with_reducible apply keepsOut_nextState
    | (with_reducible refine keeps_of_opt (by with_reducible assumption) ?_)
    | (intro _ hb; exact hb)
    | split

theorem sendAdj_keeps {s0 : State} (s : State) (n k m slot : Nat) (adj : Int) (hk : Keeps s0 s) : Keeps s0 (sendAdj s n k m slot adj) := by
  unfold sendAdj
  try dsimp only
  repeat' first
    | with_reducible assumption
    | with_reducible apply sendCtl_keeps
    | with_reducible apply keeps_ite
    | with_reducible apply keeps_modBu
    | (intro _ hb; exact hb)

theorem execRateStep_keeps {s0 : State} (s : State) (hk : Keeps s0 s) : KeepsOut s0 (execRateStep s) := by
  unfold execRateStep
  try dsimp only
  repeat' first
    | with_reducible assumption
    | with_reducible apply sendAdj_keeps
    | with_reducible apply keeps_ite
    | with_reducible apply keeps_modBu
    | with_reducible apply keepsOut_nextState
    | (intro _ hb; exact hb)
    | split

theorem fireOper_keeps {s0 : State} (s : State) (n entry : Nat) (e : OperEnt) (o : Oper) (f : Firing) (hk : Keeps s0 s) : Keeps s0 (fireOper s n entry e o f) := by
  unfold fireOper
  try dsimp only
  repeat' first
    | with_reducible assumption
    | with_reducible apply sendAll_keeps
    | with_reducible apply returnCredits_keeps
    | with_reducible apply keeps_ite
    | with_reducible apply keeps_modBu
    | with_reducible apply keeps_modRegion
    | (with_reducible refine keeps_foldl ?_ ?_)
    | (with_reducible refine Region.savedOk_same (by with_reducible assumption) (by with_unfolding_all rfl))
    | (with_reducible intro _; with_reducible intro (_ : Region.SavedOk _); try dsimp only)
    | (intro _ hb; exact hb)
    | split
    | (intro _ _ _; try dsimp only)

theorem runOper_keeps {s0 : State} (s : State) (fire : OperEnt → Oper → Option Firing) (hk : Keeps s0 s) : Keeps s0 (runOper s fire) := by
  unfold runOper
  try dsimp only
  repeat' first
    | with_reducible assumption
    | with_reducible apply fireOper_keeps
    | with_reducible apply keeps_ite
    | split

theorem runKind_keeps {s0 : State} (s : State) (op : Nat) (fire : OperEnt → Oper → Option Firing) (hk : Keeps s0 s) : Keeps s0 (runKind s op fire) := by
  unfold runKind
  try dsimp only
  repeat' first
    | with_reducible assumption
    | with_reducible apply runOper_keeps

theorem execPassFiring_keeps {s0 : State} (s : State) (hk : Keeps s0 s) : KeepsOut s0 (execPassFiring s) := by
  unfold execPassFiring
  try dsimp only
  repeat' first
    | with_reducible assumption
    | with_reducible apply runKind_keeps
    | with_reducible apply keepsOut_nextState

theorem execForkFiring_keeps {s0 : State} (s : State) (hk : Keeps s0 s) : KeepsOut s0 (execForkFiring s) := by
  unfold execForkFiring
  try dsimp only
  repeat' first
    | with_reducible assumption
    | with_reducible apply runKind_keeps
    | with_reducible apply keepsOut_nextState

theorem execSteerFiring_keeps {s0 : State} (s : State) (hk : Keeps s0 s) : KeepsOut s0 (execSteerFiring s) := by
  unfold execSteerFiring
  try dsimp only
  repeat' first
    | with_reducible assumption
    | with_reducible apply runKind_keeps
    | with_reducible apply keepsOut_nextState

theorem execMergeFiring_keeps {s0 : State} (s : State) (hk : Keeps s0 s) : KeepsOut s0 (execMergeFiring s) := by
  unfold execMergeFiring
  try dsimp only
  repeat' first
    | with_reducible assumption
    | with_reducible apply runKind_keeps
    | with_reducible apply keepsOut_nextState

theorem execCarryFiring_keeps {s0 : State} (s : State) (hk : Keeps s0 s) : KeepsOut s0 (execCarryFiring s) := by
  unfold execCarryFiring
  try dsimp only
  repeat' first
    | with_reducible assumption
    | with_reducible apply runKind_keeps
    | with_reducible apply keepsOut_nextState

theorem execInvariantFiring_keeps {s0 : State} (s : State) (hk : Keeps s0 s) : KeepsOut s0 (execInvariantFiring s) := by
  unfold execInvariantFiring
  try dsimp only
  repeat' first
    | with_reducible assumption
    | with_reducible apply runKind_keeps
    | with_reducible apply keepsOut_nextState

theorem execDropFiring_keeps {s0 : State} (s : State) (hk : Keeps s0 s) : KeepsOut s0 (execDropFiring s) := by
  unfold execDropFiring
  try dsimp only
  repeat' first
    | with_reducible assumption
    | with_reducible apply runKind_keeps
    | with_reducible apply keepsOut_nextState

theorem execMarkerFiring_keeps {s0 : State} (s : State) (hk : Keeps s0 s) : KeepsOut s0 (execMarkerFiring s) := by
  unfold execMarkerFiring
  try dsimp only
  repeat' first
    | with_reducible assumption
    | with_reducible apply runOper_keeps
    | with_reducible apply keepsOut_nextState

theorem execPoisonControlFiring_keeps {s0 : State} (s : State) (hk : Keeps s0 s) : KeepsOut s0 (execPoisonControlFiring s) := by
  unfold execPoisonControlFiring
  try dsimp only
  repeat' first
    | with_reducible assumption
    | with_reducible apply runOper_keeps
    | with_reducible apply keepsOut_nextState

end Sys2Proof.Machine
end

