-- ==== Sys2Proof/Laws/KeepsTranslate.lean ====
section
/-!
SUPPORT. What the operations of Machine/Translate.lean keep.
-/
namespace Sys2Proof.Machine
open Sys2Proof.Safety

theorem State_walked_keeps {s0 : State} (s : State) (die job va : Nat) (hk : Keeps s0 s) : Keeps s0 (State.walked s die job va) := by
  unfold State.walked
  try dsimp only
  repeat' first
    | with_reducible assumption
    | split
    | fail_if_no_progress (with_reducible refine keeps_hubMy ?_ (by rfl))

theorem readPlaces_keeps {s0 : State} (s : State) (p : Party) (ps : List (Nat × Nat × Nat)) (hk : Keeps s0 s) : Keeps s0 (readPlaces s p ps).2 := by
  unfold readPlaces
  try dsimp only
  repeat' first
    | with_reducible assumption
    | with_reducible apply readMem_keeps
    | (with_reducible refine keeps_foldl_snd ?_ ?_)
    | (intro _ _ _; try dsimp only)

theorem readVa_keeps {s0 : State} (s : State) (job : Nat) (p : Party) (va len : Nat) (hk : Keeps s0 s) : KeepsExcP s0 (readVa s job p va len) := by
  unfold readVa
  try dsimp only
  repeat' first
    | with_reducible assumption
    | with_reducible apply readPlaces_keeps
    | with_reducible apply keepsExcP_error
    | with_reducible apply keepsExcP_ok
    | split

theorem writeVa_keeps {s0 : State} (s : State) (job : Nat) (p : Party) (va : Nat) (bytes : List Byte) (hk : Keeps s0 s) : KeepsExc s0 (writeVa s job p va bytes) := by
  unfold writeVa
  try dsimp only
  repeat' first
    | with_reducible assumption
    | with_reducible apply writeNow_keeps
    | (with_reducible refine keeps_foldl ?_ ?_)
    | with_reducible apply keepsExc_error
    | with_reducible apply keepsExc_ok
    | split
    | (intro _ _ _; try dsimp only)

theorem State_modStrm_keeps {s0 : State} (s : State) (n k : Nat) (f : Strm → Strm) (hk : Keeps s0 s) : Keeps s0 (State.modStrm s n k f) := by
  unfold State.modStrm
  try dsimp only
  repeat' first
    | with_reducible assumption
    | with_reducible apply keeps_modBu
    | (intro _ hb; exact hb)

theorem refill_keeps {s0 : State} (s : State) (n k job va handle : Nat) (hk : Keeps s0 s) : Keeps s0 (refill s n k job va handle).2 := by
  unfold refill
  try dsimp only
  repeat' first
    | with_reducible assumption
    | with_reducible apply State_walked_keeps
    | with_reducible apply State_modStrm_keeps
    | split

theorem strmAccess_keeps {s0 : State} (s : State) (n k job va handle : Nat) (write : Bool) (hk : Keeps s0 s) : Keeps s0 (strmAccess s n k job va handle write).2 := by
  unfold strmAccess
  try dsimp only
  repeat' first
    | with_reducible assumption
    | with_reducible apply refill_keeps
    | (with_reducible refine keeps_of_pair (by with_reducible assumption) ?_)
    | split

theorem dropTrans_keeps {s0 : State} (s : State) (hit : Trans → Bool) (h : Keeps s0 s) : Keeps s0 (dropTrans s hit) := by
  refine keeps_mapBus (s := s.modHub _) (g := Bu.dropTrans hit) (keeps_modHub h ?_) (fun b hb => hb)
  intro e he v hv b hb
  obtain ⟨x, hx, rfl⟩ := List.mem_map.1 he
  obtain ⟨w, hw, rfl⟩ := Option.map_eq_some_iff.1 hv
  obtain ⟨c, hc, rfl⟩ := List.mem_map.1 hb
  exact h.savedOk x hx w hw c hc

theorem dropWalks_keeps {s0 : State} (s : State) (hit : WalkEnt → Bool) (hk : Keeps s0 s) : Keeps s0 (dropWalks s hit) := by
  unfold dropWalks
  try dsimp only
  repeat' first
    | with_reducible assumption
    | (with_reducible refine keeps_modHub_same ?_ (by rfl))

theorem execDyingPageFree_keeps {s0 : State} (s : State) (hk : Keeps s0 s) : KeepsOut s0 (execDyingPageFree s) := by
  unfold execDyingPageFree
  try dsimp only
  repeat' first
    | with_reducible assumption
    | with_reducible apply keeps_ite
    | (with_reducible refine keeps_modHub_same ?_ (by rfl))
    | with_reducible apply keepsOut_nextState
    | split

end Sys2Proof.Machine
end

