-- ==== Sys2Proof/Laws/KeepsHandles.lean ====
section
/-!
SUPPORT. What the operations of Machine/Handles.lean keep.
-/
namespace Sys2Proof.Machine
open Sys2Proof.Safety

theorem window_le {o : Outside} (h : o.WindowsLegal) (n : Nat) : o.window n ≤ 32 := by
  unfold Outside.window mapGetD
  cases hg : mapGet n o.peerWindows with
  | none => exact Nat.le_refl 32
  | some w => exact h _ (mapGet_mem hg)

theorem keeps_window {s0 s : State} {n : Nat} (h : Keeps s0 s) :
    Keeps s0 { s with out := { s.out with peerWindows := mapSet n (s.out.window n - 1) s.out.peerWindows } } := by
  refine ⟨h.out, fun hw => ?_, h.wf.mem, h.wf.base, h.wf.banks, h.wf.saved⟩
  intro e he
  rcases mem_mapSet he with he | he
  · subst he; exact Nat.le_trans (Nat.sub_le _ _) (window_le (h.windows hw) n)
  · exact h.windows hw e he


theorem State_modHq_keeps {s0 : State} (s : State) (k : Nat × Nat) (f : HandleQ → HandleQ) (hk : Keeps s0 s) : Keeps s0 (State.modHq s k f) := by
  unfold State.modHq
  try dsimp only
  repeat' first
    | with_reducible assumption
    | (with_reducible refine keeps_modHub_same ?_ (by rfl))

theorem wakeWaits_keeps {s0 : State} (s : State) (k : Nat × Nat) (e : HEnt) (hk : Keeps s0 s) : Keeps s0 (wakeWaits s k e) := by
  unfold wakeWaits
  try dsimp only
  repeat' first
    | with_reducible assumption
    | (with_reducible refine keeps_modHub_same ?_ (by rfl))

theorem State_putHent_keeps {s0 : State} (s : State) (job h : Nat) (e : HEnt) (rel : Option (Party × Nat × List Nat)) (hk : Keeps s0 s) : Keeps s0 (State.putHent s job h e rel) := by
  unfold State.putHent
  try dsimp only
  repeat' first
    | with_reducible assumption
    | with_reducible apply writeNow_keeps
    | with_reducible apply State_modHq_keeps
    | with_reducible apply wakeWaits_keeps
    | with_reducible apply keeps_ite
    | (with_reducible refine keeps_modHub_same ?_ (by rfl))
    | split

theorem State_setShadow_keeps {s0 : State} (s : State) (job slot : Nat) (v : Bool × Nat) (hk : Keeps s0 s) : Keeps s0 (State.setShadow s job slot v) := by
  unfold State.setShadow
  try dsimp only
  repeat' first
    | with_reducible assumption
    | (with_reducible refine keeps_modHub_same ?_ (by rfl))

theorem startRole_keeps {s0 : State} (s : State) (job h role : Nat) (e : HEnt) (hk : Keeps s0 s) : Keeps s0 (startRole s job h role e) := by
  unfold startRole
  try dsimp only
  repeat' first
    | with_reducible assumption
    | with_reducible apply State_putHent_keeps
    | with_reducible apply State_setShadow_keeps
    | split

theorem endRole_keeps {s0 : State} (s : State) (job h role : Nat) (fin consume : Bool) (hk : Keeps s0 s) : Keeps s0 (endRole s job h role fin consume) := by
  unfold endRole
  try dsimp only
  repeat' first
    | with_reducible assumption
    | with_reducible apply State_putHent_keeps
    | with_reducible apply State_setShadow_keeps
    | with_reducible apply keeps_ite
    | split

theorem takePlace_keeps {s0 : State} (s : State) (k : Nat × Nat) (id : Nat) (hk : Keeps s0 s) : Keeps s0 (takePlace s k id) := by
  unfold takePlace
  try dsimp only
  repeat' first
    | with_reducible assumption
    | with_reducible apply State_modHq_keeps
    | with_reducible apply keeps_ite

theorem leavePlace_keeps {s0 : State} (s : State) (k : Nat × Nat) (id : Nat) (hk : Keeps s0 s) : Keeps s0 (leavePlace s k id) := by
  unfold leavePlace
  try dsimp only
  repeat' first
    | with_reducible assumption
    | with_reducible apply State_modHq_keeps

theorem State_reply_keeps {s0 : State} (s : State) (id val : Nat) (hk : Keeps s0 s) : Keeps s0 (State.reply s id val) := by
  unfold State.reply
  try dsimp only
  repeat' first
    | with_reducible assumption
    | (with_reducible refine keeps_modHub_same ?_ (by rfl))

theorem State_failReq_keeps {s0 : State} (s : State) (id : Nat) (c : Code) (address extra : Nat) (hk : Keeps s0 s) : Keeps s0 (State.failReq s id c address extra) := by
  unfold State.failReq
  try dsimp only
  repeat' first
    | with_reducible assumption
    | (with_reducible refine keeps_modHub_same ?_ (by rfl))

theorem State_sendPeer_keeps {s0 : State} (s : State) (module : Nat) (hk : Keeps s0 s) : Keeps s0 (State.sendPeer s module) := by
  unfold State.sendPeer
  try dsimp only
  repeat' first
    | with_reducible assumption
    | split
    | with_reducible apply keeps_window

theorem State_reach_keeps {s0 : State} (s : State) (key : Nat) (hk : Keeps s0 s) : Keeps s0 (State.reach s key) := by
  unfold State.reach
  try dsimp only
  repeat' first
    | with_reducible assumption
    | with_reducible apply State_sendPeer_keeps
    | split

theorem serveAlloc_keeps {s0 : State} (s : State) (q : Req) (hk : Keeps s0 s) : Keeps s0 (serveAlloc s q) := by
  unfold serveAlloc
  try dsimp only
  repeat' first
    | with_reducible assumption
    | with_reducible apply State_putHent_keeps
    | with_reducible apply State_setShadow_keeps
    | with_reducible apply State_reply_keeps
    | with_reducible apply State_failReq_keeps
    | with_reducible apply keeps_ite
    | split

theorem failWaits_keeps {s0 : State} (s : State) (k : Nat × Nat) (hk : Keeps s0 s) : Keeps s0 (failWaits s k) := by
  unfold failWaits
  try dsimp only
  repeat' first
    | with_reducible assumption
    | (with_reducible refine keeps_modHub_same ?_ (by rfl))

theorem publish_keeps {s0 : State} (s : State) (job h : Nat) (e : HEnt) (rel : Option (Party × Nat × List Nat)) (hk : Keeps s0 s) : Keeps s0 (publish s job h e rel) := by
  unfold publish
  try dsimp only
  repeat' first
    | with_reducible assumption
    | with_reducible apply dropTrans_keeps
    | with_reducible apply State_putHent_keeps
    | with_reducible apply State_setShadow_keeps

theorem serveHandle_keeps {s0 : State} (s : State) (q : Req) (e : HEnt) (hk : Keeps s0 s) : Keeps s0 (serveHandle s q e) := by
  unfold serveHandle
  try dsimp only
  repeat' first
    | with_reducible assumption
    | with_reducible apply State_modReq_keeps
    | with_reducible apply State_dropReq_keeps
    | with_reducible apply wakeWaits_keeps
    | with_reducible apply State_putHent_keeps
    | with_reducible apply State_reply_keeps
    | with_reducible apply State_failReq_keeps
    | with_reducible apply failWaits_keeps
    | with_reducible apply publish_keeps
    | with_reducible apply keeps_ite
    | split

theorem serveInOrder_keeps {s0 : State} (s : State) (q : Req) (h : Nat) (kinds : List Nat) (ready : HEnt → Bool) (fail : Code → State → State) (serve : HEnt → State → State) (hk : Keeps s0 s) (hk_fail : ∀ x0 x1, Keeps s0 x1 → Keeps s0 (fail x0 x1)) (hk_serve : ∀ x0 x1, Keeps s0 x1 → Keeps s0 (serve x0 x1)) : Keeps s0 (serveInOrder s q h kinds ready fail serve) := by
  unfold serveInOrder
  try dsimp only
  repeat' first
    | with_reducible assumption
    | with_reducible apply takePlace_keeps
    | with_reducible apply leavePlace_keeps
    | with_reducible apply hk_fail
    | with_reducible apply hk_serve
    | with_reducible apply keeps_ite
    | split

theorem State_usePort_keeps {s0 : State} (s : State) (n : Nat) (hk : Keeps s0 s) : Keeps s0 (State.usePort s n) := by
  unfold State.usePort
  try dsimp only
  repeat' first
    | with_reducible assumption
    | with_reducible apply keeps_modBu
    | (intro _ hb; exact hb)

theorem serveStm_keeps {s0 : State} (t : State) (q : Req) (hk : Keeps s0 t) : Keeps s0 (serveStm t q) := by
  unfold serveStm
  try dsimp only
  repeat' first
    | with_reducible assumption
    | with_reducible apply State_dropReq_keeps
    | with_reducible apply strmAccess_keeps
    | with_reducible apply startRole_keeps
    | with_reducible apply endRole_keeps
    | with_reducible apply takePlace_keeps
    | with_reducible apply State_failReq_keeps
    | with_reducible apply serveInOrder_keeps
    | with_reducible apply State_usePort_keeps
    | with_reducible apply keeps_ite
    | (with_reducible refine keeps_of_pair (by with_reducible assumption) ?_)
    | split
    | (intro _ _ _; try dsimp only)
    | fail_if_no_progress (with_reducible refine keeps_ms ?_ (by first | rfl | with_unfolding_all rfl | (simp only [join_mem]; done)) (by first | rfl | with_unfolding_all rfl | (simp only [join_base]; done)))

theorem serveTicket_keeps {s0 : State} (s : State) (id n k h role : Nat) (hk : Keeps s0 s) : Keeps s0 (serveTicket s id n k h role) := by
  unfold serveTicket
  try dsimp only
  repeat' first
    | with_reducible assumption
    | with_reducible apply State_modStrm_keeps
    | with_reducible apply startRole_keeps
    | with_reducible apply takePlace_keeps
    | with_reducible apply leavePlace_keeps
    | with_reducible apply keeps_ite
    | split

theorem execHandleRequestService_keeps {s0 : State} (s : State) (hk : Keeps s0 s) : KeepsOut s0 (execHandleRequestService s) := by
  unfold execHandleRequestService
  try dsimp only
  repeat' first
    | with_reducible assumption
    | with_reducible apply State_failReq_keeps
    | with_reducible apply serveAlloc_keeps
    | with_reducible apply serveHandle_keeps
    | with_reducible apply serveInOrder_keeps
    | with_reducible apply serveStm_keeps
    | with_reducible apply serveTicket_keeps
    | with_reducible apply keeps_ite
    | with_reducible apply keepsOut_nextState
    | split
    | (intro _ _ _; try dsimp only)

theorem execHbWaitAnswer_keeps {s0 : State} (s : State) (hk : Keeps s0 s) : KeepsOut s0 (execHbWaitAnswer s) := by
  unfold execHbWaitAnswer
  try dsimp only
  repeat' first
    | with_reducible assumption
    | with_reducible apply State_reply_keeps
    | with_reducible apply keeps_ite
    | with_reducible apply keepsOut_nextState
    | split

theorem shadowWritten_keeps {s0 : State} (s : State) (at_ : Option (Nat × Nat)) (hk : Keeps s0 s) : Keeps s0 (shadowWritten s at_) := by
  unfold shadowWritten
  try dsimp only
  repeat' first
    | with_reducible assumption
    | with_reducible apply State_setShadow_keeps
    | split

theorem execStorePerform_keeps {s0 : State} (s : State) (hk : Keeps s0 s) : KeepsOut s0 (execStorePerform s) := by
  unfold execStorePerform
  try dsimp only
  repeat' first
    | with_reducible assumption
    | with_reducible apply performWrite_keeps
    | with_reducible apply endRole_keeps
    | with_reducible apply State_reach_keeps
    | with_reducible apply shadowWritten_keeps
    | with_reducible apply keeps_ite
    | with_reducible apply keepsOut_nextState
    | split
    | fail_if_no_progress (with_reducible refine keeps_ms ?_ (by first | rfl | with_unfolding_all rfl | (simp only [join_mem]; done)) (by first | rfl | with_unfolding_all rfl | (simp only [join_base]; done)))

theorem acquireAnswer_keeps {s0 : State} (s : State) (q : Req) (hk : Keeps s0 s) : Keeps s0 (acquireAnswer s q) := by
  unfold acquireAnswer
  try dsimp only
  repeat' first
    | with_reducible assumption
    | with_reducible apply State_learn_keeps

theorem State_unhold_keeps {s0 : State} (s : State) (q : Req) (hk : Keeps s0 s) : Keeps s0 (State.unhold s q) := by
  unfold State.unhold
  try dsimp only
  repeat' first
    | with_reducible assumption
    | with_reducible apply keeps_modCtx

theorem arriveResult_keeps {s0 : State} (s : State) (q : Req) (v : Line) (hk : Keeps s0 s) : Keeps s0 (arriveResult s q v) := by
  unfold arriveResult
  try dsimp only
  repeat' first
    | with_reducible assumption
    | with_reducible apply logReplay_keeps
    | with_reducible apply State_dropReq_keeps
    | with_reducible apply State_modRegs_keeps
    | with_reducible apply settleEnding_keeps
    | with_reducible apply acquireAnswer_keeps
    | with_reducible apply State_unhold_keeps
    | with_reducible apply keeps_ite

theorem earlyTrap_keeps {s0 : State} (s : State) (q : Req) (code : Code) (extra : Nat) (hk : Keeps s0 s) : Keeps s0 (earlyTrap s q code extra) := by
  unfold earlyTrap
  try dsimp only
  repeat' first
    | with_reducible assumption
    | with_reducible apply State_raise_keeps
    | with_reducible apply State_dropReq_keeps

theorem serveLdm_keeps {s0 : State} (s : State) (q : Req) (hk : Keeps s0 s) : Keeps s0 (serveLdm s q) := by
  unfold serveLdm
  try dsimp only
  repeat' first
    | with_reducible assumption
    | with_reducible apply readMem_keeps
    | with_reducible apply strmAccess_keeps
    | with_reducible apply State_reply_keeps
    | with_reducible apply State_failReq_keeps
    | with_reducible apply State_reach_keeps
    | with_reducible apply State_usePort_keeps
    | with_reducible apply keeps_ite
    | (with_reducible refine keeps_of_pair (by with_reducible assumption) ?_)
    | split

theorem servePrf_keeps {s0 : State} (s : State) (q : Req) (hk : Keeps s0 s) : Keeps s0 (servePrf s q) := by
  unfold servePrf
  try dsimp only
  repeat' first
    | with_reducible assumption
    | with_reducible apply State_dropReq_keeps
    | with_reducible apply refill_keeps
    | with_reducible apply State_usePort_keeps
    | with_reducible apply keeps_ite
    | split

theorem serveRead_keeps {s0 : State} (s : State) (q : Req) (hk : Keeps s0 s) : Keeps s0 (serveRead s q) := by
  unfold serveRead
  try dsimp only
  repeat' first
    | with_reducible assumption
    | with_reducible apply State_reply_keeps
    | with_reducible apply serveLdm_keeps
    | with_reducible apply servePrf_keeps
    | split

theorem answerPeer_keeps {s0 : State} (s : State) (q : Req) (hk : Keeps s0 s) : Keeps s0 (answerPeer s q) := by
  unfold answerPeer
  try dsimp only
  repeat' first
    | with_reducible assumption
    | with_reducible apply State_dropReq_keeps
    | with_reducible apply State_sendPeer_keeps
    | with_reducible apply keeps_ite
    | split

theorem execDetachedResult_keeps {s0 : State} (s : State) (hk : Keeps s0 s) : KeepsOut s0 (execDetachedResult s) := by
  unfold execDetachedResult
  apply keepsOut_nextState
  cases s.req s.my.arg.n with
  | none => exact hk
  | some q =>
    dsimp only
    refine keeps_ite (answerPeer_keeps s q hk) (keeps_ite hk ?_)
    generalize hx : (if q.row.isVector = true then trapOf s q else none) = o
    cases o <;> cases q.stage <;> dsimp only
    all_goals repeat' first
      | with_reducible assumption
      | with_reducible apply State_dropReq_keeps
      | with_reducible apply State_failReq_keeps
      | with_reducible apply earlyTrap_keeps
      | with_reducible apply arriveResult_keeps
      | with_reducible apply serveRead_keeps
      | with_reducible apply keeps_ite
      | with_reducible apply keeps_modBlk

theorem unpark_keeps {s0 : State} (s : State) (id : Nat) (hk : Keeps s0 s) : Keeps s0 (unpark s id) := by
  unfold unpark
  try dsimp only
  repeat' first
    | with_reducible assumption
    | (with_reducible refine keeps_modHub_same ?_ (by rfl))

theorem execDetachedFailure_keeps {s0 : State} (s : State) (hk : Keeps s0 s) : KeepsOut s0 (execDetachedFailure s) := by
  unfold execDetachedFailure
  try dsimp only
  repeat' first
    | with_reducible assumption
    | with_reducible apply State_post_keeps
    | with_reducible apply State_modReq_keeps
    | with_reducible apply State_dropReq_keeps
    | with_reducible apply State_modRegs_keeps
    | with_reducible apply settleEnding_keeps
    | with_reducible apply State_unhold_keeps
    | with_reducible apply unpark_keeps
    | with_reducible apply keeps_ite
    | with_reducible apply keepsOut_nextState
    | split

end Sys2Proof.Machine
end

