-- ==== Sys2Proof/Laws/KeepsVector.lean ====
section
/-!
SUPPORT. What the operations of Machine/Vector.lean keep.
-/
namespace Sys2Proof.Machine
open Sys2Proof.Safety

theorem runRing_keeps {s0 : State} (r : Row) (fi : Int → Int → Int → Int) (ff : Bool → Val → Val → Val → Exact) (o : Op) (s : State) (hk : Keeps s0 s) : Keeps s0 (runRing r fi ff o s) := by
  unfold runRing
  try dsimp only
  repeat' first
    | with_reducible assumption
    | with_reducible apply runVector_keeps

theorem runExact_keeps {s0 : State} (r : Row) (f : Ty → Nat → Nat → Nat → Nat) (o : Op) (s : State) (hk : Keeps s0 s) : Keeps s0 (runExact r f o s) := by
  unfold runExact
  try dsimp only
  repeat' first
    | with_reducible assumption
    | with_reducible apply runVector_keeps

theorem execVadd_keeps {s0 : State} (o : Op) (s : State) (hk : Keeps s0 s) : KeepsOut s0 (execVadd o s) := by
  unfold execVadd
  try dsimp only
  repeat' first
    | with_reducible assumption
    | with_reducible apply runRing_keeps
    | with_reducible apply keepsOut_nextState

theorem execVsub_keeps {s0 : State} (o : Op) (s : State) (hk : Keeps s0 s) : KeepsOut s0 (execVsub o s) := by
  unfold execVsub
  try dsimp only
  repeat' first
    | with_reducible assumption
    | with_reducible apply runRing_keeps
    | with_reducible apply keepsOut_nextState

theorem execVmul_keeps {s0 : State} (o : Op) (s : State) (hk : Keeps s0 s) : KeepsOut s0 (execVmul o s) := by
  unfold execVmul
  try dsimp only
  repeat' first
    | with_reducible assumption
    | with_reducible apply runRing_keeps
    | with_reducible apply keepsOut_nextState

theorem execVfma_keeps {s0 : State} (o : Op) (s : State) (hk : Keeps s0 s) : KeepsOut s0 (execVfma o s) := by
  unfold execVfma
  try dsimp only
  repeat' first
    | with_reducible assumption
    | with_reducible apply runVector_keeps
    | with_reducible apply keepsOut_nextState

theorem execVfms_keeps {s0 : State} (o : Op) (s : State) (hk : Keeps s0 s) : KeepsOut s0 (execVfms o s) := by
  unfold execVfms
  try dsimp only
  repeat' first
    | with_reducible assumption
    | with_reducible apply runVector_keeps
    | with_reducible apply keepsOut_nextState

theorem execVmin_keeps {s0 : State} (o : Op) (s : State) (hk : Keeps s0 s) : KeepsOut s0 (execVmin o s) := by
  unfold execVmin
  try dsimp only
  repeat' first
    | with_reducible assumption
    | with_reducible apply runExact_keeps
    | with_reducible apply keepsOut_nextState

theorem execVmax_keeps {s0 : State} (o : Op) (s : State) (hk : Keeps s0 s) : KeepsOut s0 (execVmax o s) := by
  unfold execVmax
  try dsimp only
  repeat' first
    | with_reducible assumption
    | with_reducible apply runExact_keeps
    | with_reducible apply keepsOut_nextState

theorem execVabs_keeps {s0 : State} (o : Op) (s : State) (hk : Keeps s0 s) : KeepsOut s0 (execVabs o s) := by
  unfold execVabs
  try dsimp only
  repeat' first
    | with_reducible assumption
    | with_reducible apply runExact_keeps
    | with_reducible apply keepsOut_nextState

theorem execVneg_keeps {s0 : State} (o : Op) (s : State) (hk : Keeps s0 s) : KeepsOut s0 (execVneg o s) := by
  unfold execVneg
  try dsimp only
  repeat' first
    | with_reducible assumption
    | with_reducible apply runExact_keeps
    | with_reducible apply keepsOut_nextState

theorem execVand_keeps {s0 : State} (o : Op) (s : State) (hk : Keeps s0 s) : KeepsOut s0 (execVand o s) := by
  unfold execVand
  try dsimp only
  repeat' first
    | with_reducible assumption
    | with_reducible apply runExact_keeps
    | with_reducible apply keepsOut_nextState

theorem execVor_keeps {s0 : State} (o : Op) (s : State) (hk : Keeps s0 s) : KeepsOut s0 (execVor o s) := by
  unfold execVor
  try dsimp only
  repeat' first
    | with_reducible assumption
    | with_reducible apply runExact_keeps
    | with_reducible apply keepsOut_nextState

theorem execVxor_keeps {s0 : State} (o : Op) (s : State) (hk : Keeps s0 s) : KeepsOut s0 (execVxor o s) := by
  unfold execVxor
  try dsimp only
  repeat' first
    | with_reducible assumption
    | with_reducible apply runExact_keeps
    | with_reducible apply keepsOut_nextState

theorem execVmov_keeps {s0 : State} (o : Op) (s : State) (hk : Keeps s0 s) : KeepsOut s0 (execVmov o s) := by
  unfold execVmov
  try dsimp only
  repeat' first
    | with_reducible assumption
    | with_reducible apply runExact_keeps
    | with_reducible apply keepsOut_nextState

theorem execVclamp_keeps {s0 : State} (o : Op) (s : State) (hk : Keeps s0 s) : KeepsOut s0 (execVclamp o s) := by
  unfold execVclamp
  try dsimp only
  repeat' first
    | with_reducible assumption
    | with_reducible apply runExact_keeps
    | with_reducible apply keepsOut_nextState

theorem execVmulh_keeps {s0 : State} (o : Op) (s : State) (hk : Keeps s0 s) : KeepsOut s0 (execVmulh o s) := by
  unfold execVmulh
  try dsimp only
  repeat' first
    | with_reducible assumption
    | with_reducible apply runVector_keeps
    | with_reducible apply keepsOut_nextState

theorem execVsadd_keeps {s0 : State} (o : Op) (s : State) (hk : Keeps s0 s) : KeepsOut s0 (execVsadd o s) := by
  unfold execVsadd
  try dsimp only
  repeat' first
    | with_reducible assumption
    | with_reducible apply runVector_keeps
    | with_reducible apply keepsOut_nextState

theorem execVssub_keeps {s0 : State} (o : Op) (s : State) (hk : Keeps s0 s) : KeepsOut s0 (execVssub o s) := by
  unfold execVssub
  try dsimp only
  repeat' first
    | with_reducible assumption
    | with_reducible apply runVector_keeps
    | with_reducible apply keepsOut_nextState

theorem execVavg_keeps {s0 : State} (o : Op) (s : State) (hk : Keeps s0 s) : KeepsOut s0 (execVavg o s) := by
  unfold execVavg
  try dsimp only
  repeat' first
    | with_reducible assumption
    | with_reducible apply runVector_keeps
    | with_reducible apply keepsOut_nextState

theorem execVshl_keeps {s0 : State} (o : Op) (s : State) (hk : Keeps s0 s) : KeepsOut s0 (execVshl o s) := by
  unfold execVshl
  try dsimp only
  repeat' first
    | with_reducible assumption
    | with_reducible apply runVector_keeps
    | with_reducible apply keepsOut_nextState

theorem execVshr_keeps {s0 : State} (o : Op) (s : State) (hk : Keeps s0 s) : KeepsOut s0 (execVshr o s) := by
  unfold execVshr
  try dsimp only
  repeat' first
    | with_reducible assumption
    | with_reducible apply runVector_keeps
    | with_reducible apply keepsOut_nextState

theorem execVsar_keeps {s0 : State} (o : Op) (s : State) (hk : Keeps s0 s) : KeepsOut s0 (execVsar o s) := by
  unfold execVsar
  try dsimp only
  repeat' first
    | with_reducible assumption
    | with_reducible apply runVector_keeps
    | with_reducible apply keepsOut_nextState

theorem execVcmp_keeps {s0 : State} (o : Op) (s : State) (hk : Keeps s0 s) : KeepsOut s0 (execVcmp o s) := by
  unfold execVcmp
  try dsimp only
  repeat' first
    | with_reducible assumption
    | with_reducible apply runVector_keeps
    | with_reducible apply keepsOut_nextState

theorem execVsel_keeps {s0 : State} (o : Op) (s : State) (hk : Keeps s0 s) : KeepsOut s0 (execVsel o s) := by
  unfold execVsel
  try dsimp only
  repeat' first
    | with_reducible assumption
    | with_reducible apply runVector_keeps
    | with_reducible apply keepsOut_nextState

theorem execVdot_keeps {s0 : State} (o : Op) (s : State) (hk : Keeps s0 s) : KeepsOut s0 (execVdot o s) := by
  unfold execVdot
  try dsimp only
  repeat' first
    | with_reducible assumption
    | with_reducible apply runVector_keeps
    | with_reducible apply keepsOut_nextState

theorem execVsum_keeps {s0 : State} (o : Op) (s : State) (hk : Keeps s0 s) : KeepsOut s0 (execVsum o s) := by
  unfold execVsum
  try dsimp only
  repeat' first
    | with_reducible assumption
    | with_reducible apply runVector_keeps
    | with_reducible apply keepsOut_nextState

theorem execVrmin_keeps {s0 : State} (o : Op) (s : State) (hk : Keeps s0 s) : KeepsOut s0 (execVrmin o s) := by
  unfold execVrmin
  try dsimp only
  repeat' first
    | with_reducible assumption
    | with_reducible apply runVector_keeps
    | with_reducible apply keepsOut_nextState

theorem execVrmax_keeps {s0 : State} (o : Op) (s : State) (hk : Keeps s0 s) : KeepsOut s0 (execVrmax o s) := by
  unfold execVrmax
  try dsimp only
  repeat' first
    | with_reducible assumption
    | with_reducible apply runVector_keeps
    | with_reducible apply keepsOut_nextState

theorem execVbcast_keeps {s0 : State} (o : Op) (s : State) (hk : Keeps s0 s) : KeepsOut s0 (execVbcast o s) := by
  unfold execVbcast
  try dsimp only
  repeat' first
    | with_reducible assumption
    | with_reducible apply runVector_keeps
    | with_reducible apply keepsOut_nextState

theorem execVperm_keeps {s0 : State} (o : Op) (s : State) (hk : Keeps s0 s) : KeepsOut s0 (execVperm o s) := by
  unfold execVperm
  try dsimp only
  repeat' first
    | with_reducible assumption
    | with_reducible apply runVector_keeps
    | with_reducible apply keepsOut_nextState

theorem execVrot_keeps {s0 : State} (o : Op) (s : State) (hk : Keeps s0 s) : KeepsOut s0 (execVrot o s) := by
  unfold execVrot
  try dsimp only
  repeat' first
    | with_reducible assumption
    | with_reducible apply runVector_keeps
    | with_reducible apply keepsOut_nextState

theorem execVcompress_keeps {s0 : State} (o : Op) (s : State) (hk : Keeps s0 s) : KeepsOut s0 (execVcompress o s) := by
  unfold execVcompress
  try dsimp only
  repeat' first
    | with_reducible assumption
    | with_reducible apply runVector_keeps
    | with_reducible apply keepsOut_nextState

theorem execVexpand_keeps {s0 : State} (o : Op) (s : State) (hk : Keeps s0 s) : KeepsOut s0 (execVexpand o s) := by
  unfold execVexpand
  try dsimp only
  repeat' first
    | with_reducible assumption
    | with_reducible apply runVector_keeps
    | with_reducible apply keepsOut_nextState

end Sys2Proof.Machine
end

