-- ==== Sys2Proof/Laws/KeepsEngines.lean ====
section
/-!
SUPPORT. What the operations of Machine/Engines.lean keep.
-/
namespace Sys2Proof.Machine
open Sys2Proof.Safety

theorem takeLast_keeps {s0 : State} (s : State) (p : Party) (key len : Nat) (hk : Keeps s0 s) : Keeps s0 (takeLast s p key len) := by
  unfold takeLast
  try dsimp only
  repeat' first
    | with_reducible assumption
    | with_reducible apply takeCand_keeps
    | (with_reducible refine keeps_foldl ?_ ?_)
    | (intro _ _ _; try dsimp only)

theorem requestHome_keeps {s0 : State} (s : State) (q : Req) (write : Bool) (hk : Keeps s0 s) : KeepsExcP s0 (requestHome s q write) := by
  unfold requestHome
  try dsimp only
  repeat' first
    | with_reducible assumption
    | with_reducible apply strmAccess_keeps
    | with_reducible apply State_reach_keeps
    | with_reducible apply keepsExcP_error
    | with_reducible apply keepsExcP_ok
    | (with_reducible refine keeps_of_pair (by with_reducible assumption) ?_)
    | split

theorem performAfter_keeps {s0 : State} (s : State) (q : Req) (id key : Nat) (bytes : List Byte) (hk : Keeps s0 s) : Keeps s0 (performAfter s q id key bytes) := by
  unfold performAfter
  try dsimp only
  repeat' first
    | with_reducible assumption
    | with_reducible apply performWrite_keeps

theorem homeWrite_keeps {s0 : State} (s : State) (q : Req) (h : Home) (bytes : List Byte) (hk : Keeps s0 s) : Keeps s0 (homeWrite s q h bytes) := by
  unfold homeWrite
  try dsimp only
  repeat' first
    | with_reducible assumption
    | with_reducible apply bankPut_keeps
    | with_reducible apply bankWrite_keeps
    | with_reducible apply performAfter_keeps
    | split

theorem homeSeen_keeps {s0 : State} (s : State) (q : Req) (h : Home) (hk : Keeps s0 s) : Keeps s0 (homeSeen s q h) := by
  unfold homeSeen
  try dsimp only
  repeat' first
    | with_reducible assumption
    | with_reducible apply takeLast_keeps
    | split

theorem failAt_keeps {s0 : State} (s : State) (q : Req) (e : Code × Nat) (hk : Keeps s0 s) : Keeps s0 (failAt s q e) := by
  unfold failAt
  try dsimp only
  repeat' first
    | with_reducible assumption
    | with_reducible apply State_failReq_keeps
    | with_reducible apply keeps_ite
    | with_reducible apply keeps_modBu
    | (intro _ hb; exact hb)

theorem serveAtomic_keeps {s0 : State} (s : State) (q : Req) (hk : Keeps s0 s) : Keeps s0 (serveAtomic s q) := by
  unfold serveAtomic
  try dsimp only
  repeat' first
    | with_reducible assumption
    | with_reducible apply State_dropReq_keeps
    | with_reducible apply State_reply_keeps
    | with_reducible apply requestHome_keeps
    | with_reducible apply homeWrite_keeps
    | with_reducible apply homeSeen_keeps
    | with_reducible apply failAt_keeps
    | with_reducible apply keeps_ite
    | (with_reducible refine keeps_of_excP (by with_reducible assumption) ?_)
    | split

theorem execAtomicExecute_keeps {s0 : State} (s : State) (hk : Keeps s0 s) : KeepsOut s0 (execAtomicExecute s) := by
  unfold execAtomicExecute
  try dsimp only
  repeat' first
    | with_reducible assumption
    | with_reducible apply serveAtomic_keeps
    | with_reducible apply keeps_ite
    | with_reducible apply keepsOut_nextState
    | split

theorem wakeBars_keeps {s0 : State} (s : State) (num phase : Nat) (hk : Keeps s0 s) : Keeps s0 (wakeBars s num phase) := by
  unfold wakeBars
  try dsimp only
  repeat' first
    | with_reducible assumption
    | (with_reducible refine keeps_modHub_same ?_ (by rfl))

theorem noteBar_keeps {s0 : State} (s : State) (num : Nat) (drop : Option Nat) (add : List BarRel) (hk : Keeps s0 s) : Keeps s0 (noteBar s num drop add) := by
  unfold noteBar
  try dsimp only
  repeat' first
    | with_reducible assumption
    | fail_if_no_progress (with_reducible refine keeps_ms ?_ (by first | rfl | with_unfolding_all rfl | (simp only [join_mem]; done)) (by first | rfl | with_unfolding_all rfl | (simp only [join_base]; done)))

theorem serveArrive_keeps {s0 : State} (s : State) (q : Req) (h : Home) (drop : Bool) (hk : Keeps s0 s) : Keeps s0 (serveArrive s q h drop) := by
  unfold serveArrive
  try dsimp only
  repeat' first
    | with_reducible assumption
    | with_reducible apply State_reply_keeps
    | with_reducible apply homeWrite_keeps
    | with_reducible apply homeSeen_keeps
    | with_reducible apply failAt_keeps
    | with_reducible apply noteBar_keeps
    | with_reducible apply keeps_ite

theorem serveInit_keeps {s0 : State} (s : State) (q : Req) (h : Home) (hk : Keeps s0 s) : Keeps s0 (serveInit s q h) := by
  unfold serveInit
  try dsimp only
  repeat' first
    | with_reducible assumption
    | with_reducible apply State_dropReq_keeps
    | with_reducible apply homeWrite_keeps
    | with_reducible apply noteBar_keeps

theorem serveBarrier_keeps {s0 : State} (s : State) (q : Req) (hk : Keeps s0 s) : Keeps s0 (serveBarrier s q) := by
  unfold serveBarrier
  try dsimp only
  repeat' first
    | with_reducible assumption
    | with_reducible apply State_modReq_keeps
    | with_reducible apply requestHome_keeps
    | with_reducible apply failAt_keeps
    | with_reducible apply serveArrive_keeps
    | with_reducible apply serveInit_keeps
    | (with_reducible refine keeps_of_excP (by with_reducible assumption) ?_)
    | split

theorem settleBar_keeps {s0 : State} (s : State) (n num : Nat) (hk : Keeps s0 s) : Keeps s0 (settleBar s n num) := by
  unfold settleBar
  try dsimp only
  repeat' first
    | with_reducible assumption
    | with_reducible apply wakeBars_keeps

theorem execBarrierOp_keeps {s0 : State} (s : State) (hk : Keeps s0 s) : KeepsOut s0 (execBarrierOp s) := by
  unfold execBarrierOp
  try dsimp only
  repeat' first
    | with_reducible assumption
    | with_reducible apply serveBarrier_keeps
    | with_reducible apply settleBar_keeps
    | with_reducible apply keeps_ite
    | (with_reducible refine keeps_foldl ?_ ?_)
    | with_reducible apply keepsOut_nextState
    | split

theorem execBarWaitAnswer_keeps {s0 : State} (s : State) (hk : Keeps s0 s) : KeepsOut s0 (execBarWaitAnswer s) := by
  unfold execBarWaitAnswer
  try dsimp only
  repeat' first
    | with_reducible assumption
    | with_reducible apply State_reply_keeps
    | with_reducible apply homeSeen_keeps
    | with_reducible apply wakeBars_keeps
    | with_reducible apply keeps_ite
    | with_reducible apply keepsOut_nextState
    | split

theorem engineRead_keeps {s0 : State} (s : State) (p : Party) (job va len : Nat) (hk : Keeps s0 s) : KeepsExcP s0 (engineRead s p job va len) := by
  unfold engineRead
  try dsimp only
  repeat' first
    | with_reducible assumption
    | with_reducible apply readPlaces_keeps
    | with_reducible apply keepsExcP_error
    | with_reducible apply keepsExcP_ok
    | split

theorem engineWrite_keeps {s0 : State} (s : State) (p : Party) (job va : Nat) (bytes : List Byte) (hk : Keeps s0 s) : KeepsExc s0 (engineWrite s p job va bytes) := by
  unfold engineWrite
  try dsimp only
  repeat' first
    | with_reducible assumption
    | with_reducible apply writeNow_keeps
    | (with_reducible refine keeps_foldl ?_ ?_)
    | with_reducible apply keepsExc_error
    | with_reducible apply keepsExc_ok
    | split
    | (intro _ _ _; try dsimp only)

theorem engineAcquire_keeps {s0 : State} (s : State) (q : Req) (hk : Keeps s0 s) : Keeps s0 (engineAcquire s q) := by
  unfold engineAcquire
  try dsimp only
  repeat' first
    | with_reducible assumption
    | with_reducible apply synchronise_keeps
    | (with_reducible refine keeps_foldl ?_ ?_)
    | split
    | (intro _ _ _; try dsimp only)

theorem eachOk_keeps {α β : Type} {s0 : State} {f : β → State → Except (Code × Nat) (α × State)}
    (hf : ∀ x t, Keeps s0 t → KeepsExcP s0 (f x t)) {l : List β} {s : State} (hk : Keeps s0 s) : KeepsExcP s0 (eachOk f l s) := by
  induction l generalizing s with
  | nil => exact keepsExcP_ok hk
  | cons x rest ih =>
    unfold eachOk
    split
    · exact keepsExcP_error
    · split
      · exact keepsExcP_error
      · exact keepsExcP_ok ((ih ((hf x s hk).keeps _ _ ‹_›)).keeps _ _ ‹_›)

theorem appendMail_keeps {s0 : State} (s : State) (q : Req) (hk : Keeps s0 s) : KeepsExcP s0 (appendMail s q) := by
  unfold appendMail
  try dsimp only
  repeat' first
    | with_reducible assumption
    | with_reducible apply takeLast_keeps
    | with_reducible apply performAfter_keeps
    | with_reducible apply keeps_freshFor
    | (with_reducible refine keeps_foldl_fst ?_ ?_)
    | with_reducible apply keepsExcP_error
    | with_reducible apply keepsExcP_ok
    | split
    | (intro _ _ _; try dsimp only)

theorem execMailboxAppend_keeps {s0 : State} (s : State) (hk : Keeps s0 s) : KeepsOut s0 (execMailboxAppend s) := by
  unfold execMailboxAppend
  try dsimp only
  repeat' first
    | with_reducible assumption
    | with_reducible apply State_reply_keeps
    | with_reducible apply failAt_keeps
    | with_reducible apply appendMail_keeps
    | with_reducible apply keeps_ite
    | with_reducible apply keepsOut_nextState
    | (with_reducible refine keeps_of_excP (by with_reducible assumption) ?_)
    | split

theorem redRow_keeps {s0 : State} (job : Nat) (d : RedDesc) (e : RedEnts) (x : Nat) (s : State) (hk : Keeps s0 s) : KeepsExcP s0 (redRow job d e x s) := by
  unfold redRow
  try dsimp only
  repeat' first
    | with_reducible assumption
    | with_reducible apply engineRead_keeps
    | with_reducible apply keepsExcP_error
    | with_reducible apply keepsExcP_ok
    | (with_reducible refine keeps_of_excP (by with_reducible assumption) ?_)
    | split

theorem redRows_keeps {s0 : State} (s : State) (job leader : Nat) (d : RedDesc) (e : RedEnts) (hk : Keeps s0 s) : KeepsExcP s0 (redRows s job leader d e) := by
  unfold redRows
  try dsimp only
  repeat' first
    | with_reducible assumption
    | with_reducible apply engineRead_keeps
    | with_reducible apply eachOk_keeps
    | with_reducible apply redRow_keeps
    | with_reducible apply keepsExcP_error
    | with_reducible apply keepsExcP_ok
    | (with_reducible refine keeps_of_excP (by with_reducible assumption) ?_)
    | split
    | (intro _ _ _; try dsimp only)

theorem runRed_keeps {s0 : State} (s : State) (q : Req) (d : RedDesc) (e : RedEnts) (hk : Keeps s0 s) : Keeps s0 (runRed s q d e) := by
  unfold runRed
  try dsimp only
  repeat' first
    | with_reducible assumption
    | with_reducible apply startRole_keeps
    | with_reducible apply endRole_keeps
    | with_reducible apply State_reply_keeps
    | with_reducible apply publish_keeps
    | with_reducible apply failAt_keeps
    | with_reducible apply engineWrite_keeps
    | with_reducible apply engineAcquire_keeps
    | with_reducible apply redRows_keeps
    | (with_reducible refine keeps_of_exc (by with_reducible assumption) ?_)
    | (with_reducible refine keeps_of_excP (by with_reducible assumption) ?_)
    | split

theorem serveRed_keeps {s0 : State} (s : State) (q : Req) (hk : Keeps s0 s) : Keeps s0 (serveRed s q) := by
  unfold serveRed
  try dsimp only
  repeat' first
    | with_reducible assumption
    | with_reducible apply takePlace_keeps
    | with_reducible apply leavePlace_keeps
    | with_reducible apply failAt_keeps
    | with_reducible apply runRed_keeps
    | with_reducible apply keeps_ite
    | (with_reducible refine keeps_foldl ?_ ?_)
    | split
    | (intro _ _ _; try dsimp only)

theorem execCeRedRun_keeps {s0 : State} (s : State) (hk : Keeps s0 s) : KeepsOut s0 (execCeRedRun s) := by
  unfold execCeRedRun
  try dsimp only
  repeat' first
    | with_reducible assumption
    | with_reducible apply serveRed_keeps
    | with_reducible apply keeps_ite
    | with_reducible apply keepsOut_nextState
    | split

theorem progStep_keeps {s0 : State} (q : Req) (c i w : Nat) (a : Acc) (s : State) (hk : Keeps s0 s) : KeepsExcP s0 (progStep q c i w a s) := by
  unfold progStep
  try dsimp only
  repeat' first
    | with_reducible assumption
    | with_reducible apply engineRead_keeps
    | with_reducible apply engineWrite_keeps
    | with_reducible apply keepsExcP_error
    | with_reducible apply keepsExcP_ok
    | (with_reducible refine keeps_of_exc (by with_reducible assumption) ?_)
    | (with_reducible refine keeps_of_excP (by with_reducible assumption) ?_)
    | split

theorem progRow_keeps {s0 : State} (q : Req) (c i : Nat) (ws : List Nat) (a : Acc) (s : State) (hk : Keeps s0 s) :
    Keeps s0 (progRow q c i ws a s).2.2 := by
  induction ws generalizing a s with
  | nil => exact hk
  | cons w rest ih =>
    unfold progRow
    split
    · exact hk
    · exact ih _ _ ((progStep_keeps _ _ _ _ _ _ hk).keeps _ _ ‹_›)

theorem endProg_keeps {s0 : State} (s : State) (q : Req) (p : Prog) (fail : Option (Code × Nat)) (hk : Keeps s0 s) : Keeps s0 (endProg s q p fail) := by
  unfold endProg
  try dsimp only
  repeat' first
    | with_reducible assumption
    | with_reducible apply endRole_keeps
    | with_reducible apply State_reply_keeps
    | with_reducible apply failAt_keeps
    | (with_reducible refine keeps_modHub_same ?_ (by rfl))
    | (with_reducible refine keeps_foldl ?_ ?_)
    | split
    | (intro _ _ _; try dsimp only)

theorem openAcc_keeps {s0 : State} (s : State) (hk : Keeps s0 s) : Keeps s0 (openAcc s).2 := by
  unfold openAcc
  try dsimp only
  repeat' first
    | with_reducible assumption
    | fail_if_no_progress with_reducible apply keeps_my

theorem startPart_keeps {s0 : State} (q : Req) (ws : List Nat) (c : Nat) (todo : List Nat) (s : State) (hk : Keeps s0 s) : Keeps s0 (startPart q ws c todo s).2 := by
  unfold startPart
  try dsimp only
  repeat' first
    | with_reducible assumption
    | with_reducible apply openAcc_keeps

theorem startParts_keeps {s0 : State} (q : Req) (ws owners cs : List Nat) (s : State) (hk : Keeps s0 s) :
    Keeps s0 (startParts q ws owners cs s).2 := by
  induction cs generalizing s with
  | nil => exact hk
  | cons c rest ih =>
    unfold startParts
    dsimp only
    split
    · exact ih _ hk
    · exact ih _ (startPart_keeps _ _ _ _ _ hk)

theorem progCheck_keeps {s0 : State} (s : State) (q : Req) (hk : Keeps s0 s) : ∀ y, progCheck s q = .ok y → Keeps s0 y.2.2 := by
  unfold progCheck
  dsimp only
  split
  · intro y e; cases e
  split
  · intro y e; cases e
  split
  · intro y e; cases e
  have h1 := (engineRead_keeps _ _ _ _ _ hk).keeps _ _ ‹_›
  split
  · intro y e; cases e
  rename_i he
  have h2 := (eachOk_keeps (s0 := s0) (by
    intro x t h
    split
    · exact keepsExcP_error
    · exact keepsExcP_ok h) h1).keeps _ _ he
  split <;> split <;> try (intro y e; cases e; done)
  all_goals split
  all_goals intro y e
  all_goals cases e
  all_goals exact h2

theorem serveProg_keeps {s0 : State} (s : State) (q : Req) (hk : Keeps s0 s) : Keeps s0 (serveProg s q) := by
  unfold serveProg
  try dsimp only
  repeat' first
    | with_reducible assumption
    | with_reducible apply State_modReq_keeps
    | with_reducible apply startRole_keeps
    | with_reducible apply takePlace_keeps
    | with_reducible apply leavePlace_keeps
    | with_reducible apply failAt_keeps
    | with_reducible apply engineAcquire_keeps
    | with_reducible apply eachOk_keeps
    | with_reducible apply endProg_keeps
    | with_reducible apply startParts_keeps
    | with_reducible apply progCheck_keeps
    | with_reducible apply keeps_ite
    | (with_reducible refine keeps_modHub_same ?_ (by rfl))
    | (with_reducible refine keeps_foldl ?_ ?_)
    | with_reducible apply keepsExcP_error
    | with_reducible apply keepsExcP_ok
    | (with_reducible refine keeps_of_excP (by with_reducible assumption) ?_)
    | (with_reducible refine keeps_of_excPP (by with_reducible assumption) ?_)
    | split
    | (intro _ _ _; try dsimp only)

theorem execCeProgStart_keeps {s0 : State} (s : State) (hk : Keeps s0 s) : KeepsOut s0 (execCeProgStart s) := by
  unfold execCeProgStart
  try dsimp only
  repeat' first
    | with_reducible assumption
    | with_reducible apply serveProg_keeps
    | with_reducible apply keeps_ite
    | with_reducible apply keepsOut_nextState
    | split

theorem execCeProgRowStep_keeps {s0 : State} (s : State) (hk : Keeps s0 s) : KeepsOut s0 (execCeProgRowStep s) := by
  unfold execCeProgRowStep
  try dsimp only
  repeat' first
    | with_reducible assumption
    | with_reducible apply progRow_keeps
    | with_reducible apply endProg_keeps
    | with_reducible apply keeps_ite
    | (with_reducible refine keeps_modHub_same ?_ (by rfl))
    | with_reducible apply keepsOut_nextState
    | split

theorem execCeWindowExpiry_keeps {s0 : State} (s : State) (hk : Keeps s0 s) : KeepsOut s0 (execCeWindowExpiry s) := by
  unfold execCeWindowExpiry
  try dsimp only
  repeat' first
    | with_reducible assumption
    | (with_reducible refine keeps_modHub_same ?_ (by rfl))
    | with_reducible apply keepsOut_nextState

end Sys2Proof.Machine
end

