-- ==== Sys2Proof/Laws/KeepsNode.lean ====
section
/-!
SUPPORT. What the operations of Machine/Node.lean keep.
-/
namespace Sys2Proof.Machine
open Sys2Proof.Safety

theorem releaseGate_bank (ti fuel : Nat) (b : Bu) : (releaseGate ti fuel b).bank = b.bank := by
  induction fuel generalizing b with
  | zero => rfl
  | succ f ih =>
    unfold releaseGate
    dsimp only
    split
    · rfl
    · rfl
    · exact ih _

theorem releaseGates_bank (b : Bu) : (releaseGates b).bank = b.bank := by
  have h : ∀ (l : List Nat) (b : Bu), (l.foldl (fun b t => releaseGate t 16 b) b).bank = b.bank := by
    intro l
    induction l with
      | nil => intro b; rfl
      | cons t rest ih => intro b; exact (ih _).trans (releaseGate_bank _ _ _)
  exact h _ b

theorem startToken_keeps {s0 : State} (s : State) (n k : Nat) (t : InTok) (hk : Keeps s0 s) : Keeps s0 (startToken s n k t) := by
  unfold startToken
  try dsimp only
  repeat' first
    | with_reducible assumption
    | with_reducible apply keeps_modBu
    | with_reducible apply keeps_modRegion
    | (with_reducible refine Region.savedOk_same (by with_reducible assumption) (by with_unfolding_all rfl))
    | (with_reducible intro _; with_reducible intro (_ : Region.SavedOk _); try dsimp only)
    | (intro _ hb; exact hb)
    | split

theorem execMxTokenStart_keeps {s0 : State} (s : State) (hk : Keeps s0 s) : KeepsOut s0 (execMxTokenStart s) := by
  unfold execMxTokenStart
  try dsimp only
  repeat' first
    | with_reducible assumption
    | with_reducible apply startToken_keeps
    | with_reducible apply keeps_ite
    | with_reducible apply keepsOut_nextState
    | split

theorem popTile_keeps {s0 : State} (s : State) (n k : Nat) (hk : Keeps s0 s) : Keeps s0 (popTile s n k) := by
  unfold popTile
  try dsimp only
  repeat' first
    | with_reducible assumption
    | with_reducible apply keeps_modBu
    | (intro _ hb; exact hb)

theorem writeRows_keeps {s0 : State} (s : State) (n : Nat) (t : MxTok) (rows : List Line) (hk : Keeps s0 s) : Keeps s0 (writeRows s n t rows) := by
  unfold writeRows
  try dsimp only
  repeat' first
    | with_reducible assumption
    | with_reducible apply bankWrite_keeps
    | with_reducible apply ringPushOne_keeps
    | (with_reducible refine keeps_foldl ?_ ?_)
    | split
    | (intro _ _ _; try dsimp only)

theorem mxReport_keeps {s0 : State} (s : State) (n : Nat) (t : MxTok) (c : Code) (address extra stage : Nat) (hk : Keeps s0 s) : Keeps s0 (mxReport s n t c address extra stage) := by
  unfold mxReport
  try dsimp only
  repeat' first
    | with_reducible assumption
    | with_reducible apply State_post_keeps

theorem mxCorrect_keeps {s0 : State} (s : State) (n : Nat) (t : MxTok) (corr : List Nat) (hk : Keeps s0 s) : Keeps s0 (mxCorrect s n t corr) := by
  unfold mxCorrect
  try dsimp only
  repeat' first
    | with_reducible assumption
    | with_reducible apply State_countCorr_keeps
    | with_reducible apply mxReport_keeps
    | with_reducible apply keeps_ite

theorem retireOp_keeps {s0 : State} (s : State) (n k : Nat) (x : Started) (chk : Bool) (hk : Keeps s0 s) : Keeps s0 (retireOp s n k x chk) := by
  unfold retireOp
  try dsimp only
  repeat' first
    | with_reducible assumption
    | with_reducible apply popTile_keeps
    | with_reducible apply writeRows_keeps
    | with_reducible apply mxReport_keeps
    | with_reducible apply mxCorrect_keeps
    | with_reducible apply keeps_ite
    | with_reducible apply keeps_modCtx
    | with_reducible apply keeps_modBu
    | (with_reducible refine keeps_foldl ?_ ?_)
    | (intro _ hb; exact hb)
    | split
    | (intro _ _ _; try dsimp only)

theorem execMxTokenRetire_keeps {s0 : State} (s : State) (hk : Keeps s0 s) : KeepsOut s0 (execMxTokenRetire s) := by
  unfold execMxTokenRetire
  try dsimp only
  repeat' first
    | with_reducible assumption
    | with_reducible apply callRollback_keeps
    | with_reducible apply retireOp_keeps
    | with_reducible apply keeps_ite
    | with_reducible apply keepsOut_nextState
    | split

theorem execEvTick_keeps {s0 : State} (s : State) (hk : Keeps s0 s) : KeepsOut s0 (execEvTick s) := by
  refine keepsOut_nextState (keeps_modBu hk ?_)
  intro b hb
  split
  · exact hb
  · rw [releaseGates_bank]; exact hb

theorem fireOne_keeps {s0 : State} (s : State) (n ti : Nat) (hk : Keeps s0 s) : Keeps s0 (fireOne s n ti) := by
  unfold fireOne
  try dsimp only
  repeat' first
    | with_reducible assumption
    | with_reducible apply keeps_modBu
    | (with_reducible refine keeps_foldl ?_ ?_)
    | (intro _ hb; exact hb)
    | (intro _ _ _; try dsimp only)

theorem execTargetFiring_keeps {s0 : State} (s : State) (hk : Keeps s0 s) : KeepsOut s0 (execTargetFiring s) := by
  refine keepsOut_nextState (keeps_modBu (keeps_foldl hk (fun t x h => fireOne_keeps _ _ _ h)) ?_)
  intro b hb
  rw [releaseGates_bank]; exact hb

theorem execSSourcePulse_keeps {s0 : State} (s : State) (hk : Keeps s0 s) : KeepsOut s0 (execSSourcePulse s) := by
  unfold execSSourcePulse
  try dsimp only
  repeat' first
    | with_reducible assumption
    | with_reducible apply keeps_modBu
    | with_reducible apply keepsOut_nextState
    | split
    | (intro _ _; try dsimp only)

end Sys2Proof.Machine
end

