-- ==== Sys2Proof/Laws/KeepsSpans.lean ====
section
/-!
SUPPORT. What the operations of Machine/Spans.lean keep.
-/
namespace Sys2Proof.Machine
open Sys2Proof.Safety

theorem State_putSpan_keeps {s0 : State} (s : State) (p : Span) (hk : Keeps s0 s) : Keeps s0 (State.putSpan s p) := by
  unfold State.putSpan
  try dsimp only
  repeat' first
    | with_reducible assumption
    | with_reducible apply writeNow_keeps

theorem heapTake_keeps {s0 : State} (s : State) (job size : Nat) (hk : Keeps s0 s) : KeepsExcP s0 (heapTake s job size) := by
  unfold heapTake
  try dsimp only
  repeat' first
    | with_reducible assumption
    | (with_reducible refine keeps_modHub_same ?_ (by rfl))
    | with_reducible apply keepsExcP_error
    | with_reducible apply keepsExcP_ok
    | split

theorem heapFree_keeps {s0 : State} (s : State) (job va size : Nat) (hk : Keeps s0 s) : Keeps s0 (heapFree s job va size) := by
  unfold heapFree
  try dsimp only
  repeat' first
    | with_reducible assumption
    | (with_reducible refine keeps_modHub_same ?_ (by rfl))

theorem readHeader_keeps {s0 : State} (s : State) (p : Party) (key : Nat) (hk : Keeps s0 s) : Keeps s0 (readHeader s p key).2 := by
  unfold readHeader
  try dsimp only
  repeat' first
    | with_reducible assumption
    | with_reducible apply readPlaces_keeps
    | split

theorem mendHeader_keeps {s0 : State} (s : State) (p : Party) (key : Nat) (hk : Keeps s0 s) : Keeps s0 (mendHeader s p key).2.2 := by
  unfold mendHeader
  try dsimp only
  repeat' first
    | with_reducible assumption
    | with_reducible apply writeNow_keeps
    | with_reducible apply readHeader_keeps
    | split

theorem useHeader_keeps {s0 : State} (s : State) (p : Party) (key kvl kvt : Nat) (hk : Keeps s0 s) : Keeps s0 (useHeader s p key kvl kvt).2.2 := by
  unfold useHeader
  try dsimp only
  repeat' first
    | with_reducible assumption
    | with_reducible apply mendHeader_keeps

theorem logSoft_keeps {s0 : State} (s : State) (o : Origin) (slot owner va : Nat) (hk : Keeps s0 s) : Keeps s0 (logSoft s o slot owner va) := by
  unfold logSoft
  try dsimp only
  repeat' first
    | with_reducible assumption
    | with_reducible apply State_post_keeps

theorem writeHeader_keeps {s0 : State} (s : State) (key mask : Nat) (hk : Keeps s0 s) : Keeps s0 (writeHeader s key mask) := by
  unfold writeHeader
  try dsimp only
  repeat' first
    | with_reducible assumption
    | with_reducible apply writeNow_keeps

theorem auditPage_keeps {s0 : State} (s : State) (owner va : Nat) (hk : Keeps s0 s) : Keeps s0 (auditPage s owner va) := by
  unfold auditPage
  try dsimp only
  repeat' first
    | with_reducible assumption
    | with_reducible apply State_post_keeps
    | fail_if_no_progress with_reducible apply keeps_health

theorem setPage_keeps {s0 : State} (s : State) (owner va : Nat) (p : Option Page) (hk : Keeps s0 s) : Keeps s0 (setPage s owner va p) := by
  unfold setPage
  try dsimp only
  repeat' first
    | with_reducible assumption
    | (with_reducible refine keeps_modHub_same ?_ (by rfl))

theorem pageUp_keeps {s0 : State} (s : State) (owner va : Nat) (hk : Keeps s0 s) : KeepsExcP s0 (pageUp s owner va) := by
  unfold pageUp
  try dsimp only
  repeat' first
    | with_reducible assumption
    | with_reducible apply auditPage_keeps
    | with_reducible apply setPage_keeps
    | with_reducible apply keeps_ite
    | with_reducible apply keepsExcP_error
    | with_reducible apply keepsExcP_ok
    | split

theorem pageDown_keeps {s0 : State} (s : State) (owner va : Nat) (hk : Keeps s0 s) : KeepsExcP s0 (pageDown s owner va) := by
  unfold pageDown
  try dsimp only
  repeat' first
    | with_reducible assumption
    | with_reducible apply heapFree_keeps
    | with_reducible apply auditPage_keeps
    | with_reducible apply setPage_keeps
    | with_reducible apply keeps_ite
    | with_reducible apply keepsExcP_error
    | with_reducible apply keepsExcP_ok
    | split

theorem takeRung_keeps {s0 : State} (s : State) (p : Span) (k base size : Nat) (hk : Keeps s0 s) : Keeps s0 (takeRung s p k base size).2 := by
  unfold takeRung
  try dsimp only
  repeat' first
    | with_reducible assumption
    | (with_reducible refine keeps_modHub_same ?_ (by rfl))

theorem takePages_keeps {s0 : State} (s : State) (job n : Nat) (hk : Keeps s0 s) : KeepsExcP s0 (takePages s job n) := by
  induction n generalizing s with
  | zero => exact keepsExcP_ok hk
  | succ n ih =>
    unfold takePages
    dsimp only
    split
    · exact keepsExcP_error
    · have h1 := (heapTake_keeps _ _ _ hk).keeps _ _ ‹_›
      split
      · exact keepsExcP_error
      · exact keepsExcP_ok ((ih _ (setPage_keeps _ _ _ _ h1)).keeps _ _ ‹_›)

theorem freeRungHandle_keeps {s0 : State} (s : State) (h : Nat) (hk : Keeps s0 s) : Keeps s0 (freeRungHandle s h) := by
  unfold freeRungHandle
  try dsimp only
  repeat' first
    | with_reducible assumption
    | with_reducible apply failWaits_keeps
    | with_reducible apply heapFree_keeps
    | with_reducible apply pageDown_keeps
    | with_reducible apply keeps_ite
    | (with_reducible refine keeps_modHub_same ?_ (by rfl))
    | (with_reducible refine keeps_foldl ?_ ?_)
    | (with_reducible refine keeps_of_excP (by with_reducible assumption) ?_)
    | split
    | (intro _ _ _; try dsimp only)

end Sys2Proof.Machine
end

