-- ==== Sys2Proof/Laws/KeepsStreams.lean ====
section
/-!
SUPPORT. What the operations of Machine/Streams.lean keep.
-/
namespace Sys2Proof.Machine
open Sys2Proof.Safety

/-- Every state that what a request gives holds: a part of an access as well as a value. -/
structure KeepsGot {α : Type} (s0 : State) (g : Got α) : Prop where
  keeps : ∀ v t, g = .ok v t → Keeps s0 t
  made : ∀ v t, g = .part v t → Keeps s0 t

theorem keepsGot_wait {α : Type} {s0 : State} : KeepsGot (α := α) s0 .wait := ⟨(by intro v t h; cases h), (by intro v t h; cases h)⟩
theorem keepsGot_refill {α : Type} {s0 : State} {a b : Nat} : KeepsGot (α := α) s0 (.refill a b) :=
  ⟨(by intro v t h; cases h), (by intro v t h; cases h)⟩
theorem keepsGot_err {α : Type} {s0 : State} {c : Code} {a b : Nat} : KeepsGot (α := α) s0 (.err c a b) :=
  ⟨(by intro v t h; cases h), (by intro v t h; cases h)⟩
theorem keepsGot_ok {α : Type} {s0 t : State} {v : α} (h : Keeps s0 t) : KeepsGot s0 (.ok v t) :=
  ⟨(by intro u w e; cases e; exact h), (by intro v t h; cases h)⟩
theorem keepsGot_part {α : Type} {s0 t : State} {v : List Byte} (h : Keeps s0 t) : KeepsGot (α := α) s0 (.part v t) :=
  ⟨(by intro v t h; cases h), (by intro u w e; cases e; exact h)⟩
theorem keepsGot_then {α β : Type} {s0 : State} {g : Got α} {f : α → State → Got β} (h : KeepsGot s0 g)
    (hf : ∀ v t, Keeps s0 t → KeepsGot s0 (f v t)) : KeepsGot s0 (g.then_ f) := by
  cases g with
  | wait => exact keepsGot_wait
  | refill => exact keepsGot_refill
  | err => exact keepsGot_err
  | part v t => exact keepsGot_part (h.made v t rfl)
  | ok v t => exact hf v t (h.keeps v t rfl)
theorem keeps_of_got {α : Type} {s0 t : State} {g : Got α} {v : α} (e : g = .ok v t) (h : KeepsGot s0 g) : Keeps s0 t := h.keeps v t e
theorem keeps_of_part {α : Type} {s0 t : State} {g : Got α} {v : List Byte} (e : g = .part v t) (h : KeepsGot s0 g) : Keeps s0 t :=
  h.made v t e

theorem State_modRun_keeps {s0 : State} (s : State) (n k : Nat) (f : Run → Run) (hk : Keeps s0 s) : Keeps s0 (State.modRun s n k f) := by
  unfold State.modRun
  try dsimp only
  repeat' first
    | with_reducible assumption
    | with_reducible apply State_modStrm_keeps



theorem readThrough_keeps {s0 : State} (s : State) (n k job h va len : Nat) (check : Except Code Unit) (hk : Keeps s0 s) : KeepsGot s0 (readThrough s n k job h va len check) := by
  unfold readThrough
  try dsimp only
  repeat' first
    | with_reducible assumption
    | with_reducible apply keepsGot_wait
    | with_reducible apply keepsGot_refill
    | with_reducible apply keepsGot_err
    | with_reducible apply keepsGot_ok
    | with_reducible apply keepsGot_part
    | with_reducible apply readMem_keeps
    | with_reducible apply State_reach_keeps
    | split

theorem readBuffer_keeps {s0 : State} (s : State) (n k h off len : Nat) (kinds : List Nat) (hk : Keeps s0 s) : KeepsGot s0 (readBuffer s n k h off len kinds) := by
  unfold readBuffer
  try dsimp only
  repeat' first
    | with_reducible assumption
    | with_reducible apply keepsGot_err
    | with_reducible apply readThrough_keeps
    | split

theorem writeLine_keeps {s0 : State} (s : State) (n k rd : Nat) (shadow : Option (Nat × Nat)) (key : Nat) (bytes : List Byte) (hk : Keeps s0 s) : Keeps s0 (writeLine s n k rd shadow key bytes).2 := by
  unfold writeLine
  try dsimp only
  repeat' first
    | with_reducible assumption
    | with_reducible apply logItem_keeps
    | with_reducible apply keeps_freshFor
    | split
    | dsimp only
    | fail_if_no_progress (with_reducible refine keeps_ms ?_ (by first | rfl | with_unfolding_all rfl | (simp only [join_mem]; done)) (by first | rfl | with_unfolding_all rfl | (simp only [join_base]; done)))

theorem writeBuffer_keeps {s0 : State} (s : State) (n k h off rd : Nat) (shadow : Bool) (bytes : List Byte) (hk : Keeps s0 s) : KeepsGot s0 (writeBuffer s n k h off rd shadow bytes) := by
  unfold writeBuffer
  try dsimp only
  repeat' first
    | with_reducible assumption
    | with_reducible apply keepsGot_refill
    | with_reducible apply keepsGot_err
    | with_reducible apply keepsGot_ok
    | with_reducible apply keepsGot_part
    | with_reducible apply State_modRun_keeps
    | with_reducible apply writeLine_keeps
    | split

theorem produceLine_keeps {s0 : State} (v : SV) (r : Run) (s : State) (hk : Keeps s0 s) : KeepsGot s0 (produceLine v r s) := by
  unfold produceLine
  try dsimp only
  repeat' first
    | with_reducible assumption
    | with_reducible apply keepsGot_ok
    | with_reducible apply keepsGot_then
    | with_reducible apply readBuffer_keeps
    | split
    | (intro _ _ _; try dsimp only)

theorem withShape_keeps {s0 : State} (v : SV) (r : Run) (s : State) (f : Nat → Got Run) (hk : Keeps s0 s) (hk_f : ∀ x0, KeepsGot s0 (f x0)) : KeepsGot s0 (withShape v r s f) := by
  unfold withShape
  try dsimp only
  repeat' first
    | with_reducible assumption
    | with_reducible apply keepsGot_err
    | with_reducible apply keepsGot_ok
    | with_reducible apply keepsGot_then
    | with_reducible apply readBuffer_keeps
    | with_reducible apply hk_f
    | split
    | (intro _ _ _; try dsimp only)

theorem produceGrid_keeps {s0 : State} (v : SV) (r : Run) (s : State) (hk : Keeps s0 s) : KeepsGot s0 (produceGrid v r s) := by
  unfold produceGrid
  try dsimp only
  repeat' first
    | with_reducible assumption
    | with_reducible apply keepsGot_ok
    | with_reducible apply keepsGot_then
    | with_reducible apply readBuffer_keeps
    | with_reducible apply withShape_keeps
    | split
    | (intro _ _ _; try dsimp only)
    | (intro _; try dsimp only)

theorem readRow_keeps {s0 : State} (v : SV) (r : Run) (s : State) (hk : Keeps s0 s) : KeepsGot s0 (readRow v r s) := by
  unfold readRow
  try dsimp only
  repeat' first
    | with_reducible assumption
    | with_reducible apply keepsGot_ok
    | with_reducible apply keepsGot_then
    | with_reducible apply readBuffer_keeps
    | (intro _ _ _; try dsimp only)

theorem openLanes_keeps {s0 : State} (s : State) (used : Nat) (hk : Keeps s0 s) : Keeps s0 (openLanes s used).2 := by
  unfold openLanes
  try dsimp only
  repeat' first
    | with_reducible assumption
    | fail_if_no_progress with_reducible apply keeps_my

theorem produceCsr_keeps {s0 : State} (v : SV) (r : Run) (s : State) (hk : Keeps s0 s) : KeepsGot s0 (produceCsr v r s) := by
  unfold produceCsr
  try dsimp only
  repeat' first
    | with_reducible assumption
    | with_reducible apply keepsGot_ok
    | with_reducible apply keepsGot_then
    | with_reducible apply readBuffer_keeps
    | with_reducible apply readRow_keeps
    | with_reducible apply openLanes_keeps
    | split
    | (intro _ _ _; try dsimp only)

theorem produceBsr_keeps {s0 : State} (v : SV) (r : Run) (s : State) (hk : Keeps s0 s) : KeepsGot s0 (produceBsr v r s) := by
  unfold produceBsr
  try dsimp only
  repeat' first
    | with_reducible assumption
    | with_reducible apply keepsGot_ok
    | with_reducible apply keepsGot_then
    | with_reducible apply readBuffer_keeps
    | with_reducible apply readRow_keeps
    | split
    | (intro _ _ _; try dsimp only)

theorem produceDesc_keeps {s0 : State} (v : SV) (r : Run) (s : State) (hk : Keeps s0 s) : KeepsGot s0 (produceDesc v r s) := by
  unfold produceDesc
  try dsimp only
  repeat' first
    | with_reducible assumption
    | with_reducible apply keepsGot_err
    | with_reducible apply keepsGot_ok
    | with_reducible apply keepsGot_then
    | with_reducible apply readBuffer_keeps
    | split
    | (intro _ _ _; try dsimp only)

theorem gatherPack_keeps {s0 : State} (v : SV) (r : Run) (elem : List Byte) (flags : Nat) (s : State) (hk : Keeps s0 s) : KeepsGot s0 (gatherPack v r elem flags s) := by
  unfold gatherPack
  try dsimp only
  repeat' first
    | with_reducible assumption
    | with_reducible apply keepsGot_ok
    | split

theorem produceGather_keeps {s0 : State} (v : SV) (r : Run) (s : State) (hk : Keeps s0 s) : KeepsGot s0 (produceGather v r s) := by
  unfold produceGather
  try dsimp only
  repeat' first
    | with_reducible assumption
    | with_reducible apply keepsGot_err
    | with_reducible apply keepsGot_ok
    | with_reducible apply keepsGot_then
    | with_reducible apply readBuffer_keeps
    | with_reducible apply gatherPack_keeps
    | split
    | (intro _ _ _; try dsimp only)

theorem produceIsect_keeps {s0 : State} (v : SV) (r : Run) (s : State) (hk : Keeps s0 s) : KeepsGot s0 (produceIsect v r s) := by
  unfold produceIsect
  try dsimp only
  repeat' first
    | with_reducible assumption
    | with_reducible apply keepsGot_ok
    | with_reducible apply keepsGot_then
    | with_reducible apply readBuffer_keeps
    | split
    | (intro _ _ _; try dsimp only)

theorem snakeOpen_keeps {s0 : State} (v : SV) (r : Run) (s : State) (hk : Keeps s0 s) : KeepsGot s0 (snakeOpen v r s) := by
  unfold snakeOpen
  try dsimp only
  repeat' first
    | with_reducible assumption
    | with_reducible apply keepsGot_err
    | with_reducible apply keepsGot_ok
    | split

theorem snakePage_keeps {s0 : State} (v : SV) (r : Run) (s : State) (q : Nat) (hk : Keeps s0 s) : KeepsGot s0 (snakePage v r s q) := by
  unfold snakePage
  try dsimp only
  repeat' first
    | with_reducible assumption
    | with_reducible apply keepsGot_wait
    | with_reducible apply keepsGot_refill
    | with_reducible apply keepsGot_err
    | with_reducible apply keepsGot_ok
    | with_reducible apply keepsGot_then
    | with_reducible apply State_reach_keeps
    | with_reducible apply useHeader_keeps
    | with_reducible apply logSoft_keeps
    | with_reducible apply readThrough_keeps
    | with_reducible apply keeps_ite
    | split
    | (intro _ _ _; try dsimp only)

theorem snakeFromPage_keeps {s0 : State} (v : SV) (r : Run) (s : State) (p : Nat) (hk : Keeps s0 s) : KeepsGot s0 (snakeFromPage v r s p) := by
  unfold snakeFromPage
  try dsimp only
  repeat' first
    | with_reducible assumption
    | with_reducible apply keepsGot_wait
    | with_reducible apply keepsGot_refill
    | with_reducible apply keepsGot_err
    | with_reducible apply keepsGot_ok
    | with_reducible apply readMem_keeps
    | with_reducible apply State_reach_keeps
    | with_reducible apply logSoft_keeps
    | with_reducible apply keeps_ite
    | split

theorem snakeFromTile_keeps {s0 : State} (v : SV) (r : Run) (s : State) (p m : Nat) (hk : Keeps s0 s) : KeepsGot s0 (snakeFromTile v r s p m) := by
  unfold snakeFromTile
  try dsimp only
  repeat' first
    | with_reducible assumption
    | with_reducible apply keepsGot_err
    | with_reducible apply keepsGot_ok
    | split

theorem produceSnake_keeps {s0 : State} (v : SV) (r : Run) (s : State) (hk : Keeps s0 s) : KeepsGot s0 (produceSnake v r s) := by
  unfold produceSnake
  try dsimp only
  repeat' first
    | with_reducible assumption
    | with_reducible apply keepsGot_wait
    | with_reducible apply keepsGot_err
    | with_reducible apply snakeOpen_keeps
    | with_reducible apply snakePage_keeps
    | with_reducible apply snakeFromPage_keeps
    | with_reducible apply snakeFromTile_keeps
    | split

theorem produce_keeps {s0 : State} (v : SV) (r : Run) (s : State) (hk : Keeps s0 s) : KeepsGot s0 (produce v r s) := by
  unfold produce
  try dsimp only
  repeat' first
    | with_reducible assumption
    | with_reducible apply produceLine_keeps
    | with_reducible apply produceGrid_keeps
    | with_reducible apply produceCsr_keeps
    | with_reducible apply produceBsr_keeps
    | with_reducible apply produceDesc_keeps
    | with_reducible apply produceGather_keeps
    | with_reducible apply produceIsect_keeps
    | with_reducible apply produceSnake_keeps
    | split

theorem sendStrm_keeps {s0 : State} (s : State) (v : SV) (j : Nat) (kind : TKind) (round : Nat) (payload : Line) (last : Bool) (hk : Keeps s0 s) : Keeps s0 (sendStrm s v j kind round payload last) := by
  unfold sendStrm
  try dsimp only
  repeat' first
    | with_reducible assumption
    | with_reducible apply logReplay_keeps
    | with_reducible apply sendAll_keeps

theorem deliverOne_keeps {s0 : State} (v : SV) (r : Run) (s : State) (hk : Keeps s0 s) : KeepsGot s0 (deliverOne v r s) := by
  unfold deliverOne
  try dsimp only
  repeat' first
    | with_reducible assumption
    | with_reducible apply keepsGot_wait
    | with_reducible apply keepsGot_err
    | with_reducible apply keepsGot_ok
    | with_reducible apply bankWrite_keeps
    | with_reducible apply ringPushOne_keeps
    | with_reducible apply sendStrm_keeps
    | split

theorem request0_keeps {s0 : State} (v : SV) (r : Run) (s : State) (hk : Keeps s0 s) : KeepsGot s0 (request0 v r s) := by
  unfold request0
  try dsimp only
  repeat' first
    | with_reducible assumption
    | with_reducible apply keepsGot_wait
    | with_reducible apply keepsGot_ok
    | with_reducible apply produce_keeps
    | with_reducible apply sendStrm_keeps
    | with_reducible apply deliverOne_keeps
    | (with_reducible refine keeps_foldl ?_ ?_)
    | split
    | (intro _ _ _; try dsimp only)

theorem takeUnit_keeps {s0 : State} (v : SV) (r : Run) (s : State) (hk : Keeps s0 s) : KeepsGot s0 (takeUnit v r s) := by
  unfold takeUnit
  try dsimp only
  repeat' first
    | with_reducible assumption
    | with_reducible apply keepsGot_wait
    | with_reducible apply keepsGot_err
    | with_reducible apply keepsGot_ok
    | with_reducible apply noteSeen_keeps
    | with_reducible apply popTokens_keeps
    | split

theorem putUnit_keeps {s0 : State} (v : SV) (r : Run) (s : State) (hk : Keeps s0 s) : KeepsGot s0 (putUnit v r s) := by
  unfold putUnit
  try dsimp only
  repeat' first
    | with_reducible assumption
    | with_reducible apply keepsGot_ok
    | with_reducible apply keepsGot_then
    | with_reducible apply writeBuffer_keeps
    | with_reducible apply withShape_keeps
    | split
    | (intro _ _ _; try dsimp only)
    | (intro _; try dsimp only)

theorem request1_keeps {s0 : State} (v : SV) (r : Run) (s : State) (hk : Keeps s0 s) : KeepsGot s0 (request1 v r s) := by
  unfold request1
  try dsimp only
  repeat' first
    | with_reducible assumption
    | with_reducible apply keepsGot_wait
    | with_reducible apply keepsGot_ok
    | with_reducible apply takeUnit_keeps
    | with_reducible apply putUnit_keeps
    | split

theorem redeliver_keeps {s0 : State} (s : State) (n k : Nat) (x : Nat × Token) (hk : Keeps s0 s) : Keeps s0 (redeliver s n k x) := by
  unfold redeliver
  try dsimp only
  repeat' first
    | with_reducible assumption
    | with_reducible apply sendAll_keeps
    | with_reducible apply State_modStrm_keeps
    | with_reducible apply keeps_ite

theorem execStreamRequest_keeps {s0 : State} (s : State) (hk : Keeps s0 s) : KeepsOut s0 (execStreamRequest s) := by
  unfold execStreamRequest
  try dsimp only
  repeat' first
    | with_reducible assumption
    | (with_reducible refine keeps_of_got (by with_reducible assumption) ?_)
    | (with_reducible refine keeps_of_part (by with_reducible assumption) ?_)
    | with_reducible apply popTokens_keeps
    | with_reducible apply State_usePort_keeps
    | with_reducible apply State_modRun_keeps
    | with_reducible apply request0_keeps
    | with_reducible apply request1_keeps
    | with_reducible apply redeliver_keeps
    | with_reducible apply keeps_ite
    | with_reducible apply keeps_fresh
    | with_reducible apply keepsOut_nextState
    | split

theorem execTranslationRefill_keeps {s0 : State} (s : State) (hk : Keeps s0 s) : KeepsOut s0 (execTranslationRefill s) := by
  unfold execTranslationRefill
  try dsimp only
  repeat' first
    | with_reducible assumption
    | with_reducible apply refill_keeps
    | with_reducible apply State_modRun_keeps
    | with_reducible apply keeps_ite
    | with_reducible apply keepsOut_nextState
    | (with_reducible refine keeps_of_pair (by with_reducible assumption) ?_)
    | split

theorem askHandles_keeps {s0 : State} (s : State) (l : List (Nat × Nat)) (hk : Keeps s0 s) : Keeps s0 (askHandles s l).2 := by
  induction l generalizing s with
  | nil => exact hk
  | cons x rest ih => exact ih _ (keeps_fresh hk)

theorem execStreamRunBegin_keeps {s0 : State} (s : State) (hk : Keeps s0 s) : KeepsOut s0 (execStreamRunBegin s) := by
  unfold execStreamRunBegin
  try dsimp only
  repeat' first
    | with_reducible assumption
    | with_reducible apply State_modStrm_keeps
    | with_reducible apply askHandles_keeps
    | with_reducible apply keeps_ite
    | with_reducible apply keepsOut_nextState

theorem endRoles_keeps {s0 : State} (s : State) (job : Nat) (r : Run) (fin consume : Bool) (hk : Keeps s0 s) : Keeps s0 (endRoles s job r fin consume) := by
  unfold endRoles
  try dsimp only
  repeat' first
    | with_reducible assumption
    | with_reducible apply endRole_keeps
    | (with_reducible refine keeps_foldl ?_ ?_)
    | split
    | (intro _ _ _; try dsimp only)
    | fail_if_no_progress (with_reducible refine keeps_ms ?_ (by first | rfl | with_unfolding_all rfl | (simp only [join_mem]; done)) (by first | rfl | with_unfolding_all rfl | (simp only [join_base]; done)))

theorem copyEnded_keeps {s0 : State} (s : State) (n k launch : Nat) (hk : Keeps s0 s) : Keeps s0 (copyEnded s n k launch) := by
  unfold copyEnded
  try dsimp only
  repeat' first
    | with_reducible assumption
    | (with_reducible refine keeps_modHub_same ?_ (by rfl))

theorem execStreamRunEnd_keeps {s0 : State} (s : State) (hk : Keeps s0 s) : KeepsOut s0 (execStreamRunEnd s) := by
  unfold execStreamRunEnd
  try dsimp only
  repeat' first
    | with_reducible assumption
    | with_reducible apply State_modRegs_keeps
    | with_reducible apply State_modStrm_keeps
    | with_reducible apply endRoles_keeps
    | with_reducible apply copyEnded_keeps
    | with_reducible apply keeps_ite
    | with_reducible apply keeps_modBu
    | with_reducible apply keepsOut_nextState
    | (intro _ hb; exact hb)
    | split

theorem stopRun_keeps {s0 : State} (s : State) (n k : Nat) (r : Run) (hk : Keeps s0 s) : Keeps s0 (stopRun s n k r) := by
  unfold stopRun
  try dsimp only
  repeat' first
    | with_reducible assumption
    | with_reducible apply State_modStrm_keeps
    | with_reducible apply leavePlace_keeps
    | with_reducible apply endRoles_keeps
    | (with_reducible refine keeps_foldl ?_ ?_)
    | (intro _ _ _; try dsimp only)

theorem postRun_keeps {s0 : State} (s : State) (n k : Nat) (r : Run) (code address extra : Nat) (hk : Keeps s0 s) : Keeps s0 (postRun s n k r code address extra) := by
  unfold postRun
  try dsimp only
  repeat' first
    | with_reducible assumption
    | with_reducible apply State_post_keeps

theorem execStreamRunFail_keeps {s0 : State} (s : State) (hk : Keeps s0 s) : KeepsOut s0 (execStreamRunFail s) := by
  unfold execStreamRunFail
  try dsimp only
  repeat' first
    | with_reducible assumption
    | with_reducible apply logItem_keeps
    | with_reducible apply stopRun_keeps
    | with_reducible apply postRun_keeps
    | with_reducible apply keeps_ite
    | with_reducible apply keepsOut_nextState
    | split

end Sys2Proof.Machine
end

