-- ==== Sys2Proof/Laws/KeepsRollback.lean ====
section
/-!
SUPPORT. What the operations of Machine/Rollback.lean keep.
-/
namespace Sys2Proof.Machine
open Sys2Proof.Safety

theorem Bu.undo_wf {b : Bu} (hb : Memory.wf b.bank = true) : Memory.wf b.undo.bank = true := by
  have h : ∀ (l : List LogEnt) (m : Memory), Memory.wf m = true →
      Memory.wf (l.foldl (fun m e => match e.item with | .undo l old => m.writeBytes (64 * l) old | _ => m) m) = true := by
    intro l
    induction l with
      | nil => intro m hm; exact hm
      | cons e rest ih =>
        intro m hm
        refine ih _ ?_
        dsimp only
        split
        · exact Memory.wf_writeBytes _ _ hm
        · exact hm
  exact h _ _ hb

theorem rewindStrm_keeps {s0 : State} (s : State) (r : Region) (n k : Nat) (hk : Keeps s0 s) : Keeps s0 (rewindStrm s r n k) := by
  unfold rewindStrm
  try dsimp only
  repeat' first
    | with_reducible assumption
    | with_reducible apply State_modStrm_keeps
    | with_reducible apply askHandles_keeps
    | with_reducible apply keeps_ite
    | with_reducible apply keeps_modBu
    | (intro _ hb; exact hb)
    | split

theorem dropLines_keeps {s0 : State} (before s : State) (ns : List Nat) (hk : Keeps s0 before) (hk : Keeps s0 s) : Keeps s0 (dropLines before s ns) := by
  unfold dropLines
  try dsimp only
  repeat' first
    | with_reducible assumption
    | with_reducible apply endRole_keeps
    | with_reducible apply keeps_ite
    | (with_reducible refine keeps_foldl ?_ ?_)
    | split
    | (intro _ _ _; try dsimp only)
    | fail_if_no_progress (with_reducible refine keeps_ms ?_ (by first | rfl | with_unfolding_all rfl | (simp only [join_mem]; done)) (by first | rfl | with_unfolding_all rfl | (simp only [join_base]; done)))

theorem dropHeld_keeps {s0 : State} (s : State) (ns : List Nat) (hk : Keeps s0 s) : Keeps s0 (dropHeld s ns) := by
  unfold dropHeld
  try dsimp only
  repeat' first
    | with_reducible assumption
    | (with_reducible refine keeps_modHub_same ?_ (by rfl))

theorem State_dropRounds_keeps {s0 : State} (s : State) (r : Region) (hk : Keeps s0 s) : Keeps s0 (State.dropRounds s r) := by
  unfold State.dropRounds
  try dsimp only
  repeat' first
    | with_reducible assumption
    | with_reducible apply State_abortBlock_keeps
    | with_reducible apply State_modNet_keeps
    | with_reducible apply rewindStrm_keeps
    | with_reducible apply dropLines_keeps
    | with_reducible apply dropHeld_keeps
    | with_reducible apply Bu.undo_wf
    | with_reducible apply keeps_ite
    | with_reducible apply keeps_modCtx
    | with_reducible apply keeps_modBu
    | (with_reducible refine keeps_foldl ?_ ?_)
    | (intro _ hb; exact hb)
    | (intro _ _ _; try dsimp only)

theorem restoreCtx_keeps {s0 : State} (s : State) (r : Region) (n k : Nat) (hk : Keeps s0 s) : Keeps s0 (restoreCtx s r n k) := by
  unfold restoreCtx
  try dsimp only
  repeat' first
    | with_reducible assumption
    | with_reducible apply enterBlock_keeps
    | with_reducible apply settleEnding_keeps
    | with_reducible apply keeps_ite
    | with_reducible apply keeps_modCtx
    | split

theorem dropReads_keeps {s0 : State} (s : State) (ns : List Nat) (hk : Keeps s0 s) : Keeps s0 (dropReads s ns) := by
  unfold dropReads
  try dsimp only
  repeat' first
    | with_reducible assumption
    | (with_reducible refine keeps_modHub_same ?_ (by rfl))

theorem State_restoreRound_keeps {s0 : State} (s : State) (r : Region) (hk : Keeps s0 s) : Keeps s0 (State.restoreRound s r) := by
  unfold State.restoreRound
  try dsimp only
  repeat' first
    | with_reducible assumption
    | with_reducible apply restoreCtx_keeps
    | with_reducible apply dropReads_keeps
    | (with_reducible refine keeps_foldl ?_ ?_)
    | (intro _ _ _; try dsimp only)

theorem State_renameBus_keeps {s0 : State} (s : State) (f : Nat → Nat) (hk : Keeps s0 s) : Keeps s0 (s.renameBus f) := by
  refine ⟨hk.out, hk.windows, ⟨hk.wf.mem, hk.wf.base, ?_, hk.wf.saved⟩⟩
  intro e he
  obtain ⟨x, hx, rfl⟩ := List.mem_map.1 he
  exact hk.wf.banks x hx

end Sys2Proof.Machine
end

