-- ==== Sys2Proof/Laws/KeepsWork.lean ====
section
/-!
SUPPORT. What the operations of Machine/Work.lean keep.
-/
namespace Sys2Proof.Machine
open Sys2Proof.Safety

theorem pinHandlers_bank (im : Image) (image : Nat) (p : Nat × Nat × Nat) (b : Bu) : (pinHandlers im image p b).bank = b.bank := by
  unfold pinHandlers
  generalize im.blocksAt p.1 p.2.1 p.2.2 4 true = l
  induction l generalizing b with
  | nil => rfl
  | cons k rest ih => exact (ih _).trans rfl

theorem placedBu_wf {im : Image} {rid image mode : Nat} {p : Nat × Nat × Nat} {b : Bu} (hb : Memory.wf b.bank = true) :
    Memory.wf (placedBu im rid image mode p b).bank = true := by
  unfold placedBu
  rw [pinHandlers_bank]
  exact hb

theorem restoredBu_wf {im : Image} {r : Region} {mode : Nat} {p : Nat × Nat × Nat} {saved b : Bu} (hb : Memory.wf saved.bank = true) :
    Memory.wf (restoredBu im r mode p saved b).bank = true := by
  unfold restoredBu
  dsimp only
  split
  · dsimp only
    rw [pinHandlers_bank]
    exact hb
  · rw [pinHandlers_bank]
    exact hb

theorem saved_getD_wf {sv : Saved} (h : ∀ b ∈ sv.bus, Memory.wf b.bank = true) (i : Nat) :
    Memory.wf (sv.bus.getD i Bu.reset).bank = true := by
  rw [List.getD_eq_getElem?_getD]
  cases e : sv.bus[i]? with
  | none => rfl
  | some b => exact h b (List.mem_of_getElem? e)

theorem State_stampNow_keeps {s0 : State} (s : State) (hk : Keeps s0 s) : Keeps s0 (State.stampNow s).2 := by
  unfold State.stampNow
  try dsimp only
  repeat' first
    | with_reducible assumption
    | with_reducible apply keeps_fresh

theorem State_leavePool_keeps {s0 : State} (s : State) (p : Nat) (gs : List Nat) (hk : Keeps s0 s) : Keeps s0 (State.leavePool s p gs) := by
  unfold State.leavePool
  try dsimp only
  repeat' first
    | with_reducible assumption
    | (with_reducible refine keeps_modHub_same ?_ (by rfl))

theorem startJob_keeps {s0 : State} (s : State) (id n : Nat) (hk : Keeps s0 s) : KeepsOpt s0 (startJob s id n) := by
  unfold startJob
  try dsimp only
  repeat' first
    | with_reducible assumption
    | (with_reducible refine keeps_modHub_same ?_ (by rfl))
    | with_reducible apply keepsOpt_none
    | with_reducible apply keepsOpt_some
    | split

theorem State_modJob_keeps {s0 : State} (s : State) (id : Nat) (f : Job → Job) (hk : Keeps s0 s) : Keeps s0 (State.modJob s id f) := by
  unfold State.modJob
  try dsimp only
  repeat' first
    | with_reducible assumption
    | (with_reducible refine keeps_modHub_same ?_ (by rfl))

theorem State_modLaunch_keeps {s0 : State} (s : State) (id : Nat) (f : Launch → Launch) (hk : Keeps s0 s) : Keeps s0 (State.modLaunch s id f) := by
  unfold State.modLaunch
  try dsimp only
  repeat' first
    | with_reducible assumption
    | (with_reducible refine keeps_modHub_same ?_ (by rfl))

theorem wakeCounter_keeps {s0 : State} (s : State) (k : Nat) (hk : Keeps s0 s) : Keeps s0 (wakeCounter s k) := by
  unfold wakeCounter
  try dsimp only
  repeat' first
    | with_reducible assumption
    | (with_reducible refine keeps_modHub_same ?_ (by rfl))

theorem addCounter_keeps {s0 : State} (s : State) (job i n : Nat) (rels : List (Party × Nat × List Nat)) (hk : Keeps s0 s) : KeepsOpt s0 (addCounter s job i n rels) := by
  unfold addCounter
  try dsimp only
  repeat' first
    | with_reducible assumption
    | with_reducible apply wakeCounter_keeps
    | (with_reducible refine keeps_modHub_same ?_ (by rfl))
    | with_reducible apply keepsOpt_none
    | with_reducible apply keepsOpt_some
    | split

theorem countOn_keeps {s0 : State} (s : State) (job i : Nat) (rels : List (Party × Nat × List Nat)) (hk : Keeps s0 s) : Keeps s0 (countOn s job i rels) := by
  unfold countOn
  try dsimp only
  repeat' first
    | with_reducible assumption
    | with_reducible apply addCounter_keeps
    | with_reducible apply keepsOpt_getD

theorem addRegion_keeps {s0 : State} (s : State) (r : Region) (hr : r.SavedOk) (hk : Keeps s0 s) : Keeps s0 (addRegion s r).2 := by
  refine keeps_modHub (f := fun h => { h with nextRegion := s.hub.nextRegion + 1, regions := mapSet s.hub.nextRegion { r with id := s.hub.nextRegion } h.regions }) hk ?_
  intro e he
  rcases mem_mapSet he with he | he
  · subst he; exact hr
  · exact hk.savedOk e he

theorem needRegion_keeps {s0 : State} (s : State) (image job pool : Nat) (hk : Keeps s0 s) : Keeps s0 (needRegion s image job pool).2 := by
  unfold needRegion
  try dsimp only
  repeat' first
    | with_reducible assumption
    | with_reducible apply addRegion_keeps
    | (with_reducible refine Region.savedOk_none (by with_unfolding_all rfl))
    | split

theorem startWaiting_keeps {s0 : State} (s : State) (rid : Nat) (hk : Keeps s0 s) : Keeps s0 (startWaiting s rid) := by
  unfold startWaiting
  try dsimp only
  repeat' first
    | with_reducible assumption
    | with_reducible apply State_stampNow_keeps
    | with_reducible apply keeps_ite
    | with_reducible apply keeps_modRegion
    | (with_reducible refine Region.savedOk_same (by with_reducible assumption) (by with_unfolding_all rfl))
    | (with_reducible intro _; with_reducible intro (_ : Region.SavedOk _); try dsimp only)
    | split

theorem needTwin_keeps {s0 : State} (s : State) (rid : Nat) (hk : Keeps s0 s) : Keeps s0 (needTwin s rid) := by
  unfold needTwin
  try dsimp only
  repeat' first
    | with_reducible assumption
    | with_reducible apply addRegion_keeps
    | with_reducible apply startWaiting_keeps
    | with_reducible apply keeps_ite
    | with_reducible apply keeps_modRegion
    | (with_reducible refine keeps_foldl ?_ ?_)
    | (with_reducible refine Region.savedOk_same (by with_reducible assumption) (by with_unfolding_all rfl))
    | (with_reducible refine Region.savedOk_none (by with_unfolding_all rfl))
    | (with_reducible intro _; with_reducible intro (_ : Region.SavedOk _); try dsimp only)
    | split

theorem queueLaunch_keeps {s0 : State} (s : State) (l : Launch) (rid : Nat) (hk : Keeps s0 s) : Keeps s0 (queueLaunch s l rid).2 := by
  unfold queueLaunch
  try dsimp only
  repeat' first
    | with_reducible assumption
    | with_reducible apply State_modJob_keeps
    | with_reducible apply startWaiting_keeps
    | with_reducible apply needTwin_keeps
    | with_reducible apply keeps_ite
    | (with_reducible refine keeps_modHub_same ?_ (by rfl))
    | with_reducible apply keeps_modRegion
    | (with_reducible refine Region.savedOk_same (by with_reducible assumption) (by with_unfolding_all rfl))
    | (with_reducible intro _; with_reducible intro (_ : Region.SavedOk _); try dsimp only)

theorem rejectLaunch_keeps {s0 : State} (s : State) (j : Job) (r : LaunchRec) (c : Code) (hk : Keeps s0 s) : Keeps s0 (rejectLaunch s j r c) := by
  unfold rejectLaunch
  try dsimp only
  repeat' first
    | with_reducible assumption
    | with_reducible apply State_postTo_keeps

theorem submitLaunch_keeps {s0 : State} (s : State) (j : Job) (n : Nat) (gang dual : Bool) (hk : Keeps s0 s) : Keeps s0 (submitLaunch s j n gang dual).2 := by
  unfold submitLaunch
  try dsimp only
  repeat' first
    | with_reducible assumption
    | with_reducible apply needRegion_keeps
    | with_reducible apply queueLaunch_keeps
    | with_reducible apply rejectLaunch_keeps
    | split

theorem execLaunchArrival_keeps {s0 : State} (s : State) (hk : Keeps s0 s) : KeepsOut s0 (execLaunchArrival s) := by
  unfold execLaunchArrival
  try dsimp only
  repeat' first
    | with_reducible assumption
    | with_reducible apply State_reply_keeps
    | with_reducible apply State_failReq_keeps
    | with_reducible apply submitLaunch_keeps
    | with_reducible apply keeps_ite
    | with_reducible apply keepsOut_nextState
    | (with_reducible refine keeps_of_pair (by with_reducible assumption) ?_)
    | split

theorem startPreempt_keeps {s0 : State} (s : State) (r : Region) (hk : Keeps s0 s) : Keeps s0 (startPreempt s r) := by
  unfold startPreempt
  try dsimp only
  repeat' first
    | with_reducible assumption
    | with_reducible apply State_startWave_keeps
    | (with_reducible refine keeps_foldl ?_ ?_)
    | (intro _ _ _; try dsimp only)

theorem State_dropCursors_keeps {s0 : State} (s : State) (ns : List Nat) (hk : Keeps s0 s) : Keeps s0 (State.dropCursors s ns) := by
  unfold State.dropCursors
  try dsimp only
  repeat' first
    | with_reducible assumption
    | fail_if_no_progress with_reducible apply keeps_my

theorem chargeBuild_keeps {s0 : State} (s : State) (r : Region) (hk : Keeps s0 s) : Keeps s0 (chargeBuild s r) := by
  unfold chargeBuild
  try dsimp only
  repeat' first
    | with_reducible assumption
    | (with_reducible refine keeps_modHub_same ?_ (by rfl))
    | split

theorem saveRegion_keeps {s0 : State} (s : State) (r : Region) (save : Bool) (hk : Keeps s0 s) : Keeps s0 (saveRegion s r save) := by
  unfold saveRegion
  try dsimp only
  repeat' first
    | with_reducible assumption
    | with_reducible apply writeVa_keeps
    | with_reducible apply State_dropRounds_keeps
    | with_reducible apply State_renameBus_keeps
    | with_reducible apply State_stampNow_keeps
    | with_reducible apply State_dropCursors_keeps
    | with_reducible apply chargeBuild_keeps
    | with_reducible apply keeps_ite
    | with_reducible apply keeps_modBu
    | with_reducible apply keeps_modRegion
    | (with_reducible refine keeps_foldl ?_ ?_)
    | (with_reducible refine keeps_of_exc (by with_reducible assumption) ?_)
    | (with_reducible refine Region.savedOk_bus (s0 := s0) ?_ (by with_unfolding_all rfl))
    | (with_reducible intro _; with_reducible intro (_ : Region.SavedOk _); try dsimp only)
    | (intro _ hb; exact hb)
    | split
    | (intro _ _ _; try dsimp only)

theorem preemptNow_keeps {s0 : State} (s : State) (r : Region) (hk : Keeps s0 s) : Keeps s0 (preemptNow s r) := by
  unfold preemptNow
  try dsimp only
  repeat' first
    | with_reducible assumption
    | with_reducible apply State_thawBu_keeps
    | with_reducible apply saveRegion_keeps
    | with_reducible apply keeps_ite
    | (with_reducible refine keeps_foldl ?_ ?_)
    | split
    | (intro _ _ _; try dsimp only)

theorem releaseRegion_keeps {s0 : State} (s : State) (rid : Nat) (hk : Keeps s0 s) : Keeps s0 (releaseRegion s rid) := by
  unfold releaseRegion
  try dsimp only
  repeat' first
    | with_reducible assumption
    | with_reducible apply State_modNet_keeps
    | with_reducible apply startWaiting_keeps
    | with_reducible apply State_dropCursors_keeps
    | with_reducible apply keeps_ite
    | with_reducible apply keeps_modBu
    | (with_reducible refine keeps_modHub_same ?_ (by rfl))
    | with_reducible apply keeps_modRegion
    | (with_reducible refine keeps_foldl ?_ ?_)
    | (with_reducible refine Region.savedOk_none (by with_unfolding_all rfl))
    | (with_reducible intro _; with_reducible intro (_ : Region.SavedOk _); try dsimp only)
    | (intro _ hb; exact hb)
    | split
    | (intro _ _ _; try dsimp only)

theorem placeFresh_keeps {s0 : State} (s : State) (r : Region) (im : Image) (pl : Place) (hk : Keeps s0 s) :
    Keeps s0 (placeFresh s r im pl) := by
  unfold placeFresh
  refine keeps_modRegion ?_ (fun g hg => Region.savedOk_same hg rfl)
  exact keeps_foldl hk (fun t x h => keeps_modBu h (fun b hb => placedBu_wf hb))

theorem reenter_keeps {s0 : State} (s : State) (n : Nat) (hk : Keeps s0 s) : Keeps s0 (reenter s n) := by
  unfold reenter
  try dsimp only
  repeat' first
    | with_reducible assumption
    | with_reducible apply enterBlock_keeps
    | with_reducible apply keeps_ite
    | (with_reducible refine keeps_foldl ?_ ?_)
    | (intro _ _ _; try dsimp only)

theorem placeSaved_keeps {s0 : State} (s : State) (r : Region) (im : Image) (pl : Place) (sv : Saved)
    (hsv : ∀ b ∈ sv.bus, Memory.wf b.bank = true) (hk : Keeps s0 s) : Keeps s0 (placeSaved s r im pl sv) := by
  unfold placeSaved
  dsimp only
  have h1 := keeps_foldl (s0 := s0) (l := withIndex 0 (boxOffsets im.dies im.width im.height)) (f := fun s o =>
    s.modBu (pl.bu o.2.1 o.2.2.1 o.2.2.2)
      (restoredBu im r (mapGetD (pl.bu o.2.1 o.2.2.1 o.2.2.2) s.out.health.modes 0) o.2 (sv.bus.getD o.1 Bu.reset))) hk
    (fun t x h => keeps_modBu h (fun b hb => restoredBu_wf (saved_getD_wf hsv _)))
  have h2 := keeps_modRegion (id := r.id) (f := fun g => { g with saved := none })
    (State_renameBus_keeps _ (renamedTo ((List.range ((boxOffsets im.dies im.width im.height).map
      (fun o => pl.bu o.1 o.2.1 o.2.2)).length).map (parkNum r.id)) ((boxOffsets im.dies im.width im.height).map
      (fun o => pl.bu o.1 o.2.1 o.2.2))) h1) (fun g _ => Region.savedOk_none rfl)
  have h3 (c : Nat) := keeps_modRegion (id := r.id) (f := fun g => { g with placedClock := c, rolledBack := false, idle := 0 }) h2
    (fun g hg => Region.savedOk_same hg rfl)
  refine keeps_ite (keeps_foldl (keeps_ite ?_ (keeps_foldl ?_ (fun t x h => reenter_keeps _ _ h)))
    (fun t x h => keeps_foldl h (fun t x h => State_thawBu_keeps _ _ _ h))) (keeps_ite ?_ (keeps_foldl ?_ (fun t x h => reenter_keeps _ _ h)))
  · exact State_restoreRound_keeps _ _ (h3 _)
  · exact h3 _
  · exact State_restoreRound_keeps _ _ (h3 _)
  · exact h3 _

theorem placeRegion_keeps {s0 : State} (s : State) (r : Region) (p : Plan) (hr : r.SavedOk) (hk : Keeps s0 s) :
    Keeps s0 (placeRegion s r p) := by
  unfold placeRegion
  split
  · exact hk
  split
  · exact hk
  have h1 := keeps_foldl (l := p.evict) (f := releaseRegion) hk (fun t x h => releaseRegion_keeps _ _ h)
  have h3 (t : Nat) := keeps_modRegion (id := r.id)
    (f := fun g => { g with place := some p.place, placedAt := t, waitSince := none, quantumUsed := 0, expired := false })
    (State_stampNow_keeps _ h1) (fun g hg => Region.savedOk_same hg rfl)
  dsimp only
  split
  · rename_i sv hsv
    exact placeSaved_keeps _ _ _ _ _ (hr sv hsv) (h3 _)
  · exact placeFresh_keeps _ _ _ _ (h3 _)

theorem execRegionPlacement_keeps {s0 : State} (s : State) (hk : Keeps s0 s) : KeepsOut s0 (execRegionPlacement s) := by
  unfold execRegionPlacement
  apply keepsOut_nextState
  refine keeps_ite hk ?_
  split
  · exact keeps_ite (preemptNow_keeps _ _ hk) hk
  · split
    · exact hk
    · split
      · exact placeRegion_keeps _ _ _ (savedOk_region hk ‹_›) hk
      · exact hk
    · split
      · exact startPreempt_keeps _ _ hk
      · exact hk
    · exact State_leavePool_keeps _ _ _ hk

theorem startInstance_keeps {s0 : State} (s : State) (l : Launch) (n slot : Nat) (hk : Keeps s0 s) : Keeps s0 (startInstance s l n slot) := by
  unfold startInstance
  try dsimp only
  repeat' first
    | with_reducible assumption
    | with_reducible apply enterBlock_keeps
    | with_reducible apply keeps_modCtx
    | with_reducible apply keeps_modBu
    | with_reducible apply keeps_join
    | (intro _ hb; exact hb)

theorem startStrms_keeps {s0 : State} (s : State) (l : Launch) (n : Nat) (hk : Keeps s0 s) : Keeps s0 (startStrms s l n) := by
  unfold startStrms
  try dsimp only
  repeat' first
    | with_reducible assumption
    | with_reducible apply State_modStrm_keeps
    | with_reducible apply keeps_ite
    | with_reducible apply keeps_modBu
    | (with_reducible refine keeps_foldl ?_ ?_)
    | (intro _ hb; exact hb)
    | split
    | (intro _ _ _; try dsimp only)

theorem startOn_keeps {s0 : State} (s : State) (l : Launch) (r : Region) (hk : Keeps s0 s) : Keeps s0 (startOn s l r) := by
  unfold startOn
  try dsimp only
  repeat' first
    | with_reducible assumption
    | with_reducible apply startInstance_keeps
    | with_reducible apply startStrms_keeps
    | with_reducible apply keeps_ite
    | with_reducible apply keeps_modBu
    | with_reducible apply keeps_modRegion
    | (with_reducible refine keeps_foldl ?_ ?_)
    | (with_reducible refine Region.savedOk_same (by with_reducible assumption) (by with_unfolding_all rfl))
    | (with_reducible intro _; with_reducible intro (_ : Region.SavedOk _); try dsimp only)
    | (intro _ hb; exact hb)
    | (intro _ _ _; try dsimp only)

theorem execLaunchStart_keeps {s0 : State} (s : State) (hk : Keeps s0 s) : KeepsOut s0 (execLaunchStart s) := by
  unfold execLaunchStart
  try dsimp only
  repeat' first
    | with_reducible assumption
    | with_reducible apply State_post_keeps
    | with_reducible apply releaseCopies_keeps
    | with_reducible apply State_modLaunch_keeps
    | with_reducible apply startOn_keeps
    | with_reducible apply keeps_ite
    | with_reducible apply keeps_modRegion
    | (with_reducible refine keeps_foldl ?_ ?_)
    | with_reducible apply keepsOut_nextState
    | (with_reducible refine Region.savedOk_same (by with_reducible assumption) (by with_unfolding_all rfl))
    | (with_reducible intro _; with_reducible intro (_ : Region.SavedOk _); try dsimp only)
    | split
    | (intro _ _ _; try dsimp only)

theorem settlePhases_keeps {s0 : State} (fuel : Nat) (s : State) (job : Nat) (hk : Keeps s0 s) : Keeps s0 (settlePhases fuel s job) := by
  induction fuel generalizing s with
  | zero => exact hk
  | succ n ih =>
      unfold settlePhases
      dsimp only
      split
      · exact hk
      split
      · exact hk
      refine ih _ (State_modJob_keeps _ _ _ ?_)
      split
      · exact countOn_keeps _ _ _ _ hk
      · exact hk

theorem closePhase_keeps {s0 : State} (s : State) (job phase : Nat) (hk : Keeps s0 s) : Keeps s0 (closePhase s job phase) := by
  unfold closePhase
  try dsimp only
  repeat' first
    | with_reducible assumption
    | with_reducible apply State_modJob_keeps
    | with_reducible apply settlePhases_keeps

theorem finishLaunch_keeps {s0 : State} (s : State) (l : Launch) (hk : Keeps s0 s) : Keeps s0 (finishLaunch s l) := by
  unfold finishLaunch
  try dsimp only
  repeat' first
    | with_reducible assumption
    | with_reducible apply State_modJob_keeps
    | with_reducible apply countOn_keeps
    | with_reducible apply chargeBuild_keeps
    | with_reducible apply settlePhases_keeps
    | with_reducible apply closePhase_keeps
    | with_reducible apply keeps_ite
    | with_reducible apply keeps_modCtx
    | (with_reducible refine keeps_modHub_same ?_ (by rfl))
    | with_reducible apply keeps_modRegion
    | with_reducible apply keeps_join
    | (with_reducible refine keeps_foldl ?_ ?_)
    | (with_reducible refine Region.savedOk_same (by with_reducible assumption) (by with_unfolding_all rfl))
    | with_reducible apply Region.savedOk_ite
    | (with_reducible intro _; with_reducible intro (_ : Region.SavedOk _); try dsimp only)
    | split
    | (intro _ _ _; try dsimp only)

theorem stopInstance_keeps {s0 : State} (s : State) (n k : Nat) (hk : Keeps s0 s) : Keeps s0 (stopInstance s n k) := by
  unfold stopInstance
  try dsimp only
  repeat' first
    | with_reducible assumption
    | with_reducible apply State_stopCtx_keeps
    | with_reducible apply unpinSlot_keeps
    | with_reducible apply State_modStrm_keeps
    | with_reducible apply endRole_keeps
    | with_reducible apply stopRun_keeps
    | with_reducible apply keeps_modCtx
    | with_reducible apply keeps_modBu
    | (with_reducible refine keeps_modHub_same ?_ (by rfl))
    | (with_reducible refine keeps_foldl ?_ ?_)
    | (intro _ hb; exact hb)
    | split
    | (intro _ _ _; try dsimp only)
    | fail_if_no_progress (with_reducible refine keeps_ms ?_ (by first | rfl | with_unfolding_all rfl | (simp only [join_mem]; done)) (by first | rfl | with_unfolding_all rfl | (simp only [join_base]; done)))

theorem postCancelled_keeps {s0 : State} (s : State) (l : Launch) (hk : Keeps s0 s) : Keeps s0 (postCancelled s l) := by
  unfold postCancelled
  try dsimp only
  repeat' first
    | with_reducible assumption
    | with_reducible apply State_post_keeps

theorem stopRegion_keeps {s0 : State} (s : State) (r : Region) (l : Launch) (ns : List Nat) (hk : Keeps s0 s) : Keeps s0 (stopRegion s r l ns) := by
  unfold stopRegion
  try dsimp only
  repeat' first
    | with_reducible assumption
    | with_reducible apply State_modStrm_keeps
    | with_reducible apply stopRun_keeps
    | with_reducible apply dropLines_keeps
    | with_reducible apply dropHeld_keeps
    | with_reducible apply stopInstance_keeps
    | with_reducible apply keeps_ite
    | with_reducible apply keeps_modBu
    | with_reducible apply keeps_modRegion
    | (with_reducible refine keeps_foldl ?_ ?_)
    | (with_reducible refine Region.savedOk_same (by with_reducible assumption) (by with_unfolding_all rfl))
    | (with_reducible intro _; with_reducible intro (_ : Region.SavedOk _); try dsimp only)
    | (intro _ hb; exact hb)
    | split
    | (intro _ _ _; try dsimp only)

theorem onSaved_keeps {s0 : State} (s : State) (r : Region) (sv : Saved) (f : List Nat → State → State)
    (hsv : ∀ b ∈ sv.bus, Memory.wf b.bank = true) (hk : Keeps s0 s) (hf : ∀ ns t, Keeps s0 t → Keeps s0 (f ns t)) :
    Keeps s0 (onSaved s r sv f) := by
  unfold onSaved
  dsimp only
  have h := hf ((List.range sv.bus.length).map (parkNum r.id)) _
    (keeps_foldl_mem (l := withIndex 0 sv.bus) (f := fun s x => s.setBu (parkNum r.id x.1) x.2) hk
      (fun t x hx h => keeps_setBu h (hsv _ (withIndex_mem hx))))
  exact keeps_modRegion (keeps_filterBus h) (fun g _ => Region.savedOk_bus h rfl)

theorem placesOf_savedOk {s0 s : State} {l : Launch} (h : Keeps s0 s) : ∀ r ∈ s.placesOf l, r.SavedOk := by
  intro r hr
  unfold State.placesOf at hr
  split at hr
  · cases hr
  · rename_i g hg
    have hok := savedOk_region h hg
    split at hr
    · rcases List.mem_cons.1 hr with hr | hr
      · exact hr ▸ hok
      · obtain ⟨n, _, hn⟩ := List.mem_filterMap.1 hr
        exact savedOk_region h hn
    · exact (List.mem_singleton.1 hr) ▸ hok

theorem stopSaved_keeps {s0 : State} (s : State) (r : Region) (l : Launch) (sv : Saved) (hsv : ∀ b ∈ sv.bus, Memory.wf b.bank = true)
    (hk : Keeps s0 s) : Keeps s0 (stopSaved s r l sv) := by
  unfold stopSaved
  exact keeps_modRegion (onSaved_keeps _ _ _ _ hsv hk (fun _ _ h => stopRegion_keeps _ _ _ _ h)) (fun g _ => Region.savedOk_none rfl)

theorem cancelOne_keeps {s0 : State} (s : State) (id : Nat) (hk : Keeps s0 s) : Keeps s0 (cancelOne s id) := by
  unfold cancelOne
  split
  · exact hk
  rename_i l _
  have h1 := State_modLaunch_keeps _ id (fun l => { l with cancelled := true }) (postCancelled_keeps _ l (keeps_foldl (l := s.placesOf l) (f := chargeBuild) hk (fun _ _ h => chargeBuild_keeps _ _ h)))
  dsimp only
  split
  · exact hk
  · exact State_modLaunch_keeps _ _ _ (keeps_modRegion h1 (fun g hg => Region.savedOk_same hg rfl))
  · have h2 := keeps_foldl_mem (l := (State.modLaunch (postCancelled ((s.placesOf l).foldl chargeBuild s) l) id (fun l => { l with cancelled := true })).placesOf l)
      (f := fun s r => match r.saved with
        | some sv => stopSaved s r l sv
        | none => stopRegion s r l (s.regionBus r)) h1 (by
        intro t x hx h
        try dsimp only
        split
        · exact stopSaved_keeps _ _ _ _ (placesOf_savedOk h1 _ hx _ ‹_›) h
        · exact stopRegion_keeps _ _ _ _ h)
    have h3 := keeps_ite (c := ((State.modLaunch (postCancelled ((s.placesOf l).foldl chargeBuild s) l) id (fun l => { l with cancelled := true })).placesOf l).any (fun r => r.place.isNone) = true)
      (State_modLaunch_keeps _ id (fun l => { l with st := .finishing }) h2) h2
    exact keeps_foldl h3 (fun t x h => keeps_ite (startWaiting_keeps _ _ h) h)

theorem cancelLaunches_keeps {s0 : State} (s : State) (ids : List Nat) (hk : Keeps s0 s) : Keeps s0 (cancelLaunches s ids) := by
  unfold cancelLaunches
  try dsimp only
  repeat' first
    | with_reducible assumption
    | with_reducible apply cancelOne_keeps
    | (with_reducible refine keeps_foldl ?_ ?_)

theorem stopProgs_keeps {s0 : State} (s : State) (job : Nat) (hk : Keeps s0 s) : Keeps s0 (stopProgs s job) := by
  unfold stopProgs
  try dsimp only
  repeat' first
    | with_reducible assumption
    | with_reducible apply endProg_keeps
    | with_reducible apply keeps_ite
    | (with_reducible refine keeps_foldl ?_ ?_)
    | split
    | (intro _ _ _; try dsimp only)

theorem cancelAt_keeps {s0 : State} (s : State) (r : Region) (off : Nat × Nat × Nat) (k : Nat) (hr : r.SavedOk) (hk : Keeps s0 s) :
    Keeps s0 (cancelAt s r off k) := by
  unfold cancelAt
  dsimp only
  split
  · exact cancelLaunches_keeps _ _ (stopInstance_keeps _ _ _ hk)
  · rename_i h
    split
    · exact onSaved_keeps _ _ _ _ (hr _ h) hk (fun _ _ h => cancelLaunches_keeps _ _ (stopInstance_keeps _ _ _ h))
    · exact hk
  · exact hk

theorem cancelPlaces_keeps {s0 : State} (s : State) (l : Launch) (off : Nat × Nat × Nat) (k : Nat) (hk : Keeps s0 s) :
    Keeps s0 ((s.placesOf l).foldl (fun s g => cancelAt s g off k) (postCancelled s l)) :=
  keeps_foldl_mem (postCancelled_keeps _ _ hk) (fun _ x hx h => cancelAt_keeps _ _ _ _ (placesOf_savedOk hk x hx) h)

theorem cancelWork_keeps {s0 : State} (s : State) (job level a : Nat) (rid : Option Nat) (hk : Keeps s0 s) : KeepsExcP s0 (cancelWork s job level a rid) := by
  unfold cancelWork
  try dsimp only
  repeat' first
    | with_reducible assumption
    | with_reducible apply State_modJob_keeps
    | with_reducible apply closePhase_keeps
    | with_reducible apply cancelLaunches_keeps
    | with_reducible apply stopProgs_keeps
    | with_reducible apply cancelPlaces_keeps
    | with_reducible apply keepsExcP_error
    | with_reducible apply keepsExcP_ok
    | split

theorem expireRegion_keeps {s0 : State} (s : State) (r : Region) (l : Launch) (hk : Keeps s0 s) : Keeps s0 (expireRegion s r l) := by
  unfold expireRegion
  try dsimp only
  repeat' first
    | with_reducible assumption
    | with_reducible apply startPreempt_keeps
    | with_reducible apply keeps_ite
    | with_reducible apply keeps_modRegion
    | (with_reducible refine Region.savedOk_same (by with_reducible assumption) (by with_unfolding_all rfl))
    | (with_reducible intro _; with_reducible intro (_ : Region.SavedOk _); try dsimp only)

end Sys2Proof.Machine
end

