-- ==== Sys2Proof/Laws/KeepsLadder.lean ====
section
/-!
SUPPORT. What the operations of Machine/Ladder.lean keep.
-/
namespace Sys2Proof.Machine
open Sys2Proof.Safety

/-- The state that a result of the ladder's service holds. -/
structure KeepsLad (s0 : State) (r : LadRes) : Prop where
  keeps : ∀ t, r = .go t → Keeps s0 t
  failed : ∀ t c a x, r = .failIn t c a x → Keeps s0 t

theorem keepsLad_wait {s0 : State} : KeepsLad s0 .wait := ⟨(by intro t h; cases h), (by intro t c a x h; cases h)⟩
theorem keepsLad_fail {s0 : State} {c : Code} {a b : Nat} : KeepsLad s0 (.fail c a b) := ⟨(by intro t h; cases h), (by intro t c a x h; cases h)⟩
theorem keepsLad_bad {s0 : State} {q : Req} {c : Code} : KeepsLad s0 (LadRes.bad q c) := ⟨(by intro t h; cases h), (by intro t c a x h; cases h)⟩
theorem keepsLad_go {s0 t : State} (h : Keeps s0 t) : KeepsLad s0 (.go t) := ⟨(by intro u e; cases e; exact h), (by intro t c a x h; cases h)⟩
theorem keepsLad_failIn {s0 t : State} {c : Code} {a x : Nat} (h : Keeps s0 t) : KeepsLad s0 (.failIn t c a x) :=
  ⟨(by intro t h; cases h), (by intro u c a x e; cases e; exact h)⟩
theorem keeps_of_lad {s0 t : State} {g : LadRes} (e : g = .go t) (h : KeepsLad s0 g) : Keeps s0 t := h.keeps t e

theorem LadRes_bad_keeps {s0 : State} (q : Req) (c : Code)  : KeepsLad s0 (LadRes.bad q c) := by
  unfold LadRes.bad
  try dsimp only
  repeat' first
    | with_reducible apply keepsLad_fail

theorem answer_keeps {s0 : State} (s : State) (q : Req) (val : Nat) (hk : Keeps s0 s) : Keeps s0 (answer s q val) := by
  unfold answer
  try dsimp only
  repeat' first
    | with_reducible assumption
    | with_reducible apply State_reply_keeps
    | with_reducible apply unpark_keeps

theorem answerRung_keeps {s0 : State} (s : State) (q : Req) (p : Span) (k : Nat) (hk : Keeps s0 s) : Keeps s0 (answerRung s q p k) := by
  unfold answerRung
  try dsimp only
  repeat' first
    | with_reducible assumption
    | with_reducible apply State_modReq_keeps
    | with_reducible apply answer_keeps

theorem ladderAcquire_keeps {s0 : State} (s : State) (q : Req) (hk : Keeps s0 s) : Keeps s0 (ladderAcquire s q) := by
  unfold ladderAcquire
  try dsimp only
  repeat' first
    | with_reducible assumption
    | with_reducible apply synchronise_keeps
    | split

theorem setFull_keeps {s0 : State} (s : State) (h : Nat) (hk : Keeps s0 s) : Keeps s0 (setFull s h) := by
  unfold setFull
  try dsimp only
  repeat' first
    | with_reducible assumption
    | with_reducible apply State_putHent_keeps
    | split

theorem setFilling_keeps {s0 : State} (s : State) (h : Nat) (hk : Keeps s0 s) : Keeps s0 (setFilling s h) := by
  unfold setFilling
  try dsimp only
  repeat' first
    | with_reducible assumption
    | with_reducible apply State_putHent_keeps
    | split

theorem xformFail_keeps {s0 : State} (status code : Nat)  : KeepsLad s0 (xformFail status code) := by
  unfold xformFail
  try dsimp only
  repeat' first
    | with_reducible apply keepsLad_fail

theorem xformImage_keeps {s0 : State} (s : State) (t : Nat) (rec32 : List Byte) (payer : Nat) (hk : Keeps s0 s) : KeepsExcP s0 (xformImage s t rec32 payer) := by
  unfold xformImage
  try dsimp only
  repeat' first
    | with_reducible assumption
    | (with_reducible refine keeps_modHub_same ?_ (by rfl))
    | with_reducible apply keepsExcP_error
    | with_reducible apply keepsExcP_ok
    | split

theorem allotRung_keeps {s0 : State} (s : State) (p : Span) (k size : Nat) (hk : Keeps s0 s) : KeepsExcP s0 (allotRung s p k size) := by
  unfold allotRung
  try dsimp only
  repeat' first
    | with_reducible assumption
    | with_reducible apply writeVa_keeps
    | with_reducible apply heapTake_keeps
    | with_reducible apply takeRung_keeps
    | with_reducible apply takePages_keeps
    | with_reducible apply keepsExcP_error
    | with_reducible apply keepsExcP_ok
    | (with_reducible refine keeps_of_exc (by with_reducible assumption) ?_)
    | (with_reducible refine keeps_of_excP (by with_reducible assumption) ?_)
    | split

theorem startBuild_keeps {s0 : State} (s : State) (q : Req) (p : Span) (k src : Nat) (lift : Bool) (payer : Nat) (hk : Keeps s0 s) : KeepsLad s0 (startBuild s q p k src lift payer) := by
  unfold startBuild
  try dsimp only
  repeat' first
    | with_reducible assumption
    | with_reducible apply keepsLad_bad
    | with_reducible apply keepsLad_go
    | with_reducible apply startRole_keeps
    | with_reducible apply State_putSpan_keeps
    | with_reducible apply needRegion_keeps
    | with_reducible apply queueLaunch_keeps
    | with_reducible apply xformFail_keeps
    | with_reducible apply xformImage_keeps
    | with_reducible apply allotRung_keeps
    | (with_reducible refine keeps_modHub_same ?_ (by rfl))
    | with_reducible apply keeps_fresh
    | (with_reducible refine keeps_of_excP (by with_reducible assumption) ?_)
    | split

theorem buildRung_keeps {s0 : State} (s : State) (q : Req) (p : Span) (k src : Nat) (lift : Bool) (hk : Keeps s0 s) : KeepsLad s0 (buildRung s q p k src lift) := by
  unfold buildRung
  try dsimp only
  repeat' first
    | with_reducible assumption
    | with_reducible apply keepsLad_wait
    | with_reducible apply keepsLad_bad
    | with_reducible apply keepsLad_go
    | with_reducible apply answerRung_keeps
    | with_reducible apply startBuild_keeps
    | split

theorem serveRecall_keeps {s0 : State} (s : State) (q : Req) (p : Span) (hk : Keeps s0 s) : KeepsLad s0 (serveRecall s q p) := by
  unfold serveRecall
  try dsimp only
  repeat' first
    | with_reducible assumption
    | with_reducible apply keepsLad_wait
    | with_reducible apply keepsLad_bad
    | with_reducible apply keepsLad_go
    | with_reducible apply answerRung_keeps
    | with_reducible apply buildRung_keeps
    | split

theorem killSpan_keeps {s0 : State} (s : State) (p : Span) (but : Option Nat) (hk : Keeps s0 s) : Keeps s0 (killSpan s p but) := by
  unfold killSpan
  try dsimp only
  repeat' first
    | with_reducible assumption
    | with_reducible apply State_failReq_keeps
    | with_reducible apply unpark_keeps
    | with_reducible apply State_putSpan_keeps
    | with_reducible apply freeRungHandle_keeps
    | (with_reducible refine keeps_foldl ?_ ?_)
    | (intro _ _ _; try dsimp only)

theorem serveDrop_keeps {s0 : State} (s : State) (q : Req) (p : Span) (hk : Keeps s0 s) : KeepsLad s0 (serveDrop s q p) := by
  unfold serveDrop
  try dsimp only
  repeat' first
    | with_reducible assumption
    | with_reducible apply keepsLad_wait
    | with_reducible apply keepsLad_bad
    | with_reducible apply keepsLad_go
    | with_reducible apply State_putSpan_keeps
    | with_reducible apply freeRungHandle_keeps
    | with_reducible apply answer_keeps
    | with_reducible apply killSpan_keeps
    | split

theorem serveFree_keeps {s0 : State} (s : State) (q : Req) (p : Span) (hk : Keeps s0 s) : KeepsLad s0 (serveFree s q p) := by
  unfold serveFree
  try dsimp only
  repeat' first
    | with_reducible assumption
    | with_reducible apply keepsLad_wait
    | with_reducible apply keepsLad_bad
    | with_reducible apply keepsLad_go
    | with_reducible apply answer_keeps
    | with_reducible apply killSpan_keeps
    | split

theorem servePin_keeps {s0 : State} (s : State) (q : Req) (p : Span) (up : Bool) (hk : Keeps s0 s) : KeepsLad s0 (servePin s q p up) := by
  unfold servePin
  try dsimp only
  repeat' first
    | with_reducible assumption
    | with_reducible apply keepsLad_bad
    | with_reducible apply keepsLad_go
    | with_reducible apply State_putSpan_keeps
    | with_reducible apply answer_keeps
    | split

theorem growBuffer_keeps {s0 : State} (s : State) (job base size bigger : Nat) (hk : Keeps s0 s) : KeepsExcP s0 (growBuffer s job base size bigger) := by
  unfold growBuffer
  try dsimp only
  repeat' first
    | with_reducible assumption
    | with_reducible apply readVa_keeps
    | with_reducible apply writeVa_keeps
    | with_reducible apply heapTake_keeps
    | with_reducible apply heapFree_keeps
    | with_reducible apply keepsExcP_error
    | with_reducible apply keepsExcP_ok
    | (with_reducible refine keeps_of_exc (by with_reducible assumption) ?_)
    | (with_reducible refine keeps_of_excP (by with_reducible assumption) ?_)
    | split

theorem openHeader_keeps {s0 : State} (s : State) (owner va kvl kvt : Nat) (hk : Keeps s0 s) : KeepsExc s0 (openHeader s owner va kvl kvt) := by
  unfold openHeader
  try dsimp only
  repeat' first
    | with_reducible assumption
    | with_reducible apply writeNow_keeps
    | with_reducible apply keepsExc_error
    | with_reducible apply keepsExc_ok
    | split

theorem openPages_keeps {s0 : State} (s : State) (owner kvl kvt n : Nat) (l : List Nat) (hk : Keeps s0 s) :
    KeepsExcP s0 (openPages s owner kvl kvt n l) := by
  induction n generalizing s l with
  | zero => exact keepsExcP_ok hk
  | succ n ih =>
    unfold openPages
    split
    · exact keepsExcP_error
    · have h1 := (takePages_keeps _ _ _ hk).keeps _ _ ‹_›
      split
      · exact keepsExcP_error
      · exact ih _ _ ((openHeader_keeps _ _ _ _ _ h1).keeps _ ‹_›)

theorem checkLines_keeps {s0 : State} (s : State) (o : Origin) (owner va : Nat) (hk : Keeps s0 s) : KeepsExc s0 (checkLines s o owner va) := by
  unfold checkLines
  try dsimp only
  repeat' first
    | with_reducible assumption
    | with_reducible apply logSoft_keeps
    | with_reducible apply keeps_ite
    | with_reducible apply keepsExc_error
    | with_reducible apply keepsExc_ok
    | split

theorem ownPage_keeps {s0 : State} (s : State) (owner va : Nat) (header : List Byte) (hk : Keeps s0 s) : KeepsExcP s0 (ownPage s owner va header) := by
  unfold ownPage
  try dsimp only
  repeat' first
    | with_reducible assumption
    | with_reducible apply readVa_keeps
    | with_reducible apply writeVa_keeps
    | with_reducible apply pageDown_keeps
    | with_reducible apply takePages_keeps
    | with_reducible apply keepsExcP_error
    | with_reducible apply keepsExcP_ok
    | (with_reducible refine keeps_of_exc (by with_reducible assumption) ?_)
    | (with_reducible refine keeps_of_excP (by with_reducible assumption) ?_)
    | split

theorem setHeaders_keeps {s0 : State} (s : State) (owner length q : Nat) (l : List Nat) (hk : Keeps s0 s) :
    KeepsExc s0 (setHeaders s owner length q l) := by
  induction l generalizing s q with
  | nil => exact keepsExc_ok hk
  | cons va rest ih =>
    unfold setHeaders
    split
    · exact keepsExc_error
    · exact ih _ _ (writeHeader_keeps _ _ _ hk)

theorem checkHeader_keeps {s0 : State} (s : State) (o : Origin) (owner va kvl kvt : Nat) (hk : Keeps s0 s) : Keeps s0 (checkHeader s o owner va kvl kvt).2 := by
  unfold checkHeader
  try dsimp only
  repeat' first
    | with_reducible assumption
    | with_reducible apply useHeader_keeps
    | with_reducible apply logSoft_keeps
    | with_reducible apply keeps_ite
    | split

theorem putPosition_keeps {s0 : State} (owner kvb : Nat) (pages : List Nat) (src : List Byte) (n : Nat) (length i : Nat) (s : State) (hk : Keeps s0 s) : KeepsExc s0 (putPosition owner kvb pages src n length i s) := by
  unfold putPosition
  try dsimp only
  repeat' first
    | with_reducible assumption
    | with_reducible apply writeVa_keeps
    | with_reducible apply keepsExc_error
    | (with_reducible refine keeps_of_exc (by with_reducible assumption) ?_)
    | split

theorem putPositions_keeps {s0 : State} (owner kvb : Nat) (pages : List Nat) (src : List Byte) (n length : Nat) (l : List Nat) (s : State)
    (hk : Keeps s0 s) : KeepsExc s0 (putPositions owner kvb pages src n length l s) := by
  induction l generalizing s with
  | nil => exact keepsExc_ok hk
  | cons i rest ih =>
    unfold putPositions
    split
    · exact keepsExc_error
    · exact ih _ ((putPosition_keeps _ _ _ _ _ _ _ _ hk).keeps _ ‹_›)

theorem lastPage_keeps {s0 : State} (s : State) (q : Req) (p : Span) (cls : List Byte) (r1 : Rung) (hk : Keeps s0 s) : Keeps s0 (lastPage s q p cls r1).2 := by
  unfold lastPage
  try dsimp only
  repeat' first
    | with_reducible assumption
    | with_reducible apply checkLines_keeps
    | with_reducible apply checkHeader_keeps
    | (with_reducible refine keeps_of_pair (by with_reducible assumption) ?_)
    | (with_reducible refine keeps_of_exc (by with_reducible assumption) ?_)
    | split

theorem appendKv_keeps {s0 : State} (s : State) (q : Req) (p : Span) (cls : List Byte) (n : Nat) (e : HEnt) (r1 : Rung) (header : List Byte) (hk : Keeps s0 s) : KeepsExcP s0 (appendKv s q p cls n e r1 header) := by
  unfold appendKv
  try dsimp only
  repeat' first
    | with_reducible assumption
    | with_reducible apply keepsExcP_bind
    | with_reducible apply keepsExcP_pure
    | with_reducible apply readVa_keeps
    | with_reducible apply writeVa_keeps
    | with_reducible apply State_putHent_keeps
    | with_reducible apply State_putSpan_keeps
    | with_reducible apply growBuffer_keeps
    | with_reducible apply openPages_keeps
    | with_reducible apply ownPage_keeps
    | with_reducible apply setHeaders_keeps
    | with_reducible apply putPositions_keeps
    | (with_reducible refine keeps_of_exc (by with_reducible assumption) ?_)
    | (with_reducible refine keeps_of_excP (by with_reducible assumption) ?_)
    | split
    | (intro _ _; try dsimp only)

theorem serveApp_keeps {s0 : State} (s : State) (q : Req) (p : Span) (hk : Keeps s0 s) : KeepsLad s0 (serveApp s q p) := by
  unfold serveApp
  try dsimp only
  repeat' first
    | with_reducible assumption
    | with_reducible apply keepsLad_wait
    | with_reducible apply keepsLad_bad
    | with_reducible apply keepsLad_go
    | with_reducible apply keepsLad_failIn
    | with_reducible apply answerRung_keeps
    | with_reducible apply lastPage_keeps
    | with_reducible apply appendKv_keeps
    | (with_reducible refine keeps_of_pair (by with_reducible assumption) ?_)
    | (with_reducible refine keeps_of_excP (by with_reducible assumption) ?_)
    | split

theorem ladderRules_keeps {s0 : State} (s : State) (q : Req) (p : Span) (hk : Keeps s0 s) : KeepsLad s0 (ladderRules s q p) := by
  unfold ladderRules
  try dsimp only
  repeat' first
    | with_reducible assumption
    | with_reducible apply keepsLad_bad
    | with_reducible apply keepsLad_go
    | with_reducible apply answer_keeps
    | with_reducible apply buildRung_keeps
    | with_reducible apply serveRecall_keeps
    | with_reducible apply serveDrop_keeps
    | with_reducible apply serveFree_keeps
    | with_reducible apply servePin_keeps
    | with_reducible apply serveApp_keeps
    | split

theorem tryRequest_keeps {s0 : State} (s : State) (q : Req) (hk : Keeps s0 s) : KeepsLad s0 (tryRequest s q) := by
  unfold tryRequest
  try dsimp only
  repeat' first
    | with_reducible assumption
    | with_reducible apply keepsLad_wait
    | with_reducible apply keepsLad_bad
    | with_reducible apply ladderRules_keeps
    | split

theorem parkReq_keeps {s0 : State} (s : State) (q : Req) (hk : Keeps s0 s) : Keeps s0 (parkReq s q) := by
  unfold parkReq
  try dsimp only
  repeat' first
    | with_reducible assumption
    | with_reducible apply State_modReq_keeps
    | (with_reducible refine keeps_modHub_same ?_ (by rfl))

theorem settleRes_keeps {s0 : State} (s : State) (q : Req) (r : LadRes) (hk : Keeps s0 s) (hr : KeepsLad s0 r) :
    Keeps s0 (settleRes s q r) := by
  cases r with
  | wait => exact parkReq_keeps _ _ hk
  | go t => exact keeps_ite (parkReq_keeps _ _ (hr.keeps t rfl)) (hr.keeps t rfl)
  | fail c a x => exact unpark_keeps _ _ (State_failReq_keeps _ _ _ _ _ hk)
  | failIn t c a x => exact unpark_keeps _ _ (State_failReq_keeps _ _ _ _ _ (hr.failed t c a x rfl))

theorem firstDue_keeps {s0 : State} (s : State) (l : List Req) (hk : Keeps s0 s) : ∀ x, firstDue s l = some x → KeepsLad s0 x.2 := by
  induction l with
  | nil => intro x e; cases e
  | cons q rest ih =>
    intro x e
    unfold firstDue at e
    split at e
    · exact ih x e
    · cases e; exact tryRequest_keeps _ _ hk

theorem retrySpan_keeps {s0 : State} (fuel : Nat) (s : State) (slot : Nat) (hk : Keeps s0 s) : Keeps s0 (retrySpan fuel s slot) := by
  induction fuel generalizing s with
  | zero => exact hk
  | succ n ih =>
    unfold retrySpan
    split
    · exact hk
    · exact ih _ (settleRes_keeps _ _ _ hk (firstDue_keeps _ _ hk _ ‹_›))

theorem retryAll_keeps {s0 : State} (s : State) (slot : Nat) (hk : Keeps s0 s) : Keeps s0 (retryAll s slot) := by
  unfold retryAll
  try dsimp only
  repeat' first
    | with_reducible assumption
    | with_reducible apply retrySpan_keeps

theorem fillNew_keeps {s0 : State} (s : State) (q : Req) (p : Span) (k size : Nat) (content : List Byte) (hk : Keeps s0 s) : KeepsExc s0 (fillNew s q p k size content) := by
  unfold fillNew
  try dsimp only
  repeat' first
    | with_reducible assumption
    | with_reducible apply writeVa_keeps
    | with_reducible apply State_putSpan_keeps
    | with_reducible apply heapTake_keeps
    | with_reducible apply takeRung_keeps
    | with_reducible apply answer_keeps
    | with_reducible apply setFull_keeps
    | with_reducible apply keepsExc_error
    | with_reducible apply keepsExc_ok
    | (with_reducible refine keeps_of_exc (by with_reducible assumption) ?_)
    | (with_reducible refine keeps_of_excP (by with_reducible assumption) ?_)
    | split

theorem adoptChecks_keeps {s0 : State} (s : State) (q : Req) (cls : List Byte) (length i : Nat) (l : List Nat) (hk : Keeps s0 s) :
    Keeps s0 (adoptChecks s q cls length i l).2 := by
  induction l generalizing s i with
  | nil => exact hk
  | cons va rest ih =>
    unfold adoptChecks
    split
    · exact keeps_of_pair ‹_› (checkHeader_keeps _ _ _ _ _ _ hk)
    · have h1 := keeps_of_pair ‹_› (checkHeader_keeps _ _ _ _ _ _ hk)
      exact (apply_ite (fun x : Option Nat × State => Keeps s0 x.2) _ _ _).mpr (by split; exact h1; exact ih _ _ h1)

theorem pagesUp_keeps {s0 : State} (s : State) (owner : Nat) (l : List Nat) (hk : Keeps s0 s) : KeepsExc s0 (pagesUp s owner l) := by
  induction l generalizing s with
  | nil => exact keepsExc_ok hk
  | cons va rest ih =>
    unfold pagesUp
    split
    · exact keepsExc_error
    · exact ih _ ((pageUp_keeps _ _ _ hk).keeps _ _ ‹_›)

theorem adoptPages_keeps {s0 : State} (s : State) (q : Req) (p : Span) (pages : List Nat) (hk : Keeps s0 s) : KeepsExc s0 (adoptPages s q p pages) := by
  unfold adoptPages
  try dsimp only
  repeat' first
    | with_reducible assumption
    | with_reducible apply keepsExc_bind
    | with_reducible apply setHeaders_keeps
    | with_reducible apply fillNew_keeps
    | with_reducible apply pagesUp_keeps
    | (with_reducible refine keeps_of_exc (by with_reducible assumption) ?_)
    | (intro _ _; try dsimp only)

theorem serveAdopt_keeps {s0 : State} (s : State) (q : Req) (cls : List Byte) (p : Span) (e : HEnt) (hk : Keeps s0 s) : KeepsLad s0 (serveAdopt s q cls p e) := by
  unfold serveAdopt
  try dsimp only
  repeat' first
    | with_reducible assumption
    | with_reducible apply keepsLad_fail
    | with_reducible apply keepsLad_bad
    | with_reducible apply keepsLad_go
    | with_reducible apply keepsLad_failIn
    | with_reducible apply adoptChecks_keeps
    | with_reducible apply adoptPages_keeps
    | (with_reducible refine keeps_of_pair (by with_reducible assumption) ?_)
    | (with_reducible refine keeps_of_exc (by with_reducible assumption) ?_)
    | split

theorem serveCopy_keeps {s0 : State} (s : State) (q : Req) (p : Span) (k size : Nat) (e : HEnt) (hk : Keeps s0 s) : KeepsLad s0 (serveCopy s q p k size e) := by
  unfold serveCopy
  try dsimp only
  repeat' first
    | with_reducible assumption
    | with_reducible apply keepsLad_fail
    | with_reducible apply keepsLad_go
    | with_reducible apply readVa_keeps
    | with_reducible apply fillNew_keeps
    | (with_reducible refine keeps_of_exc (by with_reducible assumption) ?_)
    | (with_reducible refine keeps_of_excP (by with_reducible assumption) ?_)
    | split

theorem serveNew_keeps {s0 : State} (s : State) (q : Req) (hk : Keeps s0 s) : KeepsLad s0 (serveNew s q) := by
  unfold serveNew
  try dsimp only
  repeat' first
    | with_reducible assumption
    | with_reducible apply keepsLad_bad
    | with_reducible apply serveAdopt_keeps
    | with_reducible apply serveCopy_keeps
    | split

theorem servePage_keeps {s0 : State} (s : State) (q : Req) (up : Bool) (hk : Keeps s0 s) : KeepsLad s0 (servePage s q up) := by
  unfold servePage
  try dsimp only
  repeat' first
    | with_reducible assumption
    | with_reducible apply keepsLad_fail
    | with_reducible apply keepsLad_bad
    | with_reducible apply keepsLad_go
    | with_reducible apply readVa_keeps
    | with_reducible apply pageUp_keeps
    | with_reducible apply pageDown_keeps
    | with_reducible apply answer_keeps
    | (with_reducible refine keeps_of_excP (by with_reducible assumption) ?_)
    | split

theorem serveFar_keeps {s0 : State} (s : State) (q : Req) (module : Nat) (hk : Keeps s0 s) : Keeps s0 (serveFar s q module) := by
  unfold serveFar
  try dsimp only
  repeat' first
    | with_reducible assumption
    | with_reducible apply State_modReq_keeps
    | with_reducible apply State_reply_keeps
    | with_reducible apply State_sendPeer_keeps
    | with_reducible apply keeps_ite
    | split

theorem peerLadder_keeps {s0 : State} (s : State) (hk : Keeps s0 s) : Keeps s0 (peerLadder s) := by
  unfold peerLadder
  dsimp only
  split
  · refine keeps_ite hk ?_
    have h := keeps_fresh hk
    exact ⟨h.out, fun hw => (keeps_window h).windows hw, h.wf.mem, h.wf.base, h.wf.banks, h.wf.saved⟩
  · exact hk

theorem execLadderRequestService_keeps {s0 : State} (s : State) (hk : Keeps s0 s) : KeepsOut s0 (execLadderRequestService s) := by
  unfold execLadderRequestService
  try dsimp only
  repeat' first
    | with_reducible assumption
    | with_reducible apply ladderAcquire_keeps
    | with_reducible apply tryRequest_keeps
    | with_reducible apply settleRes_keeps
    | with_reducible apply retryAll_keeps
    | with_reducible apply serveNew_keeps
    | with_reducible apply servePage_keeps
    | with_reducible apply serveFar_keeps
    | with_reducible apply peerLadder_keeps
    | with_reducible apply keeps_ite
    | with_reducible apply keepsOut_nextState
    | split

theorem execParkedRetry_keeps {s0 : State} (s : State) (hk : Keeps s0 s) : KeepsOut s0 (execParkedRetry s) := by
  unfold execParkedRetry
  try dsimp only
  repeat' first
    | with_reducible assumption
    | with_reducible apply retryAll_keeps
    | with_reducible apply keeps_ite
    | with_reducible apply keepsOut_nextState
    | split

theorem chargeCost_keeps {s0 : State} (s : State) (b : Build) (hk : Keeps s0 s) : Keeps s0 (chargeCost s b) := by
  unfold chargeCost
  try dsimp only
  repeat' first
    | with_reducible assumption
    | with_reducible apply State_putSpan_keeps
    | with_reducible apply State_modJob_keeps
    | with_reducible apply State_modLaunch_keeps
    | with_reducible apply keeps_ite
    | split

theorem buildFailed_keeps {s0 : State} (s : State) (b : Build) (p : Span) (c : Nat) (hk : Keeps s0 s) : Keeps s0 (buildFailed s b p c) := by
  unfold buildFailed
  try dsimp only
  repeat' first
    | with_reducible assumption
    | with_reducible apply State_failReq_keeps
    | with_reducible apply unpark_keeps
    | with_reducible apply State_putSpan_keeps
    | with_reducible apply freeRungHandle_keeps

theorem buildDone_keeps {s0 : State} (s : State) (b : Build) (p : Span) (hk : Keeps s0 s) : Keeps s0 (buildDone s b p) := by
  unfold buildDone
  try dsimp only
  repeat' first
    | with_reducible assumption
    | with_reducible apply State_putSpan_keeps
    | with_reducible apply setFull_keeps
    | with_reducible apply setHeaders_keeps
    | with_reducible apply buildFailed_keeps
    | with_reducible apply keepsExc_ok
    | (with_reducible refine keeps_of_exc (by with_reducible assumption) ?_)
    | split

theorem endBuild_keeps {s0 : State} (s : State) (b : Build) (hk : Keeps s0 s) : Keeps s0 (endBuild s b) := by
  unfold endBuild
  try dsimp only
  repeat' first
    | with_reducible assumption
    | with_reducible apply endRole_keeps
    | with_reducible apply retryAll_keeps
    | with_reducible apply chargeCost_keeps
    | with_reducible apply buildFailed_keeps
    | with_reducible apply buildDone_keeps
    | with_reducible apply keeps_ite
    | (with_reducible refine keeps_modHub_same ?_ (by rfl))
    | split

theorem dropImage_keeps {s0 : State} (s : State) (image : Nat) (hk : Keeps s0 s) : Keeps s0 (dropImage s image) := by
  unfold dropImage
  have h1 (l : List Region) := keeps_foldl (l := l) (f := fun s r => releaseRegion s r.id) hk (fun t x h => releaseRegion_keeps _ _ h)
  exact keeps_modHub (h1 _) (fun e he => (h1 _).savedOk e (List.mem_filter.1 he).1)

theorem sweepXforms_keeps {s0 : State} (s : State) (hk : Keeps s0 s) : Keeps s0 (sweepXforms s) := by
  unfold sweepXforms
  try dsimp only
  repeat' first
    | with_reducible assumption
    | with_reducible apply dropImage_keeps
    | (with_reducible refine keeps_modHub_same ?_ (by rfl))
    | (with_reducible refine keeps_foldl ?_ ?_)
    | (intro _ _ _; try dsimp only)

theorem retireXforms_keeps {s0 : State} (s : State) (hit : Nat → Bool) (hk : Keeps s0 s) : Keeps s0 (retireXforms s hit) := by
  unfold retireXforms
  try dsimp only
  repeat' first
    | with_reducible assumption
    | with_reducible apply sweepXforms_keeps
    | (with_reducible refine keeps_modHub_same ?_ (by rfl))
    | (with_reducible refine keeps_foldl ?_ ?_)
    | (intro _ _ _; try dsimp only)

end Sys2Proof.Machine
end

