-- ==== Sys2Proof/Laws/KeepsJobs.lean ====
section
/-!
SUPPORT. What the operations of Machine/Jobs.lean keep.
-/
namespace Sys2Proof.Machine
open Sys2Proof.Safety

theorem postSlot_keeps {s0 : State} (s : State) (job va : Nat) (r : FaultRec) (hk : Keeps s0 s) : KeepsOpt s0 (postSlot s job va r) := by
  unfold postSlot
  try dsimp only
  repeat' first
    | with_reducible assumption
    | with_reducible apply writeVa_keeps
    | with_reducible apply keepsOpt_none
    | with_reducible apply keepsOpt_some
    | (with_reducible refine keeps_of_exc (by with_reducible assumption) ?_)
    | split

theorem fqAppend_keeps {s0 : State} (s : State) (job fq : Nat) (r : FaultRec) (hk : Keeps s0 s) : Keeps s0 (fqAppend s job fq r) := by
  unfold fqAppend
  try dsimp only
  repeat' first
    | with_reducible assumption
    | with_reducible apply writeVa_keeps
    | with_reducible apply keeps_ite
    | (with_reducible refine keeps_of_exc (by with_reducible assumption) ?_)
    | split

theorem State_setPhaseQueue_keeps {s0 : State} (s : State) (job phase : Nat) (l : List FaultRec) (hk : Keeps s0 s) : Keeps s0 (State.setPhaseQueue s job phase l) := by
  unfold State.setPhaseQueue
  try dsimp only
  repeat' first
    | with_reducible assumption
    | (with_reducible refine keeps_modHub_same ?_ (by rfl))

theorem stage0_keeps {s0 : State} (s : State) (p : PRec) (hk : Keeps s0 s) : KeepsOpt s0 (stage0 s p) := by
  unfold stage0
  try dsimp only
  repeat' first
    | with_reducible assumption
    | with_reducible apply postSlot_keeps
    | with_reducible apply keeps_modBu
    | with_reducible apply keepsOpt_none
    | with_reducible apply keepsOpt_some
    | (intro _ hb; exact hb)
    | split

theorem stage1_keeps {s0 : State} (s : State) (p : PRec) (hk : Keeps s0 s) : KeepsOpt s0 (stage1 s p) := by
  unfold stage1
  try dsimp only
  repeat' first
    | with_reducible assumption
    | with_reducible apply postSlot_keeps
    | with_reducible apply keepsOpt_none
    | split

theorem stage2_keeps {s0 : State} (s : State) (p : PRec) (hk : Keeps s0 s) : KeepsOpt s0 (stage2 s p) := by
  unfold stage2
  try dsimp only
  repeat' first
    | with_reducible assumption
    | with_reducible apply keeps_modRegion
    | with_reducible apply keepsOpt_none
    | with_reducible apply keepsOpt_some
    | (with_reducible refine Region.savedOk_same (by with_reducible assumption) (by with_unfolding_all rfl))
    | (with_reducible intro _; with_reducible intro (_ : Region.SavedOk _); try dsimp only)
    | split

theorem stage3_keeps {s0 : State} (s : State) (p : PRec) (hk : Keeps s0 s) : KeepsOpt s0 (stage3 s p) := by
  unfold stage3
  try dsimp only
  repeat' first
    | with_reducible assumption
    | with_reducible apply State_setPhaseQueue_keeps
    | with_reducible apply keepsOpt_none
    | with_reducible apply keepsOpt_some
    | split

theorem stage4_keeps {s0 : State} (s : State) (p : PRec) (hk : Keeps s0 s) : Keeps s0 (stage4 s p) := by
  unfold stage4
  try dsimp only
  repeat' first
    | with_reducible assumption
    | with_reducible apply fqAppend_keeps
    | split

theorem deliverFrom_keeps {s0 : State} (s : State) (p : PRec) (n stage : Nat) (hk : Keeps s0 s) : Keeps s0 (deliverFrom s p n stage).2 := by
  induction n generalizing stage with
  | zero => exact stage4_keeps _ _ hk
  | succ n ih =>
    unfold deliverFrom
    split
    · rename_i t ht
      refine keeps_of_opt ht ?_
      split
      · exact stage0_keeps _ _ hk
      · exact stage1_keeps _ _ hk
      · exact stage2_keeps _ _ hk
      · exact stage3_keeps _ _ hk
      · exact keepsOpt_some (stage4_keeps _ _ hk)
    · exact ih _

theorem markBuild_keeps {s0 : State} (s : State) (p : PRec) (stage : Nat) (hk : Keeps s0 s) : Keeps s0 (markBuild s p stage) := by
  unfold markBuild
  try dsimp only
  repeat' first
    | with_reducible assumption
    | with_reducible apply keeps_ite
    | (with_reducible refine keeps_modHub_same ?_ (by rfl))

theorem deliverRec_keeps {s0 : State} (s : State) (p : PRec) (hk : Keeps s0 s) : Keeps s0 (deliverRec s p) := by
  unfold deliverRec
  try dsimp only
  repeat' first
    | with_reducible assumption
    | with_reducible apply deliverFrom_keeps
    | with_reducible apply markBuild_keeps
    | (with_reducible refine keeps_modHub_same ?_ (by rfl))

theorem endJob_keeps {s0 : State} (s : State) (j : Job) (hk : Keeps s0 s) : Keeps s0 (endJob s j) := by
  unfold endJob
  try dsimp only
  repeat' first
    | with_reducible assumption
    | with_reducible apply dropTrans_keeps
    | with_reducible apply dropWalks_keeps
    | with_reducible apply killSpan_keeps
    | with_reducible apply dropImage_keeps
    | with_reducible apply retireXforms_keeps
    | with_reducible apply fqAppend_keeps
    | (with_reducible refine keeps_modHub_same ?_ (by rfl))
    | (with_reducible refine keeps_foldl ?_ ?_)
    | (intro _ _ _; try dsimp only)

theorem settleJob_keeps {s0 : State} (s : State) (j : Job) (hk : Keeps s0 s) : Keeps s0 (settleJob s j) := by
  unfold settleJob
  try dsimp only
  repeat' first
    | with_reducible assumption
    | with_reducible apply cancelLaunches_keeps
    | with_reducible apply endJob_keeps
    | with_reducible apply keeps_ite
    | split

theorem settleJobs_keeps {s0 : State} (s : State) (hk : Keeps s0 s) : Keeps s0 (settleJobs s) := by
  unfold settleJobs
  try dsimp only
  repeat' first
    | with_reducible assumption
    | with_reducible apply settleJob_keeps
    | (with_reducible refine keeps_foldl ?_ ?_)

theorem execFaultRecordDelivery_keeps {s0 : State} (s : State) (hk : Keeps s0 s) : KeepsOut s0 (execFaultRecordDelivery s) := by
  unfold execFaultRecordDelivery
  try dsimp only
  repeat' first
    | with_reducible assumption
    | with_reducible apply deliverRec_keeps
    | with_reducible apply settleJobs_keeps
    | with_reducible apply keepsOut_nextState
    | split

theorem execLaunchCompletion_keeps {s0 : State} (s : State) (hk : Keeps s0 s) : KeepsOut s0 (execLaunchCompletion s) := by
  unfold execLaunchCompletion
  try dsimp only
  repeat' first
    | with_reducible assumption
    | with_reducible apply finishLaunch_keeps
    | with_reducible apply settleJobs_keeps
    | with_reducible apply keeps_ite
    | with_reducible apply keepsOut_nextState
    | split

theorem execQuantumExpiry_keeps {s0 : State} (s : State) (hk : Keeps s0 s) : KeepsOut s0 (execQuantumExpiry s) := by
  unfold execQuantumExpiry
  try dsimp only
  repeat' first
    | with_reducible assumption
    | with_reducible apply finishLaunch_keeps
    | with_reducible apply expireRegion_keeps
    | with_reducible apply settleJobs_keeps
    | with_reducible apply keeps_ite
    | with_reducible apply keepsOut_nextState
    | split

theorem execTransformEnd_keeps {s0 : State} (s : State) (hk : Keeps s0 s) : KeepsOut s0 (execTransformEnd s) := by
  unfold execTransformEnd
  try dsimp only
  repeat' first
    | with_reducible assumption
    | with_reducible apply endBuild_keeps
    | with_reducible apply sweepXforms_keeps
    | with_reducible apply settleJobs_keeps
    | with_reducible apply keeps_ite
    | with_reducible apply keepsOut_nextState
    | split

theorem countInstance_keeps {s0 : State} (s : State) (q : Req) (hk : Keeps s0 s) : Keeps s0 (countInstance s q) := by
  unfold countInstance
  try dsimp only
  repeat' first
    | with_reducible assumption
    | with_reducible apply State_dropReq_keeps
    | with_reducible apply State_modLaunch_keeps
    | with_reducible apply countOn_keeps
    | with_reducible apply keeps_ite

theorem serveDonePhase_keeps {s0 : State} (s : State) (q : Req) (hk : Keeps s0 s) : Keeps s0 (serveDonePhase s q) := by
  unfold serveDonePhase
  try dsimp only
  repeat' first
    | with_reducible assumption
    | with_reducible apply State_dropReq_keeps
    | with_reducible apply closePhase_keeps
    | with_reducible apply keeps_ite
    | split

theorem serveWork_keeps {s0 : State} (s : State) (q : Req) (hk : Keeps s0 s) : Keeps s0 (serveWork s q) := by
  unfold serveWork
  try dsimp only
  repeat' first
    | with_reducible assumption
    | with_reducible apply State_modReq_keeps
    | with_reducible apply State_dropReq_keeps
    | with_reducible apply State_reply_keeps
    | with_reducible apply State_failReq_keeps
    | with_reducible apply State_modJob_keeps
    | with_reducible apply wakeCounter_keeps
    | with_reducible apply addCounter_keeps
    | with_reducible apply cancelWork_keeps
    | with_reducible apply settleJobs_keeps
    | with_reducible apply serveDonePhase_keeps
    | (with_reducible refine keeps_of_opt (by with_reducible assumption) ?_)
    | (with_reducible refine keeps_of_excP (by with_reducible assumption) ?_)
    | split

theorem execCounterRequest_keeps {s0 : State} (s : State) (hk : Keeps s0 s) : KeepsOut s0 (execCounterRequest s) := by
  unfold execCounterRequest
  try dsimp only
  repeat' first
    | with_reducible assumption
    | with_reducible apply countInstance_keeps
    | with_reducible apply serveWork_keeps
    | with_reducible apply keeps_ite
    | with_reducible apply keepsOut_nextState
    | split

theorem execCntWaitAnswer_keeps {s0 : State} (s : State) (hk : Keeps s0 s) : KeepsOut s0 (execCntWaitAnswer s) := by
  unfold execCntWaitAnswer
  try dsimp only
  repeat' first
    | with_reducible assumption
    | with_reducible apply State_reply_keeps
    | with_reducible apply keeps_ite
    | with_reducible apply keepsOut_nextState
    | split

end Sys2Proof.Machine
end

