-- ==== Sys2Proof/Laws/KeepsRecovery.lean ====
section
/-!
SUPPORT. What the operations of Machine/Recovery.lean keep.
-/
namespace Sys2Proof.Machine
open Sys2Proof.Safety

theorem joins_mem (ns ks : List Nat) (f : Nat → Nat) (m : MemSys) :
    (ns.foldl (fun m n => ks.foldl (fun m k => m.join (.ctx (f n) k) (m.past (.ctx n k))) m) m).mem = m.mem ∧
    (ns.foldl (fun m n => ks.foldl (fun m k => m.join (.ctx (f n) k) (m.past (.ctx n k))) m) m).base = m.base := by
  have inner (n : Nat) : ∀ (ks : List Nat) (m : MemSys),
      (ks.foldl (fun m k => m.join (.ctx (f n) k) (m.past (.ctx n k))) m).mem = m.mem ∧
      (ks.foldl (fun m k => m.join (.ctx (f n) k) (m.past (.ctx n k))) m).base = m.base := by
    intro ks
    induction ks with
      | nil => intro m; exact ⟨rfl, rfl⟩
      | cons k rest ih => intro m; exact ⟨(ih _).1.trans (join_mem _ _ _), (ih _).2.trans (join_base _ _ _)⟩
  induction ns generalizing m with
  | nil => exact ⟨rfl, rfl⟩
  | cons n rest ih => exact ⟨(ih _).1.trans (inner n ks m).1, (ih _).2.trans (inner n ks m).2⟩

theorem advanceRegion_keeps {s0 : State} (s : State) (r : Region) (q : Nat) (hk : Keeps s0 s) : Keeps s0 (advanceRegion s r q) := by
  unfold advanceRegion
  try dsimp only
  repeat' first
    | with_reducible assumption
    | with_reducible apply keeps_modBu
    | with_reducible apply keeps_modRegion
    | (with_reducible refine keeps_foldl ?_ ?_)
    | (with_reducible refine Region.savedOk_same (by with_reducible assumption) (by with_unfolding_all rfl))
    | (with_reducible intro _; with_reducible intro (_ : Region.SavedOk _); try dsimp only)
    | (intro _ hb; exact hb)
    | (intro _ _ _; try dsimp only)

theorem commitRound_keeps {s0 : State} (s : State) (r : Region) (q : Nat) (hk : Keeps s0 s) : Keeps s0 (commitRound s r q) := by
  unfold commitRound
  try dsimp only
  repeat' first
    | with_reducible assumption
    | with_reducible apply publishBu_keeps
    | with_reducible apply advanceRegion_keeps
    | (with_reducible refine keeps_foldl ?_ ?_)

theorem dropEntries_keeps {s0 : State} (s : State) (ns : List Nat) (q : Nat) (hk : Keeps s0 s) : Keeps s0 (dropEntries s ns q) := by
  unfold dropEntries
  try dsimp only
  repeat' first
    | with_reducible assumption
    | with_reducible apply endRole_keeps
    | with_reducible apply keeps_modBu
    | (with_reducible refine keeps_modHub_same ?_ (by rfl))
    | (with_reducible refine keeps_foldl ?_ ?_)
    | (intro _ hb; exact hb)
    | split
    | (intro _ _ _; try dsimp only)
    | fail_if_no_progress (with_reducible refine keeps_ms ?_ (by first | rfl | with_unfolding_all rfl | (simp only [join_mem]; done)) (by first | rfl | with_unfolding_all rfl | (simp only [join_base]; done)))

theorem mirrorHeld_keeps {s0 : State} (s : State) (q : Nat) (from_ to_ : List Nat) (hk : Keeps s0 s) : Keeps s0 (mirrorHeld s q from_ to_) := by
  unfold mirrorHeld
  try dsimp only
  repeat' first
    | with_reducible assumption
    | (with_reducible refine keeps_modHub_same ?_ (by rfl))

theorem publishOne_keeps {s0 : State} (s : State) (main other : Region) (q : Nat) (hk : Keeps s0 s) : Keeps s0 (publishOne s main other q) := by
  unfold publishOne
  try dsimp only
  repeat' first
    | with_reducible assumption
    | with_reducible apply advanceRegion_keeps
    | with_reducible apply commitRound_keeps
    | with_reducible apply dropEntries_keeps
    | with_reducible apply mirrorHeld_keeps

theorem compareVotes_keeps {s0 : State} (s : State) (r t : Region) (q : Nat) (hk : Keeps s0 s) : Keeps s0 (compareVotes s r t q) := by
  unfold compareVotes
  try dsimp only
  repeat' first
    | with_reducible assumption
    | with_reducible apply State_startWave_keeps
    | with_reducible apply addRegion_keeps
    | with_reducible apply startWaiting_keeps
    | with_reducible apply publishOne_keeps
    | with_reducible apply keeps_ite
    | (with_reducible refine Region.savedOk_none (by with_unfolding_all rfl))

theorem voteRound_keeps {s0 : State} (s : State) (r : Region) (hk : Keeps s0 s) : Keeps s0 (voteRound s r) := by
  unfold voteRound
  try dsimp only
  repeat' first
    | with_reducible assumption
    | with_reducible apply compareVotes_keeps
    | with_reducible apply keeps_ite
    | with_reducible apply keeps_modRegion
    | (with_reducible refine Region.savedOk_same (by with_reducible assumption) (by with_unfolding_all rfl))
    | (with_reducible intro _; with_reducible intro (_ : Region.SavedOk _); try dsimp only)
    | split

theorem retryExpiry_keeps {s0 : State} (s : State) (rid : Nat) (hk : Keeps s0 s) : Keeps s0 (retryExpiry s rid) := by
  unfold retryExpiry
  try dsimp only
  repeat' first
    | with_reducible assumption
    | with_reducible apply expireRegion_keeps
    | with_reducible apply keeps_ite
    | split

theorem execRoundCommit_keeps {s0 : State} (s : State) (hk : Keeps s0 s) : KeepsOut s0 (execRoundCommit s) := by
  unfold execRoundCommit
  try dsimp only
  repeat' first
    | with_reducible assumption
    | with_reducible apply commitRound_keeps
    | with_reducible apply voteRound_keeps
    | with_reducible apply retryExpiry_keeps
    | with_reducible apply keeps_ite
    | with_reducible apply keepsOut_nextState
    | split

theorem removeRegion_keeps {s0 : State} (s : State) (r : Region) (hk : Keeps s0 s) : Keeps s0 (removeRegion s r) := by
  unfold removeRegion
  have h1 : Keeps s0 (if r.place.isSome then releaseRegion s r.id else s) := keeps_ite (releaseRegion_keeps _ _ hk) hk
  exact keeps_modHub h1 (savedOk_mapDel h1.savedOk)

theorem loadThird_keeps {s0 : State} (s : State) (r t : Region) (im : Image) (ht : t.SavedOk) (hk : Keeps s0 s) :
    Keeps s0 (loadThird s r t im) := by
  unfold loadThird
  dsimp only
  refine State_restoreRound_keeps _ _ (State_dropRounds_keeps _ _ (keeps_modRegion ?_ (fun _ _ => Region.savedOk_same ht rfl)))
  refine keeps_ms (keeps_foldl hk ?_) (joins_mem _ _ _ _).1 (joins_mem _ _ _ _).2
  intro u x h
  exact keeps_modBu h (fun b _ => restoredBu_wf (b := u.bu x.1.2) (wf_bu h.wf x.1.1))

theorem thirdOf_savedOk {s0 s : State} {r x : Region} (h : Keeps s0 s) (e : s.thirdOf r = some x) : x.SavedOk := by
  unfold State.thirdOf at e
  obtain ⟨y, hy, rfl⟩ := Option.map_eq_some_iff.1 e
  exact h.savedOk y (List.mem_of_find?_eq_some hy)

theorem suspectPlace_keeps {s0 : State} (s : State) (r : Region) (launch : Nat) (hk : Keeps s0 s) : Keeps s0 (suspectPlace s r launch) := by
  unfold suspectPlace
  try dsimp only
  repeat' first
    | with_reducible assumption
    | with_reducible apply State_post_keeps
    | (with_reducible refine keeps_modHub_same ?_ (by rfl))
    | fail_if_no_progress with_reducible apply keeps_health

theorem forgetHeld_keeps {s0 : State} (s : State) (r : Region) (hk : Keeps s0 s) : Keeps s0 (forgetHeld s r) := by
  unfold forgetHeld
  try dsimp only
  repeat' first
    | with_reducible assumption
    | with_reducible apply dropLines_keeps
    | with_reducible apply dropHeld_keeps
    | with_reducible apply keeps_modBu
    | (with_reducible refine keeps_foldl ?_ ?_)
    | (intro _ hb; exact hb)
    | (intro _ _ _; try dsimp only)

theorem adoptThird_keeps {s0 : State} (s : State) (rid tid : Nat) (hk : Keeps s0 s) : Keeps s0 (adoptThird s rid tid) := by
  unfold adoptThird
  try dsimp only
  repeat' first
    | with_reducible assumption
    | with_reducible apply keeps_modRegion
    | (with_reducible refine Region.savedOk_same (by with_reducible assumption) (by with_unfolding_all rfl))
    | (with_reducible intro _; with_reducible intro (_ : Region.SavedOk _); try dsimp only)

theorem endVote_keeps {s0 : State} (s : State) (rid : Nat) (hk : Keeps s0 s) : Keeps s0 (endVote s rid) := by
  unfold endVote
  try dsimp only
  repeat' first
    | with_reducible assumption
    | with_reducible apply State_thawBu_keeps
    | (with_reducible refine keeps_foldl ?_ ?_)
    | split
    | (intro _ _ _; try dsimp only)

theorem settleForMain_keeps {s0 : State} (s : State) (r t x : Region) (launch : Nat) (hk : Keeps s0 s) : Keeps s0 (settleForMain s r t x launch) := by
  unfold settleForMain
  try dsimp only
  repeat' first
    | with_reducible assumption
    | with_reducible apply publishOne_keeps
    | with_reducible apply removeRegion_keeps
    | with_reducible apply suspectPlace_keeps
    | with_reducible apply forgetHeld_keeps
    | with_reducible apply adoptThird_keeps
    | with_reducible apply endVote_keeps

theorem settleForTwin_keeps {s0 : State} (s : State) (r t x : Region) (launch : Nat) (hk : Keeps s0 s) :
    Keeps s0 (settleForTwin s r t x launch) := by
  unfold settleForTwin
  dsimp only
  have h1 := suspectPlace_keeps _ r launch (forgetHeld_keeps s r hk)
  have h3 := keeps_foldl (l := (suspectPlace (forgetHeld s r) r launch).regionBus t)
    (f := fun s n => s.modBu n (fun b => { b with region := some r.id })) (releaseRegion_keeps _ r.id h1)
    (fun t x h => keeps_modBu h (fun _ hb => hb))
  have h4 := keeps_modHub (f := fun h => { h with
    regions := mapDel t.id (mapMod r.id (fun g => { g with place := t.place, placedAt := t.placedAt, waitSince := none, placedClock := t.placedClock, opened := max g.opened t.opened }) h.regions),
    reqs := h.reqs.map (fun q => if ((suspectPlace (forgetHeld s r) r launch).regionBus t).contains q.org.bu then { q with org := { q.org with region := r.id } } else q) }) h3
    (savedOk_mapDel (savedOk_mapMod h3.savedOk (fun g hg => Region.savedOk_same hg rfl)))
  split
  · exact endVote_keeps _ _ (publishOne_keeps _ _ _ _ (adoptThird_keeps _ _ _ h4))
  · exact h4

theorem settleForNone_keeps {s0 : State} (s : State) (r t x : Region) (launch : Nat) (hk : Keeps s0 s) : Keeps s0 (settleForNone s r t x launch) := by
  unfold settleForNone
  try dsimp only
  repeat' first
    | with_reducible assumption
    | with_reducible apply State_postTo_keeps
    | with_reducible apply State_modLaunch_keeps
    | with_reducible apply releaseRegion_keeps
    | with_reducible apply cancelLaunches_keeps
    | with_reducible apply removeRegion_keeps
    | with_reducible apply forgetHeld_keeps
    | (with_reducible refine keeps_foldl ?_ ?_)
    | (intro _ _ _; try dsimp only)

theorem execThirdPlacementVote_keeps {s0 : State} (s : State) (hk : Keeps s0 s) : KeepsOut s0 (execThirdPlacementVote s) := by
  unfold execThirdPlacementVote
  apply keepsOut_nextState
  split
  · exact hk
  split
  · rename_i r _ _ _ _ _ _ _ _ _ hx _
    refine keeps_ite (removeRegion_keeps _ _ hk) (keeps_ite hk (keeps_ite (keeps_ite ?_ hk) ?_))
    · exact loadThird_keeps _ _ _ _ (thirdOf_savedOk hk hx) hk
    · exact keeps_ite hk (keeps_ite (settleForMain_keeps _ _ _ _ _ hk)
        (keeps_ite (settleForTwin_keeps _ _ _ _ _ hk) (settleForNone_keeps _ _ _ _ _ hk)))
  · exact hk

theorem execRollback_keeps {s0 : State} (s : State) (hk : Keeps s0 s) : KeepsOut s0 (execRollback s) := by
  unfold execRollback
  try dsimp only
  repeat' first
    | with_reducible assumption
    | with_reducible apply State_thawBu_keeps
    | with_reducible apply State_startWave_keeps
    | with_reducible apply State_dropRounds_keeps
    | with_reducible apply State_restoreRound_keeps
    | with_reducible apply keeps_ite
    | with_reducible apply keeps_modRegion
    | (with_reducible refine keeps_foldl ?_ ?_)
    | with_reducible apply keepsOut_nextState
    | (with_reducible refine Region.savedOk_same (by with_reducible assumption) (by with_unfolding_all rfl))
    | (with_reducible intro _; with_reducible intro (_ : Region.SavedOk _); try dsimp only)
    | split
    | (intro _ _ _; try dsimp only)

theorem execFreezeWave_keeps {s0 : State} (s : State) (hk : Keeps s0 s) : KeepsOut s0 (execFreezeWave s) := by
  unfold execFreezeWave
  try dsimp only
  repeat' first
    | with_reducible assumption
    | with_reducible apply State_freezeBu_keeps
    | with_reducible apply keeps_ite
    | (with_reducible refine keeps_foldl ?_ ?_)
    | with_reducible apply keepsOut_nextState
    | (intro _ _ _; try dsimp only)

theorem postHang_keeps {s0 : State} (s : State) (r : Region) (entries : Nat) (cut : Bool) (hk : Keeps s0 s) : Keeps s0 (postHang s r entries cut) := by
  unfold postHang
  try dsimp only
  repeat' first
    | with_reducible assumption
    | with_reducible apply State_post_keeps
    | with_reducible apply keeps_modRegion
    | (with_reducible refine Region.savedOk_same (by with_reducible assumption) (by with_unfolding_all rfl))
    | (with_reducible intro _; with_reducible intro (_ : Region.SavedOk _); try dsimp only)

theorem writeHang_keeps {s0 : State} (s : State) (r : Region) (im : Image) (hk : Keeps s0 s) : Keeps s0 (writeHang s r im) := by
  unfold writeHang
  try dsimp only
  repeat' first
    | with_reducible assumption
    | with_reducible apply writeVa_keeps
    | with_reducible apply startRole_keeps
    | with_reducible apply endRole_keeps
    | with_reducible apply postHang_keeps
    | with_reducible apply keeps_ite
    | (with_reducible refine keeps_of_exc (by with_reducible assumption) ?_)
    | split

theorem execHang_keeps {s0 : State} (s : State) (hk : Keeps s0 s) : KeepsOut s0 (execHang s) := by
  unfold execHang
  try dsimp only
  repeat' first
    | with_reducible assumption
    | with_reducible apply State_freezeBu_keeps
    | with_reducible apply writeHang_keeps
    | with_reducible apply keeps_ite
    | (with_reducible refine keeps_foldl ?_ ?_)
    | with_reducible apply keepsOut_nextState
    | split
    | (intro _ _ _; try dsimp only)

theorem execRetentionEntry_keeps {s0 : State} (s : State) (hk : Keeps s0 s) : KeepsOut s0 (execRetentionEntry s) := by
  unfold execRetentionEntry
  try dsimp only
  repeat' first
    | with_reducible assumption
    | with_reducible apply keeps_ite
    | with_reducible apply keeps_modBu
    | with_reducible apply keepsOut_nextState
    | (intro _ hb; exact hb)

theorem execRetentionExit_keeps {s0 : State} (s : State) (hk : Keeps s0 s) : KeepsOut s0 (execRetentionExit s) := by
  unfold execRetentionExit
  try dsimp only
  repeat' first
    | with_reducible assumption
    | with_reducible apply keeps_ite
    | with_reducible apply keeps_modBu
    | with_reducible apply keepsOut_nextState
    | (intro _ hb; exact hb)

theorem execBankDropMigration_keeps {s0 : State} (s : State) (hk : Keeps s0 s) : KeepsOut s0 (execBankDropMigration s) := by
  unfold execBankDropMigration
  refine keepsOut_nextState (keeps_ite (keeps_modHub_same hk rfl) (keeps_modHub_same hk ?_))
  split
  · rfl
  · split <;> rfl

end Sys2Proof.Machine
end

