-- ==== Sys2Proof/Laws/KeepsOutside.lean ====
section
/-!
SUPPORT. What the operations of Machine/Outside.lean keep.
-/
namespace Sys2Proof.Machine
open Sys2Proof.Safety

theorem sound_modOut {s : State} {f : Outside → Outside} (h : Sound s) (hf : OutsideLegal (f s.out)) : Sound (s.modOut f) :=
  ⟨⟨h.memories.mem, h.memories.base, h.memories.banks, h.memories.saved⟩, hf⟩


theorem State_freezeAll_keeps {s0 : State} (s : State) (hk : Keeps s0 s) : Keeps s0 (State.freezeAll s) := by
  unfold State.freezeAll
  try dsimp only
  repeat' first
    | with_reducible assumption
    | with_reducible apply State_startWave_keeps
    | with_reducible apply keeps_ite
    | (with_reducible refine keeps_foldl ?_ ?_)
    | (intro _ _ _; try dsimp only)

theorem hostStoreOut_keeps {s0 : State} (s : State) (key : Nat) (bytes : List Byte) (hk : Keeps s0 s) : Keeps s0 (hostStoreOut s key bytes) := by
  unfold hostStoreOut
  try dsimp only
  repeat' first
    | with_reducible assumption
    | with_reducible apply keeps_freshFor
    | fail_if_no_progress (with_reducible refine keeps_ms ?_ (by first | rfl | with_unfolding_all rfl | (simp only [join_mem]; done)) (by first | rfl | with_unfolding_all rfl | (simp only [join_base]; done)))

theorem execHostMemoryWrite_keeps {s0 : State} (s : State) (hk : Keeps s0 s) : KeepsOut s0 (execHostMemoryWrite s) := by
  unfold execHostMemoryWrite
  try dsimp only
  repeat' first
    | with_reducible assumption
    | with_reducible apply writeNow_keeps
    | with_reducible apply hostStoreOut_keeps
    | with_reducible apply keeps_ite
    | (with_reducible refine keeps_foldl ?_ ?_)
    | with_reducible apply keepsOut_nextState
    | (intro _ _ _; try dsimp only)

theorem execJondovyLinkTraining_sound {s : State} (h : Sound s) : SoundOut (execJondovyLinkTraining s) := by
  unfold execJondovyLinkTraining
  refine soundOut_next ?_
  split
  · rename_i hn
    have h' := h.outside
    refine sound_modOut h ⟨?_, h'.qbase, h'.moduleId, h'.tick, h'.clockLow, h'.clockHigh, h'.windows⟩
    have h2 : s.my.arg.n = 8 ∨ s.my.arg.n = 16 ∨ s.my.arg.n = 32 := by simpa [or_assoc] using hn
    exact Or.inr h2
  · exact h

theorem execLinkRetrainFailure_sound {s : State} (h : Sound s) : SoundOut (execLinkRetrainFailure s) := by
  have h' := h.outside
  have h1 : Sound (s.modOut (fun o => { o with lanes := 0, linkFailed := true })) :=
    sound_modOut h ⟨Or.inl rfl, h'.qbase, h'.moduleId, h'.tick, h'.clockLow, h'.clockHigh, h'.windows⟩
  exact soundOut_next (sound_of_keeps h1 (State_freezeAll_keeps _ (Keeps.refl h1.memories)))

theorem execBell_sound {s : State} (h : Sound s) : SoundOut (execBell s) := by
  have h' := h.outside
  exact soundOut_next (sound_modOut h ⟨h'.lanes, h'.qbase, h'.moduleId, h'.tick, h'.clockLow, h'.clockHigh, h'.windows⟩)

theorem execHbell_sound {s : State} (h : Sound s) : SoundOut (execHbell s) := by
  have h' := h.outside
  refine soundOut_next (sound_ite h ?_)
  exact (sound_modOut h ⟨h'.lanes, h'.qbase, h'.moduleId, h'.tick, h'.clockLow, h'.clockHigh, h'.windows⟩)

theorem execHostRegisterWrite_sound {s : State} (h : Sound s) : SoundOut (execHostRegisterWrite s) := by
  have h' := h.outside
  refine soundOut_next (sound_ite ?_ h)
  refine sound_modOut (sound_modOut h ?_) ?_ <;>
    exact ⟨h'.lanes, Nat.mul_mod_left _ _, h'.moduleId, h'.tick, h'.clockLow, h'.clockHigh, h'.windows⟩

theorem execHostMemoryRead_sound {s : State} (h : Sound s) : SoundOut (execHostMemoryRead s) := by
  refine soundOut_next (sound_ite ?_ h)
  have h1 := sound_of_keeps h (readMem_keeps s .host s.my.arg.n s.my.arg.m (Keeps.refl h.memories))
  have h' := h1.outside
  exact sound_modOut h1 ⟨h'.lanes, h'.qbase, h'.moduleId, h'.tick, h'.clockLow, h'.clockHigh, h'.windows⟩

theorem windows_set {o : Outside} (h : OutsideLegal o) {n w : Nat} (hw : w ≤ 32) : ∀ e ∈ mapSet n w o.peerWindows, e.2 ≤ 32 := by
  intro e he
  rcases mem_mapSet he with he | he
  · subst he; exact hw
  · exact h.windows e he

theorem execPeerLinkGrant_sound {s : State} (h : Sound s) : SoundOut (execPeerLinkGrant s) := by
  have h' := h.outside
  unfold execPeerLinkGrant
  refine soundOut_next ?_
  split
  · rename_i hn
    exact sound_modOut h ⟨h'.lanes, h'.qbase, h'.moduleId, h'.tick, h'.clockLow, h'.clockHigh, windows_set h' (by simp at hn; omega)⟩
  · exact h

theorem execPeerRequest_sound {s : State} (h : Sound s) : SoundOut (execPeerRequest s) := by
  have h' := h.outside
  refine soundOut_next (sound_ite ?_ h)
  have h1 (l : Nat) : Sound (s.modOut (fun o => { o with peerWindows := mapSet l (o.window l - 1) o.peerWindows })) :=
    sound_modOut h ⟨h'.lanes, h'.qbase, h'.moduleId, h'.tick, h'.clockLow, h'.clockHigh,
      windows_set h' (Nat.le_trans (Nat.sub_le _ _) (window_le h'.windows l))⟩
  have h2 (l : Nat) (p : Party) (a n : Nat) := readMem_keeps _ p a n (Keeps.refl (h1 l).memories)
  refine sound_ite ?_ ?_
  · exact sound_of_keeps (h1 _) (writeNow_keeps _ _ _ _ (h2 _ _ _ _))
  · exact sound_of_keeps (h1 _) (h2 _ _ _ _)

theorem tickTo_sound {s : State} (h : Sound s) {t : Nat} (ht : t < 2 ^ 64) : Sound (s.tickTo t) := by
  have h' := h.outside
  unfold State.tickTo
  refine sound_modOut (sound_of_keeps h (keeps_modHub_same (Keeps.refl h.memories) rfl)) ?_
  exact ⟨h'.lanes, h'.qbase, h'.moduleId, ht, h'.clockLow, h'.clockHigh, h'.windows⟩

theorem execModuleClockTick_sound {s : State} (h : Sound s) : SoundOut (execModuleClockTick s) := by
  have h1 : Sound (s.tickTo ((s.out.tick + 1) % 2 ^ 64)) := tickTo_sound h (Nat.mod_lt _ (by decide))
  refine soundOut_next (sound_of_keeps h1 (keeps_modHub (Keeps.refl h1.memories) ?_))
  intro e he
  obtain ⟨x, hx, rfl⟩ := List.mem_map.1 he
  have hs : x.2.SavedOk := (Keeps.refl h1.memories).savedOk x hx
  exact Region.savedOk_ite (c := (x.2.place.isSome && x.2.running.isSome) = true) (Region.savedOk_same hs rfl) hs

theorem execClockSync_sound {s : State} (h : Sound s) : SoundOut (execClockSync s) := by
  refine soundOut_next (sound_ite h ?_)
  have h1 : Sound (if s.my.arg.flag then s.tickTo (s.my.arg.n % 2 ^ 64) else s) :=
    sound_ite (tickTo_sound h (Nat.mod_lt _ (by decide))) h
  have h' := h1.outside
  exact sound_modOut h1 ⟨h'.lanes, h'.qbase, h'.moduleId, h'.tick, h'.clockLow, h'.clockHigh, h'.windows⟩

theorem execThermalClockStep_sound {s : State} (h : Sound s) : SoundOut (execThermalClockStep s) := by
  have h' := h.outside
  have hl := h'.clockLow
  have hh := h'.clockHigh
  refine soundOut_next (sound_modOut h ⟨h'.lanes, h'.qbase, h'.moduleId, h'.tick, ?_, ?_, h'.windows⟩)
  · dsimp only; split <;> omega
  · dsimp only; split <;> omega

theorem execAlarm_sound {s : State} (h : Sound s) : SoundOut (execAlarm s) := by
  have h' := h.outside
  have h1 : Sound (s.modOut (fun o => { o with cmdMute := o.cmdMute || o.cmdBegun, alarmCount := o.alarmCount + 1, health := { o.health with alarms := o.health.alarms + 1 } })) :=
    sound_modOut h ⟨h'.lanes, h'.qbase, h'.moduleId, h'.tick, h'.clockLow, h'.clockHigh, h'.windows⟩
  refine soundOut_next (sound_ite h ?_)
  split
  · exact h1
  · have h2 := sound_modOut (f := fun o => { o with keyErased := true, locked := true }) h1
      ⟨h'.lanes, h'.qbase, h'.moduleId, h'.tick, h'.clockLow, h'.clockHigh, h'.windows⟩
    exact sound_of_keeps h2 (State_freezeAll_keeps _ (Keeps.refl h2.memories))

theorem reset_outside : OutsideLegal State.reset.out :=
  ⟨Or.inl rfl, rfl, (fun _ e => by cases e), (by decide), (by decide), (by decide), (fun e he => by cases he)⟩

theorem execPowerOn_sound {s : State} (h : Sound s) : SoundOut (execPowerOn s) := by
  have h' := reset_outside
  refine soundOut_next ⟨⟨Memory.wfFrom_filter h.memories.mem, Memory.wfFrom_filter h.memories.mem, ?_, ?_⟩,
    ⟨h'.lanes, h'.qbase, h'.moduleId, h'.tick, h'.clockLow, h'.clockHigh, h'.windows⟩⟩
  · intro e he; cases he
  · intro e he; cases he

theorem execFwcallService_sound {s : State} (h : Sound s) : SoundOut (execFwcallService s) := by
  have h' := h.outside
  unfold execFwcallService
  refine soundOut_next ?_
  split
  · exact h
  rename_i q _
  split
  · exact h
  refine sound_ite h ?_
  have h1 : Sound (if q.row = .fwcallBell then s.modOut (fun o => { o with hbell := o.hbell ||| BitVec.ofNat 16 (2 ^ (q.a % 16)) }) else s) :=
    sound_ite (sound_modOut h ⟨h'.lanes, h'.qbase, h'.moduleId, h'.tick, h'.clockLow, h'.clockHigh, h'.windows⟩) h
  exact sound_of_keeps h1 (State_reply_keeps _ _ _ (Keeps.refl h1.memories))

end Sys2Proof.Machine
end

