-- ==== Sys2Proof/Laws/KeepsFirmware.lean ====
section
/-!
SUPPORT. What the operations of Machine/Firmware.lean keep.
-/
namespace Sys2Proof.Machine
open Sys2Proof.Safety

theorem State_finish_keeps {s0 : State} (s : State) (code : Nat) (st : CmdStatus) (r r2 : Nat) (hk : Keeps s0 s) : Keeps s0 (State.finish s code st r r2) := by
  unfold State.finish
  try dsimp only
  repeat' first
    | with_reducible assumption
    | with_reducible apply State_complete_keeps

theorem State_ok_keeps {s0 : State} (s : State) (code r : Nat) (hk : Keeps s0 s) : Keeps s0 (State.ok s code r) := by
  unfold State.ok
  try dsimp only
  repeat' first
    | with_reducible assumption
    | with_reducible apply State_finish_keeps

theorem State_badArg_keeps {s0 : State} (s : State) (code r : Nat) (hk : Keeps s0 s) : Keeps s0 (State.badArg s code r) := by
  unfold State.badArg
  try dsimp only
  repeat' first
    | with_reducible assumption
    | with_reducible apply State_finish_keeps

theorem jobCommand_keeps {s0 : State} (s : State) (code : Nat) (f : Nat → State) (hk : Keeps s0 s) (hk_f : ∀ x0, Keeps s0 (f x0)) : Keeps s0 (jobCommand s code f) := by
  unfold jobCommand
  try dsimp only
  repeat' first
    | with_reducible assumption
    | with_reducible apply State_finish_keeps
    | with_reducible apply hk_f
    | with_reducible apply keeps_ite

theorem hostCommand_keeps {s0 : State} (s : State) (code : Nat) (t : State) (hk : Keeps s0 s) (hk : Keeps s0 t) : Keeps s0 (hostCommand s code t) := by
  unfold hostCommand
  try dsimp only
  repeat' first
    | with_reducible assumption
    | with_reducible apply State_finish_keeps
    | with_reducible apply keeps_ite

theorem armAt_keeps {s0 : State} (s : State) (job a : Nat) (hk : Keeps s0 s) : Keeps s0 (armAt s job a).2 := by
  unfold armAt
  try dsimp only
  repeat' first
    | with_reducible assumption
    | (with_reducible refine keeps_modHub_same ?_ (by rfl))
    | split

theorem execArm_keeps {s0 : State} (s : State) (hk : Keeps s0 s) : KeepsOut s0 (execArm s) := by
  unfold execArm
  try dsimp only
  repeat' first
    | with_reducible assumption
    | with_reducible apply State_cmdDone_keeps
    | with_reducible apply State_answerHost_keeps
    | with_reducible apply jobCommand_keeps
    | with_reducible apply armAt_keeps
    | with_reducible apply keepsOut_nextState
    | (intro _; try dsimp only)

theorem execArmRelease_keeps {s0 : State} (s : State) (hk : Keeps s0 s) : KeepsOut s0 (execArmRelease s) := by
  unfold execArmRelease
  try dsimp only
  repeat' first
    | with_reducible assumption
    | with_reducible apply State_cmdWaits_keeps
    | with_reducible apply cancelLaunches_keeps
    | with_reducible apply dropImage_keeps
    | with_reducible apply State_finish_keeps
    | with_reducible apply State_ok_keeps
    | with_reducible apply State_badArg_keeps
    | with_reducible apply jobCommand_keeps
    | with_reducible apply keeps_ite
    | with_reducible apply keepsOut_nextState
    | split
    | (intro _; try dsimp only)

theorem launchDone_keeps {s0 : State} (s : State) (code : Nat) (r : Except Code Nat) (hk : Keeps s0 s) : Keeps s0 (launchDone s code r) := by
  unfold launchDone
  try dsimp only
  repeat' first
    | with_reducible assumption
    | with_reducible apply State_ok_keeps
    | with_reducible apply State_badArg_keeps
    | split

theorem launchAt_keeps {s0 : State} (s : State) (code job a : Nat) (dual : Bool) (hk : Keeps s0 s) : Keeps s0 (launchAt s code job a dual) := by
  unfold launchAt
  try dsimp only
  repeat' first
    | with_reducible assumption
    | with_reducible apply rejectLaunch_keeps
    | with_reducible apply submitLaunch_keeps
    | with_reducible apply State_badArg_keeps
    | with_reducible apply launchDone_keeps
    | with_reducible apply keeps_ite
    | split

theorem launchRefused_keeps {s0 : State} (s : State) (job a0 a1 : Nat) (hk : Keeps s0 s) : Keeps s0 (launchRefused s job a0 a1) := by
  unfold launchRefused
  try dsimp only
  repeat' first
    | with_reducible assumption
    | with_reducible apply rejectLaunch_keeps
    | with_reducible apply stage1_keeps
    | with_reducible apply stage4_keeps
    | (with_reducible refine keeps_modHub_same ?_ (by rfl))
    | (with_reducible refine keeps_of_opt (by with_reducible assumption) ?_)
    | split

theorem runLaunch_keeps {s0 : State} (s : State) (dual : Bool) (hk : Keeps s0 s) : Keeps s0 (runLaunch s dual) := by
  unfold runLaunch
  try dsimp only
  repeat' first
    | with_reducible assumption
    | with_reducible apply State_cmdWaits_keeps
    | with_reducible apply startJob_keeps
    | with_reducible apply State_finish_keeps
    | with_reducible apply State_badArg_keeps
    | with_reducible apply jobCommand_keeps
    | with_reducible apply launchAt_keeps
    | with_reducible apply launchRefused_keeps
    | with_reducible apply keeps_ite
    | (with_reducible refine keeps_of_opt (by with_reducible assumption) ?_)
    | split
    | (intro _; try dsimp only)

theorem execLaunch_keeps {s0 : State} (s : State) (hk : Keeps s0 s) : KeepsOut s0 (execLaunch s) := by
  unfold execLaunch
  try dsimp only
  repeat' first
    | with_reducible assumption
    | with_reducible apply runLaunch_keeps
    | with_reducible apply keepsOut_nextState

theorem execLaunchDual_keeps {s0 : State} (s : State) (hk : Keeps s0 s) : KeepsOut s0 (execLaunchDual s) := by
  unfold execLaunchDual
  try dsimp only
  repeat' first
    | with_reducible assumption
    | with_reducible apply runLaunch_keeps
    | with_reducible apply keepsOut_nextState

theorem submitGang_keeps {s0 : State} (s : State) (j : Job) (n : Nat) (aligned : Bool) (hk : Keeps s0 s) : Keeps s0 (submitGang s j n aligned).2 := by
  unfold submitGang
  try dsimp only
  repeat' first
    | with_reducible assumption
    | with_reducible apply State_postTo_keeps
    | with_reducible apply needRegion_keeps
    | with_reducible apply queueLaunch_keeps
    | with_reducible apply rejectLaunch_keeps
    | split

theorem execGang_keeps {s0 : State} (s : State) (hk : Keeps s0 s) : KeepsOut s0 (execGang s) := by
  unfold execGang
  try dsimp only
  repeat' first
    | with_reducible assumption
    | with_reducible apply State_cmdWaits_keeps
    | with_reducible apply State_modJob_keeps
    | with_reducible apply State_ok_keeps
    | with_reducible apply State_badArg_keeps
    | with_reducible apply jobCommand_keeps
    | with_reducible apply launchDone_keeps
    | with_reducible apply submitGang_keeps
    | with_reducible apply keepsOut_nextState
    | split
    | (intro _; try dsimp only)

theorem execCancelCommand_keeps {s0 : State} (s : State) (hk : Keeps s0 s) : KeepsOut s0 (execCancelCommand s) := by
  unfold execCancelCommand
  try dsimp only
  repeat' first
    | with_reducible assumption
    | with_reducible apply cancelWork_keeps
    | with_reducible apply settleJobs_keeps
    | with_reducible apply State_ok_keeps
    | with_reducible apply State_badArg_keeps
    | with_reducible apply jobCommand_keeps
    | with_reducible apply keeps_ite
    | with_reducible apply keepsOut_nextState
    | (with_reducible refine keeps_of_excP (by with_reducible assumption) ?_)
    | split
    | (intro _; try dsimp only)

theorem execQueryCounter_keeps {s0 : State} (s : State) (hk : Keeps s0 s) : KeepsOut s0 (execQueryCounter s) := by
  unfold execQueryCounter
  try dsimp only
  repeat' first
    | with_reducible assumption
    | with_reducible apply synchronise_keeps
    | with_reducible apply State_ok_keeps
    | with_reducible apply State_badArg_keeps
    | with_reducible apply jobCommand_keeps
    | (with_reducible refine keeps_foldl ?_ ?_)
    | with_reducible apply keepsOut_nextState
    | split
    | (intro _ _ _; try dsimp only)
    | (intro _; try dsimp only)

theorem popAnswer_keeps {s0 : State} (s : State) (q : List FaultRec) (hk : Keeps s0 s) : Keeps s0 (popAnswer s q) := by
  unfold popAnswer
  try dsimp only
  repeat' first
    | with_reducible assumption
    | with_reducible apply State_finish_keeps
    | with_reducible apply State_ok_keeps
    | split

theorem execQueryGraphQueue_keeps {s0 : State} (s : State) (hk : Keeps s0 s) : KeepsOut s0 (execQueryGraphQueue s) := by
  unfold execQueryGraphQueue
  try dsimp only
  repeat' first
    | with_reducible assumption
    | with_reducible apply State_finish_keeps
    | with_reducible apply jobCommand_keeps
    | with_reducible apply popAnswer_keeps
    | with_reducible apply keeps_modRegion
    | with_reducible apply keepsOut_nextState
    | (with_reducible refine Region.savedOk_same (by with_reducible assumption) (by with_unfolding_all rfl))
    | with_reducible apply Region.savedOk_ite
    | (with_reducible intro _; with_reducible intro (_ : Region.SavedOk _); try dsimp only)
    | split
    | (intro _; try dsimp only)

theorem execQueryPhaseQueue_keeps {s0 : State} (s : State) (hk : Keeps s0 s) : KeepsOut s0 (execQueryPhaseQueue s) := by
  unfold execQueryPhaseQueue
  try dsimp only
  repeat' first
    | with_reducible assumption
    | with_reducible apply State_setPhaseQueue_keeps
    | with_reducible apply State_badArg_keeps
    | with_reducible apply jobCommand_keeps
    | with_reducible apply popAnswer_keeps
    | with_reducible apply keeps_ite
    | with_reducible apply keepsOut_nextState
    | (intro _; try dsimp only)

theorem execQueryRgnStat_keeps {s0 : State} (s : State) (hk : Keeps s0 s) : KeepsOut s0 (execQueryRgnStat s) := by
  unfold execQueryRgnStat
  try dsimp only
  repeat' first
    | with_reducible assumption
    | with_reducible apply State_finish_keeps
    | with_reducible apply State_ok_keeps
    | with_reducible apply jobCommand_keeps
    | with_reducible apply keepsOut_nextState
    | split
    | (intro _; try dsimp only)

theorem execQueryHealth_keeps {s0 : State} (s : State) (hk : Keeps s0 s) : KeepsOut s0 (execQueryHealth s) := by
  unfold execQueryHealth
  try dsimp only
  repeat' first
    | with_reducible assumption
    | with_reducible apply writeNow_keeps
    | with_reducible apply State_ok_keeps
    | with_reducible apply State_badArg_keeps
    | with_reducible apply jobCommand_keeps
    | with_reducible apply keepsOut_nextState
    | split
    | (intro _; try dsimp only)
    | fail_if_no_progress with_reducible apply keeps_my

theorem execMap_keeps {s0 : State} (s : State) (hk : Keeps s0 s) : KeepsOut s0 (execMap s) := by
  unfold execMap
  try dsimp only
  repeat' first
    | with_reducible assumption
    | with_reducible apply writeNow_keeps
    | with_reducible apply dropTrans_keeps
    | with_reducible apply dropWalks_keeps
    | with_reducible apply State_ok_keeps
    | with_reducible apply State_badArg_keeps
    | with_reducible apply jobCommand_keeps
    | (with_reducible refine keeps_foldl ?_ ?_)
    | with_reducible apply keepsOut_nextState
    | split
    | (intro _ _ _; try dsimp only)
    | (intro _; try dsimp only)

theorem execBindClass_keeps {s0 : State} (s : State) (hk : Keeps s0 s) : KeepsOut s0 (execBindClass s) := by
  unfold execBindClass
  try dsimp only
  repeat' first
    | with_reducible assumption
    | with_reducible apply State_ok_keeps
    | with_reducible apply State_badArg_keeps
    | with_reducible apply jobCommand_keeps
    | (with_reducible refine keeps_modHub_same ?_ (by rfl))
    | with_reducible apply keepsOut_nextState
    | split
    | (intro _; try dsimp only)

theorem execBindTransform_keeps {s0 : State} (s : State) (hk : Keeps s0 s) : KeepsOut s0 (execBindTransform s) := by
  unfold execBindTransform
  try dsimp only
  repeat' first
    | with_reducible assumption
    | with_reducible apply retireXforms_keeps
    | with_reducible apply State_ok_keeps
    | with_reducible apply State_badArg_keeps
    | with_reducible apply jobCommand_keeps
    | (with_reducible refine keeps_modHub_same ?_ (by rfl))
    | with_reducible apply keepsOut_nextState
    | split
    | (intro _; try dsimp only)

theorem execAttest_keeps {s0 : State} (s : State) (hk : Keeps s0 s) : KeepsOut s0 (execAttest s) := by
  unfold execAttest
  try dsimp only
  repeat' first
    | with_reducible assumption
    | with_reducible apply writeNow_keeps
    | with_reducible apply State_ok_keeps
    | with_reducible apply State_badArg_keeps
    | with_reducible apply hostCommand_keeps
    | with_reducible apply keeps_ite
    | with_reducible apply keepsOut_nextState
    | fail_if_no_progress with_reducible apply keeps_my

theorem policy_keeps {s0 : State} (s : State) (good : Bool) (t : State) (hk : Keeps s0 s) (hk : Keeps s0 t) : Keeps s0 (policy s good t) := by
  unfold policy
  try dsimp only
  repeat' first
    | with_reducible assumption
    | with_reducible apply State_ok_keeps
    | with_reducible apply State_badArg_keeps
    | with_reducible apply hostCommand_keeps
    | with_reducible apply keeps_ite

theorem execPolicyPool_keeps {s0 : State} (s : State) (hk : Keeps s0 s) : KeepsOut s0 (execPolicyPool s) := by
  unfold execPolicyPool
  try dsimp only
  repeat' first
    | with_reducible assumption
    | with_reducible apply policy_keeps
    | (with_reducible refine keeps_modHub_same ?_ (by rfl))
    | with_reducible apply keepsOut_nextState

theorem execPolicySpanDirectory_keeps {s0 : State} (s : State) (hk : Keeps s0 s) : KeepsOut s0 (execPolicySpanDirectory s) := by
  unfold execPolicySpanDirectory
  try dsimp only
  repeat' first
    | with_reducible assumption
    | with_reducible apply policy_keeps
    | (with_reducible refine keeps_modHub_same ?_ (by rfl))
    | with_reducible apply keepsOut_nextState

theorem execPolicyCeWin_keeps {s0 : State} (s : State) (hk : Keeps s0 s) : KeepsOut s0 (execPolicyCeWin s) := by
  unfold execPolicyCeWin
  try dsimp only
  repeat' first
    | with_reducible assumption
    | with_reducible apply policy_keeps
    | (with_reducible refine keeps_modHub_same ?_ (by rfl))
    | with_reducible apply keepsOut_nextState

theorem execPolicyBudget_keeps {s0 : State} (s : State) (hk : Keeps s0 s) : KeepsOut s0 (execPolicyBudget s) := by
  unfold execPolicyBudget
  try dsimp only
  repeat' first
    | with_reducible assumption
    | with_reducible apply State_modJob_keeps
    | with_reducible apply policy_keeps
    | with_reducible apply keepsOut_nextState

theorem policy_sound {s t : State} {good : Bool} (h : Sound s) (ht : Sound t) : Sound (policy s good t) := by
  have hb := sound_of_keeps h (State_badArg_keeps s 10 0 (Keeps.refl h.memories))
  have ho := sound_of_keeps ht (State_ok_keeps t 10 0 (Keeps.refl ht.memories))
  exact sound_ite (sound_ite ho hb) (sound_of_keeps h (State_finish_keeps _ _ _ _ _ (Keeps.refl h.memories)))

theorem execReset_sound {s : State} (h : Sound s) : SoundOut (execReset s) := by
  refine soundOut_next (sound_ite ?_ (sound_of_keeps h (State_finish_keeps _ _ _ _ _ (Keeps.refl h.memories))))
  have h1 := sound_of_keeps h (State_ok_keeps s 9 0 (Keeps.refl h.memories))
  have h' := h1.outside
  have hr := reset_outside
  refine ⟨⟨h1.memories.mem, h1.memories.base, ?_, ?_⟩, ⟨hr.lanes, hr.qbase, hr.moduleId, h'.tick, h'.clockLow, h'.clockHigh, hr.windows⟩⟩
  · intro e he
    obtain ⟨x, _, rfl⟩ := List.mem_map.1 he
    rfl
  · intro e he; cases he

theorem execPolicyModuleId_sound {s : State} (h : Sound s) : SoundOut (execPolicyModuleId s) := by
  have h' := h.outside
  refine soundOut_next (policy_sound h (sound_modOut h ⟨h'.lanes, h'.qbase, ?_, h'.tick, h'.clockLow, h'.clockHigh, h'.windows⟩))
  intro n e
  have e' : s.cmd.a1.toNat % 4096 = n := Option.some.inj e
  omega

theorem execPolicyTestMode_sound {s : State} (h : Sound s) : SoundOut (execPolicyTestMode s) := by
  have h' := h.outside
  exact soundOut_next (policy_sound h (sound_modOut h ⟨h'.lanes, h'.qbase, h'.moduleId, h'.tick, h'.clockLow, h'.clockHigh, h'.windows⟩))

theorem execPolicyClearMode_sound {s : State} (h : Sound s) : SoundOut (execPolicyClearMode s) := by
  have h1 := sound_of_keeps h (keeps_modBu (n := buNum (bitsOf s.cmd.a1.toNat 0 2) (bitsOf s.cmd.a1.toNat 2 7) (bitsOf s.cmd.a1.toNat 9 6))
    (f := fun b => { b with rns := { b.rns with mode := 0 } }) (Keeps.refl h.memories) (fun _ hb => hb))
  have h' := h1.outside
  exact soundOut_next (policy_sound h (sound_modOut h1 ⟨h'.lanes, h'.qbase, h'.moduleId, h'.tick, h'.clockLow, h'.clockHigh, h'.windows⟩))

theorem execPolicyAlarm_sound {s : State} (h : Sound s) : SoundOut (execPolicyAlarm s) := by
  have h' := h.outside
  exact soundOut_next (policy_sound h (sound_modOut h ⟨h'.lanes, h'.qbase, h'.moduleId, h'.tick, h'.clockLow, h'.clockHigh, h'.windows⟩))

theorem execPolicyTimeRoot_sound {s : State} (h : Sound s) : SoundOut (execPolicyTimeRoot s) := by
  have h' := h.outside
  exact soundOut_next (policy_sound h (sound_modOut h ⟨h'.lanes, h'.qbase, h'.moduleId, h'.tick, h'.clockLow, h'.clockHigh, h'.windows⟩))

end Sys2Proof.Machine
end

