-- ==== Sys2Proof/Laws/KeepsVecMem.lean ====
section
/-!
SUPPORT. What the operations of Machine/VecMem.lean keep.
-/
namespace Sys2Proof.Machine
open Sys2Proof.Safety

theorem execVld_keeps {s0 : State} (o : Op) (s : State) (hk : Keeps s0 s) : KeepsOut s0 (execVld o s) := by
  unfold execVld
  try dsimp only
  repeat' first
    | with_reducible assumption
    | with_reducible apply runVector_keeps
    | with_reducible apply keepsOut_nextState

theorem execVst_keeps {s0 : State} (o : Op) (s : State) (hk : Keeps s0 s) : KeepsOut s0 (execVst o s) := by
  unfold execVst
  try dsimp only
  repeat' first
    | with_reducible assumption
    | with_reducible apply runVector_keeps
    | with_reducible apply keepsOut_nextState

theorem execVldb_keeps {s0 : State} (o : Op) (s : State) (hk : Keeps s0 s) : KeepsOut s0 (execVldb o s) := by
  unfold execVldb
  try dsimp only
  repeat' first
    | with_reducible assumption
    | with_reducible apply runVector_keeps
    | with_reducible apply keepsOut_nextState

theorem execVstb_keeps {s0 : State} (o : Op) (s : State) (hk : Keeps s0 s) : KeepsOut s0 (execVstb o s) := by
  unfold execVstb
  try dsimp only
  repeat' first
    | with_reducible assumption
    | with_reducible apply runVector_keeps
    | with_reducible apply keepsOut_nextState

theorem execVgat_keeps {s0 : State} (o : Op) (s : State) (hk : Keeps s0 s) : KeepsOut s0 (execVgat o s) := by
  unfold execVgat
  try dsimp only
  repeat' first
    | with_reducible assumption
    | with_reducible apply runVector_keeps
    | with_reducible apply keepsOut_nextState

theorem execVsca_keeps {s0 : State} (o : Op) (s : State) (hk : Keeps s0 s) : KeepsOut s0 (execVsca o s) := by
  unfold execVsca
  try dsimp only
  repeat' first
    | with_reducible assumption
    | with_reducible apply runVector_keeps
    | with_reducible apply keepsOut_nextState

theorem execVconf_keeps {s0 : State} (o : Op) (s : State) (hk : Keeps s0 s) : KeepsOut s0 (execVconf o s) := by
  unfold execVconf
  try dsimp only
  repeat' first
    | with_reducible assumption
    | with_reducible apply runVector_keeps
    | with_reducible apply keepsOut_nextState

theorem execVisect_keeps {s0 : State} (o : Op) (s : State) (hk : Keeps s0 s) : KeepsOut s0 (execVisect o s) := by
  unfold execVisect
  try dsimp only
  repeat' first
    | with_reducible assumption
    | with_reducible apply runVector_keeps
    | with_reducible apply keepsOut_nextState

theorem execViota_keeps {s0 : State} (o : Op) (s : State) (hk : Keeps s0 s) : KeepsOut s0 (execViota o s) := by
  unfold execViota
  try dsimp only
  repeat' first
    | with_reducible assumption
    | with_reducible apply runVector_keeps
    | with_reducible apply keepsOut_nextState

theorem execVmask_keeps {s0 : State} (o : Op) (s : State) (hk : Keeps s0 s) : KeepsOut s0 (execVmask o s) := by
  unfold execVmask
  try dsimp only
  repeat' first
    | with_reducible assumption
    | with_reducible apply runVector_keeps
    | with_reducible apply keepsOut_nextState

end Sys2Proof.Machine
end

