-- ==== Sys2Proof/Laws/PerInstr.lean ====
section
/-!
SUPPORT. The family of statements `Encoding`: an instruction that is well formed decodes from its own word, one lemma for each
row of the opcode table.
-/
namespace Sys2Proof.Laws.Encoding

/-- A well-formed instruction that has a word decodes from it. -/
def Statement (i : Instr) : Prop := i.wf = true → ∀ w, encode i = some w → decodeWord w = .ok i

/-- The statement of a row with fields. -/
theorem of_row {i : Instr} {r : Row} {o : Op} (hw : i.wf = r.wfOp o) (he : encode i = some (BitVec.ofNat 64 (encodeOp r o)))
    (hm : r.mk o = some i) (h1 : r ≠ .imm) (h2 : r ≠ .nop) : Statement i := by
  intro h w hw'
  rw [he, Option.some.injEq] at hw'
  rw [← hw']
  exact decodeWord_encodeOp (hw ▸ h) hm h1 h2

/-- The statement of a step or a command, which has no operation word. -/
theorem of_none {i : Instr} (he : encode i = none) : Statement i := by
  intro _ w h
  rw [he] at h
  cases h

end Sys2Proof.Laws.Encoding

open Sys2Proof Sys2Proof.Laws.Encoding

theorem Sys2Proof.Laws.Encoding.add (o : Op) : Statement (.add o) := of_row rfl rfl rfl (by decide) (by decide)
theorem Sys2Proof.Laws.Encoding.sub (o : Op) : Statement (.sub o) := of_row rfl rfl rfl (by decide) (by decide)
theorem Sys2Proof.Laws.Encoding.mul (o : Op) : Statement (.mul o) := of_row rfl rfl rfl (by decide) (by decide)
theorem Sys2Proof.Laws.Encoding.mulh (o : Op) : Statement (.mulh o) := of_row rfl rfl rfl (by decide) (by decide)
theorem Sys2Proof.Laws.Encoding.mulhu (o : Op) : Statement (.mulhu o) := of_row rfl rfl rfl (by decide) (by decide)
theorem Sys2Proof.Laws.Encoding.div (o : Op) : Statement (.div o) := of_row rfl rfl rfl (by decide) (by decide)
theorem Sys2Proof.Laws.Encoding.divu (o : Op) : Statement (.divu o) := of_row rfl rfl rfl (by decide) (by decide)
theorem Sys2Proof.Laws.Encoding.rem (o : Op) : Statement (.rem o) := of_row rfl rfl rfl (by decide) (by decide)
theorem Sys2Proof.Laws.Encoding.remu (o : Op) : Statement (.remu o) := of_row rfl rfl rfl (by decide) (by decide)
theorem Sys2Proof.Laws.Encoding.and (o : Op) : Statement (.and o) := of_row rfl rfl rfl (by decide) (by decide)
theorem Sys2Proof.Laws.Encoding.or (o : Op) : Statement (.or o) := of_row rfl rfl rfl (by decide) (by decide)
theorem Sys2Proof.Laws.Encoding.xor (o : Op) : Statement (.xor o) := of_row rfl rfl rfl (by decide) (by decide)
theorem Sys2Proof.Laws.Encoding.andn (o : Op) : Statement (.andn o) := of_row rfl rfl rfl (by decide) (by decide)
theorem Sys2Proof.Laws.Encoding.shl (o : Op) : Statement (.shl o) := of_row rfl rfl rfl (by decide) (by decide)
theorem Sys2Proof.Laws.Encoding.shr (o : Op) : Statement (.shr o) := of_row rfl rfl rfl (by decide) (by decide)
theorem Sys2Proof.Laws.Encoding.sar (o : Op) : Statement (.sar o) := of_row rfl rfl rfl (by decide) (by decide)
theorem Sys2Proof.Laws.Encoding.rol (o : Op) : Statement (.rol o) := of_row rfl rfl rfl (by decide) (by decide)
theorem Sys2Proof.Laws.Encoding.min (o : Op) : Statement (.min o) := of_row rfl rfl rfl (by decide) (by decide)
theorem Sys2Proof.Laws.Encoding.max (o : Op) : Statement (.max o) := of_row rfl rfl rfl (by decide) (by decide)
theorem Sys2Proof.Laws.Encoding.minu (o : Op) : Statement (.minu o) := of_row rfl rfl rfl (by decide) (by decide)
theorem Sys2Proof.Laws.Encoding.maxu (o : Op) : Statement (.maxu o) := of_row rfl rfl rfl (by decide) (by decide)
theorem Sys2Proof.Laws.Encoding.clz (o : Op) : Statement (.clz o) := of_row rfl rfl rfl (by decide) (by decide)
theorem Sys2Proof.Laws.Encoding.ctz (o : Op) : Statement (.ctz o) := of_row rfl rfl rfl (by decide) (by decide)
theorem Sys2Proof.Laws.Encoding.popc (o : Op) : Statement (.popc o) := of_row rfl rfl rfl (by decide) (by decide)
theorem Sys2Proof.Laws.Encoding.sext (o : Op) : Statement (.sext o) := of_row rfl rfl rfl (by decide) (by decide)
theorem Sys2Proof.Laws.Encoding.zext (o : Op) : Statement (.zext o) := of_row rfl rfl rfl (by decide) (by decide)
theorem Sys2Proof.Laws.Encoding.bfx (o : Op) : Statement (.bfx o) := of_row rfl rfl rfl (by decide) (by decide)
theorem Sys2Proof.Laws.Encoding.bfi (o : Op) : Statement (.bfi o) := of_row rfl rfl rfl (by decide) (by decide)
theorem Sys2Proof.Laws.Encoding.shadd (o : Op) : Statement (.shadd o) := of_row rfl rfl rfl (by decide) (by decide)
theorem Sys2Proof.Laws.Encoding.mov (o : Op) : Statement (.mov o) := of_row rfl rfl rfl (by decide) (by decide)
theorem Sys2Proof.Laws.Encoding.movi (o : Op) : Statement (.movi o) := of_row rfl rfl rfl (by decide) (by decide)
theorem Sys2Proof.Laws.Encoding.movh (o : Op) : Statement (.movh o) := of_row rfl rfl rfl (by decide) (by decide)
theorem Sys2Proof.Laws.Encoding.ceq (o : Op) : Statement (.ceq o) := of_row rfl rfl rfl (by decide) (by decide)
theorem Sys2Proof.Laws.Encoding.cne (o : Op) : Statement (.cne o) := of_row rfl rfl rfl (by decide) (by decide)
theorem Sys2Proof.Laws.Encoding.clt (o : Op) : Statement (.clt o) := of_row rfl rfl rfl (by decide) (by decide)
theorem Sys2Proof.Laws.Encoding.cle (o : Op) : Statement (.cle o) := of_row rfl rfl rfl (by decide) (by decide)
theorem Sys2Proof.Laws.Encoding.cltu (o : Op) : Statement (.cltu o) := of_row rfl rfl rfl (by decide) (by decide)
theorem Sys2Proof.Laws.Encoding.cleu (o : Op) : Statement (.cleu o) := of_row rfl rfl rfl (by decide) (by decide)
theorem Sys2Proof.Laws.Encoding.ctst (o : Op) : Statement (.ctst o) := of_row rfl rfl rfl (by decide) (by decide)
theorem Sys2Proof.Laws.Encoding.pand (o : Op) : Statement (.pand o) := of_row rfl rfl rfl (by decide) (by decide)
theorem Sys2Proof.Laws.Encoding.por (o : Op) : Statement (.por o) := of_row rfl rfl rfl (by decide) (by decide)
theorem Sys2Proof.Laws.Encoding.pxor (o : Op) : Statement (.pxor o) := of_row rfl rfl rfl (by decide) (by decide)
theorem Sys2Proof.Laws.Encoding.pnot (o : Op) : Statement (.pnot o) := of_row rfl rfl rfl (by decide) (by decide)
theorem Sys2Proof.Laws.Encoding.pmov (o : Op) : Statement (.pmov o) := of_row rfl rfl rfl (by decide) (by decide)
theorem Sys2Proof.Laws.Encoding.pany (o : Op) : Statement (.pany o) := of_row rfl rfl rfl (by decide) (by decide)
theorem Sys2Proof.Laws.Encoding.pall (o : Op) : Statement (.pall o) := of_row rfl rfl rfl (by decide) (by decide)
theorem Sys2Proof.Laws.Encoding.sel (o : Op) : Statement (.sel o) := of_row rfl rfl rfl (by decide) (by decide)
theorem Sys2Proof.Laws.Encoding.exit (o : Op) : Statement (.exit o) := of_row rfl rfl rfl (by decide) (by decide)
theorem Sys2Proof.Laws.Encoding.exitRegisterTarget (o : Op) : Statement (.exitRegisterTarget o) := of_row rfl rfl rfl (by decide) (by decide)
theorem Sys2Proof.Laws.Encoding.call (o : Op) : Statement (.call o) := of_row rfl rfl rfl (by decide) (by decide)
theorem Sys2Proof.Laws.Encoding.callRegisterTarget (o : Op) : Statement (.callRegisterTarget o) := of_row rfl rfl rfl (by decide) (by decide)
theorem Sys2Proof.Laws.Encoding.ret (o : Op) : Statement (.ret o) := of_row rfl rfl rfl (by decide) (by decide)
theorem Sys2Proof.Laws.Encoding.halt (o : Op) : Statement (.halt o) := of_row rfl rfl rfl (by decide) (by decide)
theorem Sys2Proof.Laws.Encoding.yield (o : Op) : Statement (.yield o) := of_row rfl rfl rfl (by decide) (by decide)
theorem Sys2Proof.Laws.Encoding.rep (o : Op) : Statement (.rep o) := of_row rfl rfl rfl (by decide) (by decide)
theorem Sys2Proof.Laws.Encoding.imm (v : BitVec 32) : Statement (.imm v) := by
  intro _ w h
  rw [← Option.some.inj h]
  exact decodeWord_imm v
theorem Sys2Proof.Laws.Encoding.nop : Statement .nop := by
  intro _ w h
  rw [← Option.some.inj h]
  decide
theorem Sys2Proof.Laws.Encoding.trap (o : Op) : Statement (.trap o) := of_row rfl rfl rfl (by decide) (by decide)
theorem Sys2Proof.Laws.Encoding.eretResume (o : Op) : Statement (.eretResume o) := of_row rfl rfl rfl (by decide) (by decide)
theorem Sys2Proof.Laws.Encoding.eretPoison (o : Op) : Statement (.eretPoison o) := of_row rfl rfl rfl (by decide) (by decide)
theorem Sys2Proof.Laws.Encoding.eretEsc (o : Op) : Statement (.eretEsc o) := of_row rfl rfl rfl (by decide) (by decide)
theorem Sys2Proof.Laws.Encoding.brk (o : Op) : Statement (.brk o) := of_row rfl rfl rfl (by decide) (by decide)
theorem Sys2Proof.Laws.Encoding.evLoop (o : Op) : Statement (.evLoop o) := of_row rfl rfl rfl (by decide) (by decide)
theorem Sys2Proof.Laws.Encoding.evWait (o : Op) : Statement (.evWait o) := of_row rfl rfl rfl (by decide) (by decide)
theorem Sys2Proof.Laws.Encoding.evPulse (o : Op) : Statement (.evPulse o) := of_row rfl rfl rfl (by decide) (by decide)
theorem Sys2Proof.Laws.Encoding.evRd (o : Op) : Statement (.evRd o) := of_row rfl rfl rfl (by decide) (by decide)
theorem Sys2Proof.Laws.Encoding.evArm (o : Op) : Statement (.evArm o) := of_row rfl rfl rfl (by decide) (by decide)
theorem Sys2Proof.Laws.Encoding.ldb (o : Op) : Statement (.ldb o) := of_row rfl rfl rfl (by decide) (by decide)
theorem Sys2Proof.Laws.Encoding.ldh (o : Op) : Statement (.ldh o) := of_row rfl rfl rfl (by decide) (by decide)
theorem Sys2Proof.Laws.Encoding.ldw (o : Op) : Statement (.ldw o) := of_row rfl rfl rfl (by decide) (by decide)
theorem Sys2Proof.Laws.Encoding.ldd (o : Op) : Statement (.ldd o) := of_row rfl rfl rfl (by decide) (by decide)
theorem Sys2Proof.Laws.Encoding.stb (o : Op) : Statement (.stb o) := of_row rfl rfl rfl (by decide) (by decide)
theorem Sys2Proof.Laws.Encoding.sth (o : Op) : Statement (.sth o) := of_row rfl rfl rfl (by decide) (by decide)
theorem Sys2Proof.Laws.Encoding.stw (o : Op) : Statement (.stw o) := of_row rfl rfl rfl (by decide) (by decide)
theorem Sys2Proof.Laws.Encoding.std (o : Op) : Statement (.std o) := of_row rfl rfl rfl (by decide) (by decide)
theorem Sys2Proof.Laws.Encoding.lda (o : Op) : Statement (.lda o) := of_row rfl rfl rfl (by decide) (by decide)
theorem Sys2Proof.Laws.Encoding.stl (o : Op) : Statement (.stl o) := of_row rfl rfl rfl (by decide) (by decide)
theorem Sys2Proof.Laws.Encoding.fence (o : Op) : Statement (.fence o) := of_row rfl rfl rfl (by decide) (by decide)
theorem Sys2Proof.Laws.Encoding.fenceAcq (o : Op) : Statement (.fenceAcq o) := of_row rfl rfl rfl (by decide) (by decide)
theorem Sys2Proof.Laws.Encoding.fenceRls (o : Op) : Statement (.fenceRls o) := of_row rfl rfl rfl (by decide) (by decide)
theorem Sys2Proof.Laws.Encoding.ldm (o : Op) : Statement (.ldm o) := of_row rfl rfl rfl (by decide) (by decide)
theorem Sys2Proof.Laws.Encoding.stm (o : Op) : Statement (.stm o) := of_row rfl rfl rfl (by decide) (by decide)
theorem Sys2Proof.Laws.Encoding.prf (o : Op) : Statement (.prf o) := of_row rfl rfl rfl (by decide) (by decide)
theorem Sys2Proof.Laws.Encoding.vadd (o : Op) : Statement (.vadd o) := of_row rfl rfl rfl (by decide) (by decide)
theorem Sys2Proof.Laws.Encoding.vsub (o : Op) : Statement (.vsub o) := of_row rfl rfl rfl (by decide) (by decide)
theorem Sys2Proof.Laws.Encoding.vmul (o : Op) : Statement (.vmul o) := of_row rfl rfl rfl (by decide) (by decide)
theorem Sys2Proof.Laws.Encoding.vfma (o : Op) : Statement (.vfma o) := of_row rfl rfl rfl (by decide) (by decide)
theorem Sys2Proof.Laws.Encoding.vfms (o : Op) : Statement (.vfms o) := of_row rfl rfl rfl (by decide) (by decide)
theorem Sys2Proof.Laws.Encoding.vmin (o : Op) : Statement (.vmin o) := of_row rfl rfl rfl (by decide) (by decide)
theorem Sys2Proof.Laws.Encoding.vmax (o : Op) : Statement (.vmax o) := of_row rfl rfl rfl (by decide) (by decide)
theorem Sys2Proof.Laws.Encoding.vabs (o : Op) : Statement (.vabs o) := of_row rfl rfl rfl (by decide) (by decide)
theorem Sys2Proof.Laws.Encoding.vneg (o : Op) : Statement (.vneg o) := of_row rfl rfl rfl (by decide) (by decide)
theorem Sys2Proof.Laws.Encoding.vand (o : Op) : Statement (.vand o) := of_row rfl rfl rfl (by decide) (by decide)
theorem Sys2Proof.Laws.Encoding.vor (o : Op) : Statement (.vor o) := of_row rfl rfl rfl (by decide) (by decide)
theorem Sys2Proof.Laws.Encoding.vxor (o : Op) : Statement (.vxor o) := of_row rfl rfl rfl (by decide) (by decide)
theorem Sys2Proof.Laws.Encoding.vshl (o : Op) : Statement (.vshl o) := of_row rfl rfl rfl (by decide) (by decide)
theorem Sys2Proof.Laws.Encoding.vshr (o : Op) : Statement (.vshr o) := of_row rfl rfl rfl (by decide) (by decide)
theorem Sys2Proof.Laws.Encoding.vsar (o : Op) : Statement (.vsar o) := of_row rfl rfl rfl (by decide) (by decide)
theorem Sys2Proof.Laws.Encoding.vcmp (o : Op) : Statement (.vcmp o) := of_row rfl rfl rfl (by decide) (by decide)
theorem Sys2Proof.Laws.Encoding.vsel (o : Op) : Statement (.vsel o) := of_row rfl rfl rfl (by decide) (by decide)
theorem Sys2Proof.Laws.Encoding.vdot (o : Op) : Statement (.vdot o) := of_row rfl rfl rfl (by decide) (by decide)
theorem Sys2Proof.Laws.Encoding.vsum (o : Op) : Statement (.vsum o) := of_row rfl rfl rfl (by decide) (by decide)
theorem Sys2Proof.Laws.Encoding.vrmin (o : Op) : Statement (.vrmin o) := of_row rfl rfl rfl (by decide) (by decide)
theorem Sys2Proof.Laws.Encoding.vrmax (o : Op) : Statement (.vrmax o) := of_row rfl rfl rfl (by decide) (by decide)
theorem Sys2Proof.Laws.Encoding.vbcast (o : Op) : Statement (.vbcast o) := of_row rfl rfl rfl (by decide) (by decide)
theorem Sys2Proof.Laws.Encoding.vperm (o : Op) : Statement (.vperm o) := of_row rfl rfl rfl (by decide) (by decide)
theorem Sys2Proof.Laws.Encoding.vrot (o : Op) : Statement (.vrot o) := of_row rfl rfl rfl (by decide) (by decide)
theorem Sys2Proof.Laws.Encoding.vcompress (o : Op) : Statement (.vcompress o) := of_row rfl rfl rfl (by decide) (by decide)
theorem Sys2Proof.Laws.Encoding.vexpand (o : Op) : Statement (.vexpand o) := of_row rfl rfl rfl (by decide) (by decide)
theorem Sys2Proof.Laws.Encoding.vmov (o : Op) : Statement (.vmov o) := of_row rfl rfl rfl (by decide) (by decide)
theorem Sys2Proof.Laws.Encoding.vclamp (o : Op) : Statement (.vclamp o) := of_row rfl rfl rfl (by decide) (by decide)
theorem Sys2Proof.Laws.Encoding.vmulh (o : Op) : Statement (.vmulh o) := of_row rfl rfl rfl (by decide) (by decide)
theorem Sys2Proof.Laws.Encoding.vsadd (o : Op) : Statement (.vsadd o) := of_row rfl rfl rfl (by decide) (by decide)
theorem Sys2Proof.Laws.Encoding.vssub (o : Op) : Statement (.vssub o) := of_row rfl rfl rfl (by decide) (by decide)
theorem Sys2Proof.Laws.Encoding.vavg (o : Op) : Statement (.vavg o) := of_row rfl rfl rfl (by decide) (by decide)
theorem Sys2Proof.Laws.Encoding.vcvt (o : Op) : Statement (.vcvt o) := of_row rfl rfl rfl (by decide) (by decide)
theorem Sys2Proof.Laws.Encoding.vpack (o : Op) : Statement (.vpack o) := of_row rfl rfl rfl (by decide) (by decide)
theorem Sys2Proof.Laws.Encoding.vunpk (o : Op) : Statement (.vunpk o) := of_row rfl rfl rfl (by decide) (by decide)
theorem Sys2Proof.Laws.Encoding.vrnd (o : Op) : Statement (.vrnd o) := of_row rfl rfl rfl (by decide) (by decide)
theorem Sys2Proof.Laws.Encoding.vexp (o : Op) : Statement (.vexp o) := of_row rfl rfl rfl (by decide) (by decide)
theorem Sys2Proof.Laws.Encoding.vexp2 (o : Op) : Statement (.vexp2 o) := of_row rfl rfl rfl (by decide) (by decide)
theorem Sys2Proof.Laws.Encoding.vlog2 (o : Op) : Statement (.vlog2 o) := of_row rfl rfl rfl (by decide) (by decide)
theorem Sys2Proof.Laws.Encoding.vrcp (o : Op) : Statement (.vrcp o) := of_row rfl rfl rfl (by decide) (by decide)
theorem Sys2Proof.Laws.Encoding.vrsq (o : Op) : Statement (.vrsq o) := of_row rfl rfl rfl (by decide) (by decide)
theorem Sys2Proof.Laws.Encoding.vsqrt (o : Op) : Statement (.vsqrt o) := of_row rfl rfl rfl (by decide) (by decide)
theorem Sys2Proof.Laws.Encoding.vtanh (o : Op) : Statement (.vtanh o) := of_row rfl rfl rfl (by decide) (by decide)
theorem Sys2Proof.Laws.Encoding.vscl (o : Op) : Statement (.vscl o) := of_row rfl rfl rfl (by decide) (by decide)
theorem Sys2Proof.Laws.Encoding.vqnt (o : Op) : Statement (.vqnt o) := of_row rfl rfl rfl (by decide) (by decide)
theorem Sys2Proof.Laws.Encoding.vdqnt (o : Op) : Statement (.vdqnt o) := of_row rfl rfl rfl (by decide) (by decide)
theorem Sys2Proof.Laws.Encoding.vfclass (o : Op) : Statement (.vfclass o) := of_row rfl rfl rfl (by decide) (by decide)
theorem Sys2Proof.Laws.Encoding.vld (o : Op) : Statement (.vld o) := of_row rfl rfl rfl (by decide) (by decide)
theorem Sys2Proof.Laws.Encoding.vst (o : Op) : Statement (.vst o) := of_row rfl rfl rfl (by decide) (by decide)
theorem Sys2Proof.Laws.Encoding.vldb (o : Op) : Statement (.vldb o) := of_row rfl rfl rfl (by decide) (by decide)
theorem Sys2Proof.Laws.Encoding.vstb (o : Op) : Statement (.vstb o) := of_row rfl rfl rfl (by decide) (by decide)
theorem Sys2Proof.Laws.Encoding.vgat (o : Op) : Statement (.vgat o) := of_row rfl rfl rfl (by decide) (by decide)
theorem Sys2Proof.Laws.Encoding.vsca (o : Op) : Statement (.vsca o) := of_row rfl rfl rfl (by decide) (by decide)
theorem Sys2Proof.Laws.Encoding.vconf (o : Op) : Statement (.vconf o) := of_row rfl rfl rfl (by decide) (by decide)
theorem Sys2Proof.Laws.Encoding.visect (o : Op) : Statement (.visect o) := of_row rfl rfl rfl (by decide) (by decide)
theorem Sys2Proof.Laws.Encoding.viota (o : Op) : Statement (.viota o) := of_row rfl rfl rfl (by decide) (by decide)
theorem Sys2Proof.Laws.Encoding.vmask (o : Op) : Statement (.vmask o) := of_row rfl rfl rfl (by decide) (by decide)
theorem Sys2Proof.Laws.Encoding.mxMma (o : Op) : Statement (.mxMma o) := of_row rfl rfl rfl (by decide) (by decide)
theorem Sys2Proof.Laws.Encoding.mxMmaToken (o : Op) : Statement (.mxMmaToken o) := of_row rfl rfl rfl (by decide) (by decide)
theorem Sys2Proof.Laws.Encoding.mxImma (o : Op) : Statement (.mxImma o) := of_row rfl rfl rfl (by decide) (by decide)
theorem Sys2Proof.Laws.Encoding.mxImmaToken (o : Op) : Statement (.mxImmaToken o) := of_row rfl rfl rfl (by decide) (by decide)
theorem Sys2Proof.Laws.Encoding.mxZero (o : Op) : Statement (.mxZero o) := of_row rfl rfl rfl (by decide) (by decide)
theorem Sys2Proof.Laws.Encoding.mxZeroToken (o : Op) : Statement (.mxZeroToken o) := of_row rfl rfl rfl (by decide) (by decide)
theorem Sys2Proof.Laws.Encoding.mxDrain (o : Op) : Statement (.mxDrain o) := of_row rfl rfl rfl (by decide) (by decide)
theorem Sys2Proof.Laws.Encoding.mxDrainToken (o : Op) : Statement (.mxDrainToken o) := of_row rfl rfl rfl (by decide) (by decide)
theorem Sys2Proof.Laws.Encoding.mxFill (o : Op) : Statement (.mxFill o) := of_row rfl rfl rfl (by decide) (by decide)
theorem Sys2Proof.Laws.Encoding.mxFillToken (o : Op) : Statement (.mxFillToken o) := of_row rfl rfl rfl (by decide) (by decide)
theorem Sys2Proof.Laws.Encoding.mxRev (o : Op) : Statement (.mxRev o) := of_row rfl rfl rfl (by decide) (by decide)
theorem Sys2Proof.Laws.Encoding.mxRevToken (o : Op) : Statement (.mxRevToken o) := of_row rfl rfl rfl (by decide) (by decide)
theorem Sys2Proof.Laws.Encoding.mxChk (o : Op) : Statement (.mxChk o) := of_row rfl rfl rfl (by decide) (by decide)
theorem Sys2Proof.Laws.Encoding.mxChkToken (o : Op) : Statement (.mxChkToken o) := of_row rfl rfl rfl (by decide) (by decide)
theorem Sys2Proof.Laws.Encoding.mxDeg (o : Op) : Statement (.mxDeg o) := of_row rfl rfl rfl (by decide) (by decide)
theorem Sys2Proof.Laws.Encoding.rgPush (o : Op) : Statement (.rgPush o) := of_row rfl rfl rfl (by decide) (by decide)
theorem Sys2Proof.Laws.Encoding.rgInfo (o : Op) : Statement (.rgInfo o) := of_row rfl rfl rfl (by decide) (by decide)
theorem Sys2Proof.Laws.Encoding.rgReset (o : Op) : Statement (.rgReset o) := of_row rfl rfl rfl (by decide) (by decide)
theorem Sys2Proof.Laws.Encoding.vrnsFwd (o : Op) : Statement (.vrnsFwd o) := of_row rfl rfl rfl (by decide) (by decide)
theorem Sys2Proof.Laws.Encoding.vrnsRev (o : Op) : Statement (.vrnsRev o) := of_row rfl rfl rfl (by decide) (by decide)
theorem Sys2Proof.Laws.Encoding.vrnsChk (o : Op) : Statement (.vrnsChk o) := of_row rfl rfl rfl (by decide) (by decide)
theorem Sys2Proof.Laws.Encoding.mxWait (o : Op) : Statement (.mxWait o) := of_row rfl rfl rfl (by decide) (by decide)
theorem Sys2Proof.Laws.Encoding.mxTag (o : Op) : Statement (.mxTag o) := of_row rfl rfl rfl (by decide) (by decide)
theorem Sys2Proof.Laws.Encoding.qmark (o : Op) : Statement (.qmark o) := of_row rfl rfl rfl (by decide) (by decide)
theorem Sys2Proof.Laws.Encoding.qpoison (o : Op) : Statement (.qpoison o) := of_row rfl rfl rfl (by decide) (by decide)
theorem Sys2Proof.Laws.Encoding.qlast (o : Op) : Statement (.qlast o) := of_row rfl rfl rfl (by decide) (by decide)
theorem Sys2Proof.Laws.Encoding.qpeek (o : Op) : Statement (.qpeek o) := of_row rfl rfl rfl (by decide) (by decide)
theorem Sys2Proof.Laws.Encoding.qcnt (o : Op) : Statement (.qcnt o) := of_row rfl rfl rfl (by decide) (by decide)
theorem Sys2Proof.Laws.Encoding.qdrop (o : Op) : Statement (.qdrop o) := of_row rfl rfl rfl (by decide) (by decide)
theorem Sys2Proof.Laws.Encoding.qwaitr (o : Op) : Statement (.qwaitr o) := of_row rfl rfl rfl (by decide) (by decide)
theorem Sys2Proof.Laws.Encoding.rateSet (o : Op) : Statement (.rateSet o) := of_row rfl rfl rfl (by decide) (by decide)
theorem Sys2Proof.Laws.Encoding.rateRd (o : Op) : Statement (.rateRd o) := of_row rfl rfl rfl (by decide) (by decide)
theorem Sys2Proof.Laws.Encoding.rateW (o : Op) : Statement (.rateW o) := of_row rfl rfl rfl (by decide) (by decide)
theorem Sys2Proof.Laws.Encoding.qfmt (o : Op) : Statement (.qfmt o) := of_row rfl rfl rfl (by decide) (by decide)
theorem Sys2Proof.Laws.Encoding.msg (o : Op) : Statement (.msg o) := of_row rfl rfl rfl (by decide) (by decide)
theorem Sys2Proof.Laws.Encoding.atom (o : Op) : Statement (.atom o) := of_row rfl rfl rfl (by decide) (by decide)
theorem Sys2Proof.Laws.Encoding.cas (o : Op) : Statement (.cas o) := of_row rfl rfl rfl (by decide) (by decide)
theorem Sys2Proof.Laws.Encoding.cas2 (o : Op) : Statement (.cas2 o) := of_row rfl rfl rfl (by decide) (by decide)
theorem Sys2Proof.Laws.Encoding.red (o : Op) : Statement (.red o) := of_row rfl rfl rfl (by decide) (by decide)
theorem Sys2Proof.Laws.Encoding.ceRed (o : Op) : Statement (.ceRed o) := of_row rfl rfl rfl (by decide) (by decide)
theorem Sys2Proof.Laws.Encoding.ceProg (o : Op) : Statement (.ceProg o) := of_row rfl rfl rfl (by decide) (by decide)
theorem Sys2Proof.Laws.Encoding.barInit (o : Op) : Statement (.barInit o) := of_row rfl rfl rfl (by decide) (by decide)
theorem Sys2Proof.Laws.Encoding.barArrive (o : Op) : Statement (.barArrive o) := of_row rfl rfl rfl (by decide) (by decide)
theorem Sys2Proof.Laws.Encoding.barDrop (o : Op) : Statement (.barDrop o) := of_row rfl rfl rfl (by decide) (by decide)
theorem Sys2Proof.Laws.Encoding.barWait (o : Op) : Statement (.barWait o) := of_row rfl rfl rfl (by decide) (by decide)
theorem Sys2Proof.Laws.Encoding.cstep (o : Op) : Statement (.cstep o) := of_row rfl rfl rfl (by decide) (by decide)
theorem Sys2Proof.Laws.Encoding.cstepTo (o : Op) : Statement (.cstepTo o) := of_row rfl rfl rfl (by decide) (by decide)
theorem Sys2Proof.Laws.Encoding.cstate (o : Op) : Statement (.cstate o) := of_row rfl rfl rfl (by decide) (by decide)
theorem Sys2Proof.Laws.Encoding.hbState (o : Op) : Statement (.hbState o) := of_row rfl rfl rfl (by decide) (by decide)
theorem Sys2Proof.Laws.Encoding.hbWait (o : Op) : Statement (.hbWait o) := of_row rfl rfl rfl (by decide) (by decide)
theorem Sys2Proof.Laws.Encoding.hbSet (o : Op) : Statement (.hbSet o) := of_row rfl rfl rfl (by decide) (by decide)
theorem Sys2Proof.Laws.Encoding.hbPub (o : Op) : Statement (.hbPub o) := of_row rfl rfl rfl (by decide) (by decide)
theorem Sys2Proof.Laws.Encoding.hbAlloc (o : Op) : Statement (.hbAlloc o) := of_row rfl rfl rfl (by decide) (by decide)
theorem Sys2Proof.Laws.Encoding.hbFree (o : Op) : Statement (.hbFree o) := of_row rfl rfl rfl (by decide) (by decide)
theorem Sys2Proof.Laws.Encoding.shRd (o : Op) : Statement (.shRd o) := of_row rfl rfl rfl (by decide) (by decide)
theorem Sys2Proof.Laws.Encoding.shChk (o : Op) : Statement (.shChk o) := of_row rfl rfl rfl (by decide) (by decide)
theorem Sys2Proof.Laws.Encoding.spNew (o : Op) : Statement (.spNew o) := of_row rfl rfl rfl (by decide) (by decide)
theorem Sys2Proof.Laws.Encoding.spFree (o : Op) : Statement (.spFree o) := of_row rfl rfl rfl (by decide) (by decide)
theorem Sys2Proof.Laws.Encoding.lift (o : Op) : Statement (.lift o) := of_row rfl rfl rfl (by decide) (by decide)
theorem Sys2Proof.Laws.Encoding.lower (o : Op) : Statement (.lower o) := of_row rfl rfl rfl (by decide) (by decide)
theorem Sys2Proof.Laws.Encoding.recall (o : Op) : Statement (.recall o) := of_row rfl rfl rfl (by decide) (by decide)
theorem Sys2Proof.Laws.Encoding.probe (o : Op) : Statement (.probe o) := of_row rfl rfl rfl (by decide) (by decide)
theorem Sys2Proof.Laws.Encoding.drop (o : Op) : Statement (.drop o) := of_row rfl rfl rfl (by decide) (by decide)
theorem Sys2Proof.Laws.Encoding.spPin (o : Op) : Statement (.spPin o) := of_row rfl rfl rfl (by decide) (by decide)
theorem Sys2Proof.Laws.Encoding.spUnpin (o : Op) : Statement (.spUnpin o) := of_row rfl rfl rfl (by decide) (by decide)
theorem Sys2Proof.Laws.Encoding.kvApp (o : Op) : Statement (.kvApp o) := of_row rfl rfl rfl (by decide) (by decide)
theorem Sys2Proof.Laws.Encoding.pgRef (o : Op) : Statement (.pgRef o) := of_row rfl rfl rfl (by decide) (by decide)
theorem Sys2Proof.Laws.Encoding.pgUnref (o : Op) : Statement (.pgUnref o) := of_row rfl rfl rfl (by decide) (by decide)
theorem Sys2Proof.Laws.Encoding.glLaunch (o : Op) : Statement (.glLaunch o) := of_row rfl rfl rfl (by decide) (by decide)
theorem Sys2Proof.Laws.Encoding.cntAdd (o : Op) : Statement (.cntAdd o) := of_row rfl rfl rfl (by decide) (by decide)
theorem Sys2Proof.Laws.Encoding.cntRd (o : Op) : Statement (.cntRd o) := of_row rfl rfl rfl (by decide) (by decide)
theorem Sys2Proof.Laws.Encoding.cntWait (o : Op) : Statement (.cntWait o) := of_row rfl rfl rfl (by decide) (by decide)
theorem Sys2Proof.Laws.Encoding.cancel (o : Op) : Statement (.cancel o) := of_row rfl rfl rfl (by decide) (by decide)
theorem Sys2Proof.Laws.Encoding.donePhase (o : Op) : Statement (.donePhase o) := of_row rfl rfl rfl (by decide) (by decide)
theorem Sys2Proof.Laws.Encoding.doneJob (o : Op) : Statement (.doneJob o) := of_row rfl rfl rfl (by decide) (by decide)
theorem Sys2Proof.Laws.Encoding.sprRd (o : Op) : Statement (.sprRd o) := of_row rfl rfl rfl (by decide) (by decide)
theorem Sys2Proof.Laws.Encoding.sprWr (o : Op) : Statement (.sprWr o) := of_row rfl rfl rfl (by decide) (by decide)
theorem Sys2Proof.Laws.Encoding.fwcallId (o : Op) : Statement (.fwcallId o) := of_row rfl rfl rfl (by decide) (by decide)
theorem Sys2Proof.Laws.Encoding.fwcallTick (o : Op) : Statement (.fwcallTick o) := of_row rfl rfl rfl (by decide) (by decide)
theorem Sys2Proof.Laws.Encoding.fwcallBell (o : Op) : Statement (.fwcallBell o) := of_row rfl rfl rfl (by decide) (by decide)
theorem Sys2Proof.Laws.Encoding.fwcallHealth (o : Op) : Statement (.fwcallHealth o) := of_row rfl rfl rfl (by decide) (by decide)
theorem Sys2Proof.Laws.Encoding.frz (o : Op) : Statement (.frz o) := of_row rfl rfl rfl (by decide) (by decide)
theorem Sys2Proof.Laws.Encoding.thaw (o : Op) : Statement (.thaw o) := of_row rfl rfl rfl (by decide) (by decide)
theorem Sys2Proof.Laws.Encoding.rnsInj (o : Op) : Statement (.rnsInj o) := of_row rfl rfl rfl (by decide) (by decide)
theorem Sys2Proof.Laws.Encoding.issueCycle : Statement .issueCycle := of_none rfl
theorem Sys2Proof.Laws.Encoding.blockCommit : Statement .blockCommit := of_none rfl
theorem Sys2Proof.Laws.Encoding.blockFetchComplete : Statement .blockFetchComplete := of_none rfl
theorem Sys2Proof.Laws.Encoding.detachedResult : Statement .detachedResult := of_none rfl
theorem Sys2Proof.Laws.Encoding.detachedFailure : Statement .detachedFailure := of_none rfl
theorem Sys2Proof.Laws.Encoding.handlerRunStart : Statement .handlerRunStart := of_none rfl
theorem Sys2Proof.Laws.Encoding.rateStep : Statement .rateStep := of_none rfl
theorem Sys2Proof.Laws.Encoding.rateFlitArrival : Statement .rateFlitArrival := of_none rfl
theorem Sys2Proof.Laws.Encoding.statusFlitArrival : Statement .statusFlitArrival := of_none rfl
theorem Sys2Proof.Laws.Encoding.tokenHop : Statement .tokenHop := of_none rfl
theorem Sys2Proof.Laws.Encoding.creditFlitArrival : Statement .creditFlitArrival := of_none rfl
theorem Sys2Proof.Laws.Encoding.boundaryGrant : Statement .boundaryGrant := of_none rfl
theorem Sys2Proof.Laws.Encoding.passFiring : Statement .passFiring := of_none rfl
theorem Sys2Proof.Laws.Encoding.forkFiring : Statement .forkFiring := of_none rfl
theorem Sys2Proof.Laws.Encoding.steerFiring : Statement .steerFiring := of_none rfl
theorem Sys2Proof.Laws.Encoding.mergeFiring : Statement .mergeFiring := of_none rfl
theorem Sys2Proof.Laws.Encoding.carryFiring : Statement .carryFiring := of_none rfl
theorem Sys2Proof.Laws.Encoding.invariantFiring : Statement .invariantFiring := of_none rfl
theorem Sys2Proof.Laws.Encoding.dropFiring : Statement .dropFiring := of_none rfl
theorem Sys2Proof.Laws.Encoding.markerFiring : Statement .markerFiring := of_none rfl
theorem Sys2Proof.Laws.Encoding.poisonControlFiring : Statement .poisonControlFiring := of_none rfl
theorem Sys2Proof.Laws.Encoding.mxTokenStart : Statement .mxTokenStart := of_none rfl
theorem Sys2Proof.Laws.Encoding.mxTokenRetire : Statement .mxTokenRetire := of_none rfl
theorem Sys2Proof.Laws.Encoding.evTick : Statement .evTick := of_none rfl
theorem Sys2Proof.Laws.Encoding.sSourcePulse : Statement .sSourcePulse := of_none rfl
theorem Sys2Proof.Laws.Encoding.targetFiring : Statement .targetFiring := of_none rfl
theorem Sys2Proof.Laws.Encoding.streamRunBegin : Statement .streamRunBegin := of_none rfl
theorem Sys2Proof.Laws.Encoding.streamRequest : Statement .streamRequest := of_none rfl
theorem Sys2Proof.Laws.Encoding.streamRunEnd : Statement .streamRunEnd := of_none rfl
theorem Sys2Proof.Laws.Encoding.streamRunFail : Statement .streamRunFail := of_none rfl
theorem Sys2Proof.Laws.Encoding.translationRefill : Statement .translationRefill := of_none rfl
theorem Sys2Proof.Laws.Encoding.handleRequestService : Statement .handleRequestService := of_none rfl
theorem Sys2Proof.Laws.Encoding.hbWaitAnswer : Statement .hbWaitAnswer := of_none rfl
theorem Sys2Proof.Laws.Encoding.storePerform : Statement .storePerform := of_none rfl
theorem Sys2Proof.Laws.Encoding.atomicExecute : Statement .atomicExecute := of_none rfl
theorem Sys2Proof.Laws.Encoding.mailboxAppend : Statement .mailboxAppend := of_none rfl
theorem Sys2Proof.Laws.Encoding.ceRedRun : Statement .ceRedRun := of_none rfl
theorem Sys2Proof.Laws.Encoding.ceProgStart : Statement .ceProgStart := of_none rfl
theorem Sys2Proof.Laws.Encoding.ceProgRowStep : Statement .ceProgRowStep := of_none rfl
theorem Sys2Proof.Laws.Encoding.ceWindowExpiry : Statement .ceWindowExpiry := of_none rfl
theorem Sys2Proof.Laws.Encoding.barrierOp : Statement .barrierOp := of_none rfl
theorem Sys2Proof.Laws.Encoding.barWaitAnswer : Statement .barWaitAnswer := of_none rfl
theorem Sys2Proof.Laws.Encoding.counterRequest : Statement .counterRequest := of_none rfl
theorem Sys2Proof.Laws.Encoding.cntWaitAnswer : Statement .cntWaitAnswer := of_none rfl
theorem Sys2Proof.Laws.Encoding.ladderRequestService : Statement .ladderRequestService := of_none rfl
theorem Sys2Proof.Laws.Encoding.parkedRetry : Statement .parkedRetry := of_none rfl
theorem Sys2Proof.Laws.Encoding.transformEnd : Statement .transformEnd := of_none rfl
theorem Sys2Proof.Laws.Encoding.dyingPageFree : Statement .dyingPageFree := of_none rfl
theorem Sys2Proof.Laws.Encoding.launchArrival : Statement .launchArrival := of_none rfl
theorem Sys2Proof.Laws.Encoding.launchStart : Statement .launchStart := of_none rfl
theorem Sys2Proof.Laws.Encoding.launchCompletion : Statement .launchCompletion := of_none rfl
theorem Sys2Proof.Laws.Encoding.regionPlacement : Statement .regionPlacement := of_none rfl
theorem Sys2Proof.Laws.Encoding.quantumExpiry : Statement .quantumExpiry := of_none rfl
theorem Sys2Proof.Laws.Encoding.faultRecordDelivery : Statement .faultRecordDelivery := of_none rfl
theorem Sys2Proof.Laws.Encoding.roundCommit : Statement .roundCommit := of_none rfl
theorem Sys2Proof.Laws.Encoding.thirdPlacementVote : Statement .thirdPlacementVote := of_none rfl
theorem Sys2Proof.Laws.Encoding.rollback : Statement .rollback := of_none rfl
theorem Sys2Proof.Laws.Encoding.hang : Statement .hang := of_none rfl
theorem Sys2Proof.Laws.Encoding.freezeWave : Statement .freezeWave := of_none rfl
theorem Sys2Proof.Laws.Encoding.retentionEntry : Statement .retentionEntry := of_none rfl
theorem Sys2Proof.Laws.Encoding.retentionExit : Statement .retentionExit := of_none rfl
theorem Sys2Proof.Laws.Encoding.bankDropMigration : Statement .bankDropMigration := of_none rfl
theorem Sys2Proof.Laws.Encoding.linkRetrainFailure : Statement .linkRetrainFailure := of_none rfl
theorem Sys2Proof.Laws.Encoding.alarm : Statement .alarm := of_none rfl
theorem Sys2Proof.Laws.Encoding.clockSync : Statement .clockSync := of_none rfl
theorem Sys2Proof.Laws.Encoding.moduleClockTick : Statement .moduleClockTick := of_none rfl
theorem Sys2Proof.Laws.Encoding.thermalClockStep : Statement .thermalClockStep := of_none rfl
theorem Sys2Proof.Laws.Encoding.powerOn : Statement .powerOn := of_none rfl
theorem Sys2Proof.Laws.Encoding.hostMemoryWrite : Statement .hostMemoryWrite := of_none rfl
theorem Sys2Proof.Laws.Encoding.hostMemoryRead : Statement .hostMemoryRead := of_none rfl
theorem Sys2Proof.Laws.Encoding.peerRequest : Statement .peerRequest := of_none rfl
theorem Sys2Proof.Laws.Encoding.bell : Statement .bell := of_none rfl
theorem Sys2Proof.Laws.Encoding.hbell : Statement .hbell := of_none rfl
theorem Sys2Proof.Laws.Encoding.hostRegisterWrite : Statement .hostRegisterWrite := of_none rfl
theorem Sys2Proof.Laws.Encoding.arm : Statement .arm := of_none rfl
theorem Sys2Proof.Laws.Encoding.armRelease : Statement .armRelease := of_none rfl
theorem Sys2Proof.Laws.Encoding.launch : Statement .launch := of_none rfl
theorem Sys2Proof.Laws.Encoding.launchDual : Statement .launchDual := of_none rfl
theorem Sys2Proof.Laws.Encoding.cancelCommand : Statement .cancelCommand := of_none rfl
theorem Sys2Proof.Laws.Encoding.queryCounter : Statement .queryCounter := of_none rfl
theorem Sys2Proof.Laws.Encoding.queryGraphQueue : Statement .queryGraphQueue := of_none rfl
theorem Sys2Proof.Laws.Encoding.queryPhaseQueue : Statement .queryPhaseQueue := of_none rfl
theorem Sys2Proof.Laws.Encoding.queryRgnStat : Statement .queryRgnStat := of_none rfl
theorem Sys2Proof.Laws.Encoding.queryHealth : Statement .queryHealth := of_none rfl
theorem Sys2Proof.Laws.Encoding.map : Statement .map := of_none rfl
theorem Sys2Proof.Laws.Encoding.bindClass : Statement .bindClass := of_none rfl
theorem Sys2Proof.Laws.Encoding.bindTransform : Statement .bindTransform := of_none rfl
theorem Sys2Proof.Laws.Encoding.gang : Statement .gang := of_none rfl
theorem Sys2Proof.Laws.Encoding.attest : Statement .attest := of_none rfl
theorem Sys2Proof.Laws.Encoding.reset : Statement .reset := of_none rfl
theorem Sys2Proof.Laws.Encoding.policyModuleId : Statement .policyModuleId := of_none rfl
theorem Sys2Proof.Laws.Encoding.policyPool : Statement .policyPool := of_none rfl
theorem Sys2Proof.Laws.Encoding.policySpanDirectory : Statement .policySpanDirectory := of_none rfl
theorem Sys2Proof.Laws.Encoding.policyCeWin : Statement .policyCeWin := of_none rfl
theorem Sys2Proof.Laws.Encoding.policyTestMode : Statement .policyTestMode := of_none rfl
theorem Sys2Proof.Laws.Encoding.policyClearMode : Statement .policyClearMode := of_none rfl
theorem Sys2Proof.Laws.Encoding.policyBudget : Statement .policyBudget := of_none rfl
theorem Sys2Proof.Laws.Encoding.policyAlarm : Statement .policyAlarm := of_none rfl
theorem Sys2Proof.Laws.Encoding.policyTimeRoot : Statement .policyTimeRoot := of_none rfl
theorem Sys2Proof.Laws.Encoding.fwcallService : Statement .fwcallService := of_none rfl
theorem Sys2Proof.Laws.Encoding.jondovyLinkTraining : Statement .jondovyLinkTraining := of_none rfl
theorem Sys2Proof.Laws.Encoding.peerLinkGrant : Statement .peerLinkGrant := of_none rfl
end

