-- ==== Sys2Proof/Laws/State.lean ====
section
/-!
SUPPORT. What each update of the state leaves and sets: one lemma for each field and update.
-/
namespace Sys2Proof.Machine

/-! ### The parts of the state under each update -/

@[simp] theorem State.setBu_net (s : State) (n : Nat) (b : Bu) : (s.setBu n b).net = s.net := rfl
@[simp] theorem State.setBu_ms (s : State) (n : Nat) (b : Bu) : (s.setBu n b).ms = s.ms := rfl
@[simp] theorem State.setBu_hub (s : State) (n : Nat) (b : Bu) : (s.setBu n b).hub = s.hub := rfl
@[simp] theorem State.setBu_out (s : State) (n : Nat) (b : Bu) : (s.setBu n b).out = s.out := rfl
@[simp] theorem State.setBu_my (s : State) (n : Nat) (b : Bu) : (s.setBu n b).my = s.my := rfl
@[simp] theorem State.modBu_net (s : State) (n : Nat) (f : Bu → Bu) : (s.modBu n f).net = s.net := rfl
@[simp] theorem State.modBu_ms (s : State) (n : Nat) (f : Bu → Bu) : (s.modBu n f).ms = s.ms := rfl
@[simp] theorem State.modBu_hub (s : State) (n : Nat) (f : Bu → Bu) : (s.modBu n f).hub = s.hub := rfl
@[simp] theorem State.modBu_out (s : State) (n : Nat) (f : Bu → Bu) : (s.modBu n f).out = s.out := rfl
@[simp] theorem State.modBu_my (s : State) (n : Nat) (f : Bu → Bu) : (s.modBu n f).my = s.my := rfl
@[simp] theorem State.modCtx_net (s : State) (n k : Nat) (f : Ctx → Ctx) : (s.modCtx n k f).net = s.net := rfl
@[simp] theorem State.modCtx_ms (s : State) (n k : Nat) (f : Ctx → Ctx) : (s.modCtx n k f).ms = s.ms := rfl
@[simp] theorem State.modCtx_hub (s : State) (n k : Nat) (f : Ctx → Ctx) : (s.modCtx n k f).hub = s.hub := rfl
@[simp] theorem State.modCtx_out (s : State) (n k : Nat) (f : Ctx → Ctx) : (s.modCtx n k f).out = s.out := rfl
@[simp] theorem State.modCtx_my (s : State) (n k : Nat) (f : Ctx → Ctx) : (s.modCtx n k f).my = s.my := rfl
@[simp] theorem State.modBlk_net (s : State) (n k : Nat) (f : Blk → Blk) : (s.modBlk n k f).net = s.net := rfl
@[simp] theorem State.modBlk_ms (s : State) (n k : Nat) (f : Blk → Blk) : (s.modBlk n k f).ms = s.ms := rfl
@[simp] theorem State.modBlk_hub (s : State) (n k : Nat) (f : Blk → Blk) : (s.modBlk n k f).hub = s.hub := rfl
@[simp] theorem State.modBlk_out (s : State) (n k : Nat) (f : Blk → Blk) : (s.modBlk n k f).out = s.out := rfl
@[simp] theorem State.modBlk_my (s : State) (n k : Nat) (f : Blk → Blk) : (s.modBlk n k f).my = s.my := rfl
@[simp] theorem State.modRegs_net (s : State) (n k : Nat) (f : Regs → Regs) : (s.modRegs n k f).net = s.net := rfl
@[simp] theorem State.modRegs_ms (s : State) (n k : Nat) (f : Regs → Regs) : (s.modRegs n k f).ms = s.ms := rfl
@[simp] theorem State.modRegs_hub (s : State) (n k : Nat) (f : Regs → Regs) : (s.modRegs n k f).hub = s.hub := rfl
@[simp] theorem State.modRegs_out (s : State) (n k : Nat) (f : Regs → Regs) : (s.modRegs n k f).out = s.out := rfl
@[simp] theorem State.modRegs_my (s : State) (n k : Nat) (f : Regs → Regs) : (s.modRegs n k f).my = s.my := rfl
@[simp] theorem State.modStrm_net (s : State) (n k : Nat) (f : Strm → Strm) : (s.modStrm n k f).net = s.net := rfl
@[simp] theorem State.modStrm_ms (s : State) (n k : Nat) (f : Strm → Strm) : (s.modStrm n k f).ms = s.ms := rfl
@[simp] theorem State.modStrm_hub (s : State) (n k : Nat) (f : Strm → Strm) : (s.modStrm n k f).hub = s.hub := rfl
@[simp] theorem State.modStrm_out (s : State) (n k : Nat) (f : Strm → Strm) : (s.modStrm n k f).out = s.out := rfl
@[simp] theorem State.modStrm_my (s : State) (n k : Nat) (f : Strm → Strm) : (s.modStrm n k f).my = s.my := rfl
@[simp] theorem State.modHub_bus (s : State) (f : Hub → Hub) : (s.modHub f).bus = s.bus := rfl
@[simp] theorem State.modHub_net (s : State) (f : Hub → Hub) : (s.modHub f).net = s.net := rfl
@[simp] theorem State.modHub_ms (s : State) (f : Hub → Hub) : (s.modHub f).ms = s.ms := rfl
@[simp] theorem State.modHub_out (s : State) (f : Hub → Hub) : (s.modHub f).out = s.out := rfl
@[simp] theorem State.modHub_my (s : State) (f : Hub → Hub) : (s.modHub f).my = s.my := rfl
@[simp] theorem State.modNet_bus (s : State) (f : Net → Net) : (s.modNet f).bus = s.bus := rfl
@[simp] theorem State.modNet_ms (s : State) (f : Net → Net) : (s.modNet f).ms = s.ms := rfl
@[simp] theorem State.modNet_hub (s : State) (f : Net → Net) : (s.modNet f).hub = s.hub := rfl
@[simp] theorem State.modNet_out (s : State) (f : Net → Net) : (s.modNet f).out = s.out := rfl
@[simp] theorem State.modNet_my (s : State) (f : Net → Net) : (s.modNet f).my = s.my := rfl
@[simp] theorem State.modOut_bus (s : State) (f : Outside → Outside) : (s.modOut f).bus = s.bus := rfl
@[simp] theorem State.modOut_net (s : State) (f : Outside → Outside) : (s.modOut f).net = s.net := rfl
@[simp] theorem State.modOut_ms (s : State) (f : Outside → Outside) : (s.modOut f).ms = s.ms := rfl
@[simp] theorem State.modOut_hub (s : State) (f : Outside → Outside) : (s.modOut f).hub = s.hub := rfl
@[simp] theorem State.modOut_my (s : State) (f : Outside → Outside) : (s.modOut f).my = s.my := rfl
@[simp] theorem State.modReq_bus (s : State) (i : Nat) (f : Req → Req) : (s.modReq i f).bus = s.bus := rfl
@[simp] theorem State.modReq_net (s : State) (i : Nat) (f : Req → Req) : (s.modReq i f).net = s.net := rfl
@[simp] theorem State.modReq_ms (s : State) (i : Nat) (f : Req → Req) : (s.modReq i f).ms = s.ms := rfl
@[simp] theorem State.modReq_out (s : State) (i : Nat) (f : Req → Req) : (s.modReq i f).out = s.out := rfl
@[simp] theorem State.modReq_my (s : State) (i : Nat) (f : Req → Req) : (s.modReq i f).my = s.my := rfl
@[simp] theorem State.dropReq_bus (s : State) (i : Nat) : (s.dropReq i).bus = s.bus := rfl
@[simp] theorem State.dropReq_net (s : State) (i : Nat) : (s.dropReq i).net = s.net := rfl
@[simp] theorem State.dropReq_ms (s : State) (i : Nat) : (s.dropReq i).ms = s.ms := rfl
@[simp] theorem State.dropReq_out (s : State) (i : Nat) : (s.dropReq i).out = s.out := rfl
@[simp] theorem State.dropReq_my (s : State) (i : Nat) : (s.dropReq i).my = s.my := rfl
@[simp] theorem State.modRegion_bus (s : State) (i : Nat) (f : Region → Region) : (s.modRegion i f).bus = s.bus := rfl
@[simp] theorem State.modRegion_net (s : State) (i : Nat) (f : Region → Region) : (s.modRegion i f).net = s.net := rfl
@[simp] theorem State.modRegion_ms (s : State) (i : Nat) (f : Region → Region) : (s.modRegion i f).ms = s.ms := rfl
@[simp] theorem State.modRegion_out (s : State) (i : Nat) (f : Region → Region) : (s.modRegion i f).out = s.out := rfl
@[simp] theorem State.modRegion_my (s : State) (i : Nat) (f : Region → Region) : (s.modRegion i f).my = s.my := rfl
@[simp] theorem State.modJob_bus (s : State) (i : Nat) (f : Job → Job) : (s.modJob i f).bus = s.bus := rfl
@[simp] theorem State.modJob_net (s : State) (i : Nat) (f : Job → Job) : (s.modJob i f).net = s.net := rfl
@[simp] theorem State.modJob_ms (s : State) (i : Nat) (f : Job → Job) : (s.modJob i f).ms = s.ms := rfl
@[simp] theorem State.modJob_out (s : State) (i : Nat) (f : Job → Job) : (s.modJob i f).out = s.out := rfl
@[simp] theorem State.modJob_my (s : State) (i : Nat) (f : Job → Job) : (s.modJob i f).my = s.my := rfl
@[simp] theorem State.modLaunch_bus (s : State) (i : Nat) (f : Launch → Launch) : (s.modLaunch i f).bus = s.bus := rfl
@[simp] theorem State.modLaunch_net (s : State) (i : Nat) (f : Launch → Launch) : (s.modLaunch i f).net = s.net := rfl
@[simp] theorem State.modLaunch_ms (s : State) (i : Nat) (f : Launch → Launch) : (s.modLaunch i f).ms = s.ms := rfl
@[simp] theorem State.modLaunch_out (s : State) (i : Nat) (f : Launch → Launch) : (s.modLaunch i f).out = s.out := rfl
@[simp] theorem State.modLaunch_my (s : State) (i : Nat) (f : Launch → Launch) : (s.modLaunch i f).my = s.my := rfl
@[simp] theorem State.modHub_hub (s : State) (f : Hub → Hub) : (s.modHub f).hub = f s.hub := rfl
@[simp] theorem State.modNet_net (s : State) (f : Net → Net) : (s.modNet f).net = f s.net := rfl
@[simp] theorem State.modOut_out (s : State) (f : Outside → Outside) : (s.modOut f).out = f s.out := rfl

/-! ### The hub under the updates of its tables -/

@[simp] theorem State.modReq_hub_nextId (s : State) (i : Nat) (f : Req → Req) : (s.modReq i f).hub.nextId = s.hub.nextId := rfl
@[simp] theorem State.modReq_hub_images (s : State) (i : Nat) (f : Req → Req) : (s.modReq i f).hub.images = s.hub.images := rfl
@[simp] theorem State.modReq_hub_badSlots (s : State) (i : Nat) (f : Req → Req) : (s.modReq i f).hub.badSlots = s.hub.badSlots := rfl
@[simp] theorem State.modReq_hub_jobs (s : State) (i : Nat) (f : Req → Req) : (s.modReq i f).hub.jobs = s.hub.jobs := rfl
@[simp] theorem State.modReq_hub_launches (s : State) (i : Nat) (f : Req → Req) : (s.modReq i f).hub.launches = s.hub.launches := rfl
@[simp] theorem State.modReq_hub_regions (s : State) (i : Nat) (f : Req → Req) : (s.modReq i f).hub.regions = s.hub.regions := rfl
@[simp] theorem State.modReq_hub_nextRegion (s : State) (i : Nat) (f : Req → Req) : (s.modReq i f).hub.nextRegion = s.hub.nextRegion := rfl
@[simp] theorem State.modReq_hub_pools (s : State) (i : Nat) (f : Req → Req) : (s.modReq i f).hub.pools = s.hub.pools := rfl
@[simp] theorem State.modReq_hub_suspect (s : State) (i : Nat) (f : Req → Req) : (s.modReq i f).hub.suspect = s.hub.suspect := rfl
@[simp] theorem State.modReq_hub_counters (s : State) (i : Nat) (f : Req → Req) : (s.modReq i f).hub.counters = s.hub.counters := rfl
@[simp] theorem State.modReq_hub_cntRels (s : State) (i : Nat) (f : Req → Req) : (s.modReq i f).hub.cntRels = s.hub.cntRels := rfl
@[simp] theorem State.modReq_hub_phaseQueues (s : State) (i : Nat) (f : Req → Req) : (s.modReq i f).hub.phaseQueues = s.hub.phaseQueues := rfl
@[simp] theorem State.modReq_hub_handleQs (s : State) (i : Nat) (f : Req → Req) : (s.modReq i f).hub.handleQs = s.hub.handleQs := rfl
@[simp] theorem State.modReq_hub_progs (s : State) (i : Nat) (f : Req → Req) : (s.modReq i f).hub.progs = s.hub.progs := rfl
@[simp] theorem State.modReq_hub_ceWin (s : State) (i : Nat) (f : Req → Req) : (s.modReq i f).hub.ceWin = s.hub.ceWin := rfl
@[simp] theorem State.modReq_hub_rungs (s : State) (i : Nat) (f : Req → Req) : (s.modReq i f).hub.rungs = s.hub.rungs := rfl
@[simp] theorem State.modReq_hub_classes (s : State) (i : Nat) (f : Req → Req) : (s.modReq i f).hub.classes = s.hub.classes := rfl
@[simp] theorem State.modReq_hub_transforms (s : State) (i : Nat) (f : Req → Req) : (s.modReq i f).hub.transforms = s.hub.transforms := rfl
@[simp] theorem State.modReq_hub_pages (s : State) (i : Nat) (f : Req → Req) : (s.modReq i f).hub.pages = s.hub.pages := rfl
@[simp] theorem State.modReq_hub_builds (s : State) (i : Nat) (f : Req → Req) : (s.modReq i f).hub.builds = s.hub.builds := rfl
@[simp] theorem State.modReq_hub_xforms (s : State) (i : Nat) (f : Req → Req) : (s.modReq i f).hub.xforms = s.hub.xforms := rfl
@[simp] theorem State.modReq_hub_parked (s : State) (i : Nat) (f : Req → Req) : (s.modReq i f).hub.parked = s.hub.parked := rfl
@[simp] theorem State.modReq_hub_spanBase (s : State) (i : Nat) (f : Req → Req) : (s.modReq i f).hub.spanBase = s.hub.spanBase := rfl
@[simp] theorem State.modReq_hub_spanSize (s : State) (i : Nat) (f : Req → Req) : (s.modReq i f).hub.spanSize = s.hub.spanSize := rfl
@[simp] theorem State.modReq_hub_recs (s : State) (i : Nat) (f : Req → Req) : (s.modReq i f).hub.recs = s.hub.recs := rfl
@[simp] theorem State.modReq_hub_epoch (s : State) (i : Nat) (f : Req → Req) : (s.modReq i f).hub.epoch = s.hub.epoch := rfl
@[simp] theorem State.modReq_hub_watermark (s : State) (i : Nat) (f : Req → Req) : (s.modReq i f).hub.watermark = s.hub.watermark := rfl
@[simp] theorem State.modReq_hub_dropped (s : State) (i : Nat) (f : Req → Req) : (s.modReq i f).hub.dropped = s.hub.dropped := rfl
@[simp] theorem State.modReq_hub_shortage (s : State) (i : Nat) (f : Req → Req) : (s.modReq i f).hub.shortage = s.hub.shortage := rfl
@[simp] theorem State.modReq_hub_walkCaches (s : State) (i : Nat) (f : Req → Req) : (s.modReq i f).hub.walkCaches = s.hub.walkCaches := rfl
@[simp] theorem State.dropReq_hub_nextId (s : State) (i : Nat) : (s.dropReq i).hub.nextId = s.hub.nextId := rfl
@[simp] theorem State.dropReq_hub_images (s : State) (i : Nat) : (s.dropReq i).hub.images = s.hub.images := rfl
@[simp] theorem State.dropReq_hub_badSlots (s : State) (i : Nat) : (s.dropReq i).hub.badSlots = s.hub.badSlots := rfl
@[simp] theorem State.dropReq_hub_jobs (s : State) (i : Nat) : (s.dropReq i).hub.jobs = s.hub.jobs := rfl
@[simp] theorem State.dropReq_hub_launches (s : State) (i : Nat) : (s.dropReq i).hub.launches = s.hub.launches := rfl
@[simp] theorem State.dropReq_hub_regions (s : State) (i : Nat) : (s.dropReq i).hub.regions = s.hub.regions := rfl
@[simp] theorem State.dropReq_hub_nextRegion (s : State) (i : Nat) : (s.dropReq i).hub.nextRegion = s.hub.nextRegion := rfl
@[simp] theorem State.dropReq_hub_pools (s : State) (i : Nat) : (s.dropReq i).hub.pools = s.hub.pools := rfl
@[simp] theorem State.dropReq_hub_suspect (s : State) (i : Nat) : (s.dropReq i).hub.suspect = s.hub.suspect := rfl
@[simp] theorem State.dropReq_hub_counters (s : State) (i : Nat) : (s.dropReq i).hub.counters = s.hub.counters := rfl
@[simp] theorem State.dropReq_hub_cntRels (s : State) (i : Nat) : (s.dropReq i).hub.cntRels = s.hub.cntRels := rfl
@[simp] theorem State.dropReq_hub_phaseQueues (s : State) (i : Nat) : (s.dropReq i).hub.phaseQueues = s.hub.phaseQueues := rfl
@[simp] theorem State.dropReq_hub_handleQs (s : State) (i : Nat) : (s.dropReq i).hub.handleQs = s.hub.handleQs := rfl
@[simp] theorem State.dropReq_hub_progs (s : State) (i : Nat) : (s.dropReq i).hub.progs = s.hub.progs := rfl
@[simp] theorem State.dropReq_hub_ceWin (s : State) (i : Nat) : (s.dropReq i).hub.ceWin = s.hub.ceWin := rfl
@[simp] theorem State.dropReq_hub_rungs (s : State) (i : Nat) : (s.dropReq i).hub.rungs = s.hub.rungs := rfl
@[simp] theorem State.dropReq_hub_classes (s : State) (i : Nat) : (s.dropReq i).hub.classes = s.hub.classes := rfl
@[simp] theorem State.dropReq_hub_transforms (s : State) (i : Nat) : (s.dropReq i).hub.transforms = s.hub.transforms := rfl
@[simp] theorem State.dropReq_hub_pages (s : State) (i : Nat) : (s.dropReq i).hub.pages = s.hub.pages := rfl
@[simp] theorem State.dropReq_hub_builds (s : State) (i : Nat) : (s.dropReq i).hub.builds = s.hub.builds := rfl
@[simp] theorem State.dropReq_hub_xforms (s : State) (i : Nat) : (s.dropReq i).hub.xforms = s.hub.xforms := rfl
@[simp] theorem State.dropReq_hub_parked (s : State) (i : Nat) : (s.dropReq i).hub.parked = s.hub.parked := rfl
@[simp] theorem State.dropReq_hub_spanBase (s : State) (i : Nat) : (s.dropReq i).hub.spanBase = s.hub.spanBase := rfl
@[simp] theorem State.dropReq_hub_spanSize (s : State) (i : Nat) : (s.dropReq i).hub.spanSize = s.hub.spanSize := rfl
@[simp] theorem State.dropReq_hub_recs (s : State) (i : Nat) : (s.dropReq i).hub.recs = s.hub.recs := rfl
@[simp] theorem State.dropReq_hub_epoch (s : State) (i : Nat) : (s.dropReq i).hub.epoch = s.hub.epoch := rfl
@[simp] theorem State.dropReq_hub_watermark (s : State) (i : Nat) : (s.dropReq i).hub.watermark = s.hub.watermark := rfl
@[simp] theorem State.dropReq_hub_dropped (s : State) (i : Nat) : (s.dropReq i).hub.dropped = s.hub.dropped := rfl
@[simp] theorem State.dropReq_hub_shortage (s : State) (i : Nat) : (s.dropReq i).hub.shortage = s.hub.shortage := rfl
@[simp] theorem State.dropReq_hub_walkCaches (s : State) (i : Nat) : (s.dropReq i).hub.walkCaches = s.hub.walkCaches := rfl
@[simp] theorem State.modRegion_hub_reqs (s : State) (i : Nat) (f : Region → Region) : (s.modRegion i f).hub.reqs = s.hub.reqs := rfl
@[simp] theorem State.modRegion_hub_nextId (s : State) (i : Nat) (f : Region → Region) : (s.modRegion i f).hub.nextId = s.hub.nextId := rfl
@[simp] theorem State.modRegion_hub_images (s : State) (i : Nat) (f : Region → Region) : (s.modRegion i f).hub.images = s.hub.images := rfl
@[simp] theorem State.modRegion_hub_badSlots (s : State) (i : Nat) (f : Region → Region) : (s.modRegion i f).hub.badSlots = s.hub.badSlots := rfl
@[simp] theorem State.modRegion_hub_jobs (s : State) (i : Nat) (f : Region → Region) : (s.modRegion i f).hub.jobs = s.hub.jobs := rfl
@[simp] theorem State.modRegion_hub_launches (s : State) (i : Nat) (f : Region → Region) : (s.modRegion i f).hub.launches = s.hub.launches := rfl
@[simp] theorem State.modRegion_hub_nextRegion (s : State) (i : Nat) (f : Region → Region) : (s.modRegion i f).hub.nextRegion = s.hub.nextRegion := rfl
@[simp] theorem State.modRegion_hub_pools (s : State) (i : Nat) (f : Region → Region) : (s.modRegion i f).hub.pools = s.hub.pools := rfl
@[simp] theorem State.modRegion_hub_suspect (s : State) (i : Nat) (f : Region → Region) : (s.modRegion i f).hub.suspect = s.hub.suspect := rfl
@[simp] theorem State.modRegion_hub_counters (s : State) (i : Nat) (f : Region → Region) : (s.modRegion i f).hub.counters = s.hub.counters := rfl
@[simp] theorem State.modRegion_hub_cntRels (s : State) (i : Nat) (f : Region → Region) : (s.modRegion i f).hub.cntRels = s.hub.cntRels := rfl
@[simp] theorem State.modRegion_hub_phaseQueues (s : State) (i : Nat) (f : Region → Region) : (s.modRegion i f).hub.phaseQueues = s.hub.phaseQueues := rfl
@[simp] theorem State.modRegion_hub_handleQs (s : State) (i : Nat) (f : Region → Region) : (s.modRegion i f).hub.handleQs = s.hub.handleQs := rfl
@[simp] theorem State.modRegion_hub_progs (s : State) (i : Nat) (f : Region → Region) : (s.modRegion i f).hub.progs = s.hub.progs := rfl
@[simp] theorem State.modRegion_hub_ceWin (s : State) (i : Nat) (f : Region → Region) : (s.modRegion i f).hub.ceWin = s.hub.ceWin := rfl
@[simp] theorem State.modRegion_hub_rungs (s : State) (i : Nat) (f : Region → Region) : (s.modRegion i f).hub.rungs = s.hub.rungs := rfl
@[simp] theorem State.modRegion_hub_classes (s : State) (i : Nat) (f : Region → Region) : (s.modRegion i f).hub.classes = s.hub.classes := rfl
@[simp] theorem State.modRegion_hub_transforms (s : State) (i : Nat) (f : Region → Region) : (s.modRegion i f).hub.transforms = s.hub.transforms := rfl
@[simp] theorem State.modRegion_hub_pages (s : State) (i : Nat) (f : Region → Region) : (s.modRegion i f).hub.pages = s.hub.pages := rfl
@[simp] theorem State.modRegion_hub_builds (s : State) (i : Nat) (f : Region → Region) : (s.modRegion i f).hub.builds = s.hub.builds := rfl
@[simp] theorem State.modRegion_hub_xforms (s : State) (i : Nat) (f : Region → Region) : (s.modRegion i f).hub.xforms = s.hub.xforms := rfl
@[simp] theorem State.modRegion_hub_parked (s : State) (i : Nat) (f : Region → Region) : (s.modRegion i f).hub.parked = s.hub.parked := rfl
@[simp] theorem State.modRegion_hub_spanBase (s : State) (i : Nat) (f : Region → Region) : (s.modRegion i f).hub.spanBase = s.hub.spanBase := rfl
@[simp] theorem State.modRegion_hub_spanSize (s : State) (i : Nat) (f : Region → Region) : (s.modRegion i f).hub.spanSize = s.hub.spanSize := rfl
@[simp] theorem State.modRegion_hub_recs (s : State) (i : Nat) (f : Region → Region) : (s.modRegion i f).hub.recs = s.hub.recs := rfl
@[simp] theorem State.modRegion_hub_epoch (s : State) (i : Nat) (f : Region → Region) : (s.modRegion i f).hub.epoch = s.hub.epoch := rfl
@[simp] theorem State.modRegion_hub_watermark (s : State) (i : Nat) (f : Region → Region) : (s.modRegion i f).hub.watermark = s.hub.watermark := rfl
@[simp] theorem State.modRegion_hub_dropped (s : State) (i : Nat) (f : Region → Region) : (s.modRegion i f).hub.dropped = s.hub.dropped := rfl
@[simp] theorem State.modRegion_hub_shortage (s : State) (i : Nat) (f : Region → Region) : (s.modRegion i f).hub.shortage = s.hub.shortage := rfl
@[simp] theorem State.modRegion_hub_walkCaches (s : State) (i : Nat) (f : Region → Region) : (s.modRegion i f).hub.walkCaches = s.hub.walkCaches := rfl
@[simp] theorem State.modJob_hub_reqs (s : State) (i : Nat) (f : Job → Job) : (s.modJob i f).hub.reqs = s.hub.reqs := rfl
@[simp] theorem State.modJob_hub_nextId (s : State) (i : Nat) (f : Job → Job) : (s.modJob i f).hub.nextId = s.hub.nextId := rfl
@[simp] theorem State.modJob_hub_images (s : State) (i : Nat) (f : Job → Job) : (s.modJob i f).hub.images = s.hub.images := rfl
@[simp] theorem State.modJob_hub_badSlots (s : State) (i : Nat) (f : Job → Job) : (s.modJob i f).hub.badSlots = s.hub.badSlots := rfl
@[simp] theorem State.modJob_hub_launches (s : State) (i : Nat) (f : Job → Job) : (s.modJob i f).hub.launches = s.hub.launches := rfl
@[simp] theorem State.modJob_hub_regions (s : State) (i : Nat) (f : Job → Job) : (s.modJob i f).hub.regions = s.hub.regions := rfl
@[simp] theorem State.modJob_hub_nextRegion (s : State) (i : Nat) (f : Job → Job) : (s.modJob i f).hub.nextRegion = s.hub.nextRegion := rfl
@[simp] theorem State.modJob_hub_pools (s : State) (i : Nat) (f : Job → Job) : (s.modJob i f).hub.pools = s.hub.pools := rfl
@[simp] theorem State.modJob_hub_suspect (s : State) (i : Nat) (f : Job → Job) : (s.modJob i f).hub.suspect = s.hub.suspect := rfl
@[simp] theorem State.modJob_hub_counters (s : State) (i : Nat) (f : Job → Job) : (s.modJob i f).hub.counters = s.hub.counters := rfl
@[simp] theorem State.modJob_hub_cntRels (s : State) (i : Nat) (f : Job → Job) : (s.modJob i f).hub.cntRels = s.hub.cntRels := rfl
@[simp] theorem State.modJob_hub_phaseQueues (s : State) (i : Nat) (f : Job → Job) : (s.modJob i f).hub.phaseQueues = s.hub.phaseQueues := rfl
@[simp] theorem State.modJob_hub_handleQs (s : State) (i : Nat) (f : Job → Job) : (s.modJob i f).hub.handleQs = s.hub.handleQs := rfl
@[simp] theorem State.modJob_hub_progs (s : State) (i : Nat) (f : Job → Job) : (s.modJob i f).hub.progs = s.hub.progs := rfl
@[simp] theorem State.modJob_hub_ceWin (s : State) (i : Nat) (f : Job → Job) : (s.modJob i f).hub.ceWin = s.hub.ceWin := rfl
@[simp] theorem State.modJob_hub_rungs (s : State) (i : Nat) (f : Job → Job) : (s.modJob i f).hub.rungs = s.hub.rungs := rfl
@[simp] theorem State.modJob_hub_classes (s : State) (i : Nat) (f : Job → Job) : (s.modJob i f).hub.classes = s.hub.classes := rfl
@[simp] theorem State.modJob_hub_transforms (s : State) (i : Nat) (f : Job → Job) : (s.modJob i f).hub.transforms = s.hub.transforms := rfl
@[simp] theorem State.modJob_hub_pages (s : State) (i : Nat) (f : Job → Job) : (s.modJob i f).hub.pages = s.hub.pages := rfl
@[simp] theorem State.modJob_hub_builds (s : State) (i : Nat) (f : Job → Job) : (s.modJob i f).hub.builds = s.hub.builds := rfl
@[simp] theorem State.modJob_hub_xforms (s : State) (i : Nat) (f : Job → Job) : (s.modJob i f).hub.xforms = s.hub.xforms := rfl
@[simp] theorem State.modJob_hub_parked (s : State) (i : Nat) (f : Job → Job) : (s.modJob i f).hub.parked = s.hub.parked := rfl
@[simp] theorem State.modJob_hub_spanBase (s : State) (i : Nat) (f : Job → Job) : (s.modJob i f).hub.spanBase = s.hub.spanBase := rfl
@[simp] theorem State.modJob_hub_spanSize (s : State) (i : Nat) (f : Job → Job) : (s.modJob i f).hub.spanSize = s.hub.spanSize := rfl
@[simp] theorem State.modJob_hub_recs (s : State) (i : Nat) (f : Job → Job) : (s.modJob i f).hub.recs = s.hub.recs := rfl
@[simp] theorem State.modJob_hub_epoch (s : State) (i : Nat) (f : Job → Job) : (s.modJob i f).hub.epoch = s.hub.epoch := rfl
@[simp] theorem State.modJob_hub_watermark (s : State) (i : Nat) (f : Job → Job) : (s.modJob i f).hub.watermark = s.hub.watermark := rfl
@[simp] theorem State.modJob_hub_dropped (s : State) (i : Nat) (f : Job → Job) : (s.modJob i f).hub.dropped = s.hub.dropped := rfl
@[simp] theorem State.modJob_hub_shortage (s : State) (i : Nat) (f : Job → Job) : (s.modJob i f).hub.shortage = s.hub.shortage := rfl
@[simp] theorem State.modJob_hub_walkCaches (s : State) (i : Nat) (f : Job → Job) : (s.modJob i f).hub.walkCaches = s.hub.walkCaches := rfl
@[simp] theorem State.modLaunch_hub_reqs (s : State) (i : Nat) (f : Launch → Launch) : (s.modLaunch i f).hub.reqs = s.hub.reqs := rfl
@[simp] theorem State.modLaunch_hub_nextId (s : State) (i : Nat) (f : Launch → Launch) : (s.modLaunch i f).hub.nextId = s.hub.nextId := rfl
@[simp] theorem State.modLaunch_hub_images (s : State) (i : Nat) (f : Launch → Launch) : (s.modLaunch i f).hub.images = s.hub.images := rfl
@[simp] theorem State.modLaunch_hub_badSlots (s : State) (i : Nat) (f : Launch → Launch) : (s.modLaunch i f).hub.badSlots = s.hub.badSlots := rfl
@[simp] theorem State.modLaunch_hub_jobs (s : State) (i : Nat) (f : Launch → Launch) : (s.modLaunch i f).hub.jobs = s.hub.jobs := rfl
@[simp] theorem State.modLaunch_hub_regions (s : State) (i : Nat) (f : Launch → Launch) : (s.modLaunch i f).hub.regions = s.hub.regions := rfl
@[simp] theorem State.modLaunch_hub_nextRegion (s : State) (i : Nat) (f : Launch → Launch) : (s.modLaunch i f).hub.nextRegion = s.hub.nextRegion := rfl
@[simp] theorem State.modLaunch_hub_pools (s : State) (i : Nat) (f : Launch → Launch) : (s.modLaunch i f).hub.pools = s.hub.pools := rfl
@[simp] theorem State.modLaunch_hub_suspect (s : State) (i : Nat) (f : Launch → Launch) : (s.modLaunch i f).hub.suspect = s.hub.suspect := rfl
@[simp] theorem State.modLaunch_hub_counters (s : State) (i : Nat) (f : Launch → Launch) : (s.modLaunch i f).hub.counters = s.hub.counters := rfl
@[simp] theorem State.modLaunch_hub_cntRels (s : State) (i : Nat) (f : Launch → Launch) : (s.modLaunch i f).hub.cntRels = s.hub.cntRels := rfl
@[simp] theorem State.modLaunch_hub_phaseQueues (s : State) (i : Nat) (f : Launch → Launch) : (s.modLaunch i f).hub.phaseQueues = s.hub.phaseQueues := rfl
@[simp] theorem State.modLaunch_hub_handleQs (s : State) (i : Nat) (f : Launch → Launch) : (s.modLaunch i f).hub.handleQs = s.hub.handleQs := rfl
@[simp] theorem State.modLaunch_hub_progs (s : State) (i : Nat) (f : Launch → Launch) : (s.modLaunch i f).hub.progs = s.hub.progs := rfl
@[simp] theorem State.modLaunch_hub_ceWin (s : State) (i : Nat) (f : Launch → Launch) : (s.modLaunch i f).hub.ceWin = s.hub.ceWin := rfl
@[simp] theorem State.modLaunch_hub_rungs (s : State) (i : Nat) (f : Launch → Launch) : (s.modLaunch i f).hub.rungs = s.hub.rungs := rfl
@[simp] theorem State.modLaunch_hub_classes (s : State) (i : Nat) (f : Launch → Launch) : (s.modLaunch i f).hub.classes = s.hub.classes := rfl
@[simp] theorem State.modLaunch_hub_transforms (s : State) (i : Nat) (f : Launch → Launch) : (s.modLaunch i f).hub.transforms = s.hub.transforms := rfl
@[simp] theorem State.modLaunch_hub_pages (s : State) (i : Nat) (f : Launch → Launch) : (s.modLaunch i f).hub.pages = s.hub.pages := rfl
@[simp] theorem State.modLaunch_hub_builds (s : State) (i : Nat) (f : Launch → Launch) : (s.modLaunch i f).hub.builds = s.hub.builds := rfl
@[simp] theorem State.modLaunch_hub_xforms (s : State) (i : Nat) (f : Launch → Launch) : (s.modLaunch i f).hub.xforms = s.hub.xforms := rfl
@[simp] theorem State.modLaunch_hub_parked (s : State) (i : Nat) (f : Launch → Launch) : (s.modLaunch i f).hub.parked = s.hub.parked := rfl
@[simp] theorem State.modLaunch_hub_spanBase (s : State) (i : Nat) (f : Launch → Launch) : (s.modLaunch i f).hub.spanBase = s.hub.spanBase := rfl
@[simp] theorem State.modLaunch_hub_spanSize (s : State) (i : Nat) (f : Launch → Launch) : (s.modLaunch i f).hub.spanSize = s.hub.spanSize := rfl
@[simp] theorem State.modLaunch_hub_recs (s : State) (i : Nat) (f : Launch → Launch) : (s.modLaunch i f).hub.recs = s.hub.recs := rfl
@[simp] theorem State.modLaunch_hub_epoch (s : State) (i : Nat) (f : Launch → Launch) : (s.modLaunch i f).hub.epoch = s.hub.epoch := rfl
@[simp] theorem State.modLaunch_hub_watermark (s : State) (i : Nat) (f : Launch → Launch) : (s.modLaunch i f).hub.watermark = s.hub.watermark := rfl
@[simp] theorem State.modLaunch_hub_dropped (s : State) (i : Nat) (f : Launch → Launch) : (s.modLaunch i f).hub.dropped = s.hub.dropped := rfl
@[simp] theorem State.modLaunch_hub_shortage (s : State) (i : Nat) (f : Launch → Launch) : (s.modLaunch i f).hub.shortage = s.hub.shortage := rfl
@[simp] theorem State.modLaunch_hub_walkCaches (s : State) (i : Nat) (f : Launch → Launch) : (s.modLaunch i f).hub.walkCaches = s.hub.walkCaches := rfl
@[simp] theorem State.fresh_hub_reqs (s : State) : s.fresh.2.hub.reqs = s.hub.reqs := rfl
@[simp] theorem State.fresh_hub_images (s : State) : s.fresh.2.hub.images = s.hub.images := rfl
@[simp] theorem State.fresh_hub_badSlots (s : State) : s.fresh.2.hub.badSlots = s.hub.badSlots := rfl
@[simp] theorem State.fresh_hub_jobs (s : State) : s.fresh.2.hub.jobs = s.hub.jobs := rfl
@[simp] theorem State.fresh_hub_launches (s : State) : s.fresh.2.hub.launches = s.hub.launches := rfl
@[simp] theorem State.fresh_hub_regions (s : State) : s.fresh.2.hub.regions = s.hub.regions := rfl
@[simp] theorem State.fresh_hub_nextRegion (s : State) : s.fresh.2.hub.nextRegion = s.hub.nextRegion := rfl
@[simp] theorem State.fresh_hub_pools (s : State) : s.fresh.2.hub.pools = s.hub.pools := rfl
@[simp] theorem State.fresh_hub_suspect (s : State) : s.fresh.2.hub.suspect = s.hub.suspect := rfl
@[simp] theorem State.fresh_hub_counters (s : State) : s.fresh.2.hub.counters = s.hub.counters := rfl
@[simp] theorem State.fresh_hub_cntRels (s : State) : s.fresh.2.hub.cntRels = s.hub.cntRels := rfl
@[simp] theorem State.fresh_hub_phaseQueues (s : State) : s.fresh.2.hub.phaseQueues = s.hub.phaseQueues := rfl
@[simp] theorem State.fresh_hub_handleQs (s : State) : s.fresh.2.hub.handleQs = s.hub.handleQs := rfl
@[simp] theorem State.fresh_hub_progs (s : State) : s.fresh.2.hub.progs = s.hub.progs := rfl
@[simp] theorem State.fresh_hub_ceWin (s : State) : s.fresh.2.hub.ceWin = s.hub.ceWin := rfl
@[simp] theorem State.fresh_hub_rungs (s : State) : s.fresh.2.hub.rungs = s.hub.rungs := rfl
@[simp] theorem State.fresh_hub_classes (s : State) : s.fresh.2.hub.classes = s.hub.classes := rfl
@[simp] theorem State.fresh_hub_transforms (s : State) : s.fresh.2.hub.transforms = s.hub.transforms := rfl
@[simp] theorem State.fresh_hub_pages (s : State) : s.fresh.2.hub.pages = s.hub.pages := rfl
@[simp] theorem State.fresh_hub_builds (s : State) : s.fresh.2.hub.builds = s.hub.builds := rfl
@[simp] theorem State.fresh_hub_xforms (s : State) : s.fresh.2.hub.xforms = s.hub.xforms := rfl
@[simp] theorem State.fresh_hub_parked (s : State) : s.fresh.2.hub.parked = s.hub.parked := rfl
@[simp] theorem State.fresh_hub_spanBase (s : State) : s.fresh.2.hub.spanBase = s.hub.spanBase := rfl
@[simp] theorem State.fresh_hub_spanSize (s : State) : s.fresh.2.hub.spanSize = s.hub.spanSize := rfl
@[simp] theorem State.fresh_hub_recs (s : State) : s.fresh.2.hub.recs = s.hub.recs := rfl
@[simp] theorem State.fresh_hub_epoch (s : State) : s.fresh.2.hub.epoch = s.hub.epoch := rfl
@[simp] theorem State.fresh_hub_watermark (s : State) : s.fresh.2.hub.watermark = s.hub.watermark := rfl
@[simp] theorem State.fresh_hub_dropped (s : State) : s.fresh.2.hub.dropped = s.hub.dropped := rfl
@[simp] theorem State.fresh_hub_shortage (s : State) : s.fresh.2.hub.shortage = s.hub.shortage := rfl
@[simp] theorem State.fresh_hub_walkCaches (s : State) : s.fresh.2.hub.walkCaches = s.hub.walkCaches := rfl
@[simp] theorem State.fresh_bus (s : State) : s.fresh.2.bus = s.bus := rfl
@[simp] theorem State.fresh_net (s : State) : s.fresh.2.net = s.net := rfl
@[simp] theorem State.fresh_ms (s : State) : s.fresh.2.ms = s.ms := rfl
@[simp] theorem State.fresh_out (s : State) : s.fresh.2.out = s.out := rfl
@[simp] theorem State.fresh_my (s : State) : s.fresh.2.my = s.my := rfl

/-! ### A bank unit and a context under theirs -/

@[simp] theorem Bu.setCtx_region (b : Bu) (k : Nat) (c : Ctx) : (b.setCtx k c).region = b.region := rfl
@[simp] theorem Bu.modCtx_region (b : Bu) (k : Nat) (f : Ctx → Ctx) : (b.modCtx k f).region = b.region := rfl
@[simp] theorem Bu.setCtx_offDie (b : Bu) (k : Nat) (c : Ctx) : (b.setCtx k c).offDie = b.offDie := rfl
@[simp] theorem Bu.modCtx_offDie (b : Bu) (k : Nat) (f : Ctx → Ctx) : (b.modCtx k f).offDie = b.offDie := rfl
@[simp] theorem Bu.setCtx_offX (b : Bu) (k : Nat) (c : Ctx) : (b.setCtx k c).offX = b.offX := rfl
@[simp] theorem Bu.modCtx_offX (b : Bu) (k : Nat) (f : Ctx → Ctx) : (b.modCtx k f).offX = b.offX := rfl
@[simp] theorem Bu.setCtx_offY (b : Bu) (k : Nat) (c : Ctx) : (b.setCtx k c).offY = b.offY := rfl
@[simp] theorem Bu.modCtx_offY (b : Bu) (k : Nat) (f : Ctx → Ctx) : (b.modCtx k f).offY = b.offY := rfl
@[simp] theorem Bu.setCtx_bank (b : Bu) (k : Nat) (c : Ctx) : (b.setCtx k c).bank = b.bank := rfl
@[simp] theorem Bu.modCtx_bank (b : Bu) (k : Nat) (f : Ctx → Ctx) : (b.modCtx k f).bank = b.bank := rfl
@[simp] theorem Bu.setCtx_cache (b : Bu) (k : Nat) (c : Ctx) : (b.setCtx k c).cache = b.cache := rfl
@[simp] theorem Bu.modCtx_cache (b : Bu) (k : Nat) (f : Ctx → Ctx) : (b.modCtx k f).cache = b.cache := rfl
@[simp] theorem Bu.setCtx_fetches (b : Bu) (k : Nat) (c : Ctx) : (b.setCtx k c).fetches = b.fetches := rfl
@[simp] theorem Bu.modCtx_fetches (b : Bu) (k : Nat) (f : Ctx → Ctx) : (b.modCtx k f).fetches = b.fetches := rfl
@[simp] theorem Bu.setCtx_stamp (b : Bu) (k : Nat) (c : Ctx) : (b.setCtx k c).stamp = b.stamp := rfl
@[simp] theorem Bu.modCtx_stamp (b : Bu) (k : Nat) (f : Ctx → Ctx) : (b.modCtx k f).stamp = b.stamp := rfl
@[simp] theorem Bu.setCtx_queues (b : Bu) (k : Nat) (c : Ctx) : (b.setCtx k c).queues = b.queues := rfl
@[simp] theorem Bu.modCtx_queues (b : Bu) (k : Nat) (f : Ctx → Ctx) : (b.modCtx k f).queues = b.queues := rfl
@[simp] theorem Bu.setCtx_credits (b : Bu) (k : Nat) (c : Ctx) : (b.setCtx k c).credits = b.credits := rfl
@[simp] theorem Bu.modCtx_credits (b : Bu) (k : Nat) (f : Ctx → Ctx) : (b.modCtx k f).credits = b.credits := rfl
@[simp] theorem Bu.setCtx_opers (b : Bu) (k : Nat) (c : Ctx) : (b.setCtx k c).opers = b.opers := rfl
@[simp] theorem Bu.modCtx_opers (b : Bu) (k : Nat) (f : Ctx → Ctx) : (b.modCtx k f).opers = b.opers := rfl
@[simp] theorem Bu.setCtx_ctls (b : Bu) (k : Nat) (c : Ctx) : (b.setCtx k c).ctls = b.ctls := rfl
@[simp] theorem Bu.modCtx_ctls (b : Bu) (k : Nat) (f : Ctx → Ctx) : (b.modCtx k f).ctls = b.ctls := rfl
@[simp] theorem Bu.setCtx_node (b : Bu) (k : Nat) (c : Ctx) : (b.setCtx k c).node = b.node := rfl
@[simp] theorem Bu.modCtx_node (b : Bu) (k : Nat) (f : Ctx → Ctx) : (b.modCtx k f).node = b.node := rfl
@[simp] theorem Bu.setCtx_ev (b : Bu) (k : Nat) (c : Ctx) : (b.setCtx k c).ev = b.ev := rfl
@[simp] theorem Bu.modCtx_ev (b : Bu) (k : Nat) (f : Ctx → Ctx) : (b.modCtx k f).ev = b.ev := rfl
@[simp] theorem Bu.setCtx_strms (b : Bu) (k : Nat) (c : Ctx) : (b.setCtx k c).strms = b.strms := rfl
@[simp] theorem Bu.modCtx_strms (b : Bu) (k : Nat) (f : Ctx → Ctx) : (b.modCtx k f).strms = b.strms := rfl
@[simp] theorem Bu.setCtx_strmStamp (b : Bu) (k : Nat) (c : Ctx) : (b.setCtx k c).strmStamp = b.strmStamp := rfl
@[simp] theorem Bu.modCtx_strmStamp (b : Bu) (k : Nat) (f : Ctx → Ctx) : (b.modCtx k f).strmStamp = b.strmStamp := rfl
@[simp] theorem Bu.setCtx_cycle (b : Bu) (k : Nat) (c : Ctx) : (b.setCtx k c).cycle = b.cycle := rfl
@[simp] theorem Bu.modCtx_cycle (b : Bu) (k : Nat) (f : Ctx → Ctx) : (b.modCtx k f).cycle = b.cycle := rfl
@[simp] theorem Bu.setCtx_vbusy (b : Bu) (k : Nat) (c : Ctx) : (b.setCtx k c).vbusy = b.vbusy := rfl
@[simp] theorem Bu.modCtx_vbusy (b : Bu) (k : Nat) (f : Ctx → Ctx) : (b.modCtx k f).vbusy = b.vbusy := rfl
@[simp] theorem Bu.setCtx_sec (b : Bu) (k : Nat) (c : Ctx) : (b.setCtx k c).sec = b.sec := rfl
@[simp] theorem Bu.modCtx_sec (b : Bu) (k : Nat) (f : Ctx → Ctx) : (b.modCtx k f).sec = b.sec := rfl
@[simp] theorem Bu.setCtx_eccLine (b : Bu) (k : Nat) (c : Ctx) : (b.setCtx k c).eccLine = b.eccLine := rfl
@[simp] theorem Bu.modCtx_eccLine (b : Bu) (k : Nat) (f : Ctx → Ctx) : (b.modCtx k f).eccLine = b.eccLine := rfl
@[simp] theorem Bu.setCtx_badWords (b : Bu) (k : Nat) (c : Ctx) : (b.setCtx k c).badWords = b.badWords := rfl
@[simp] theorem Bu.modCtx_badWords (b : Bu) (k : Nat) (f : Ctx → Ctx) : (b.modCtx k f).badWords = b.badWords := rfl
@[simp] theorem Bu.setCtx_badBlocks (b : Bu) (k : Nat) (c : Ctx) : (b.setCtx k c).badBlocks = b.badBlocks := rfl
@[simp] theorem Bu.modCtx_badBlocks (b : Bu) (k : Nat) (f : Ctx → Ctx) : (b.modCtx k f).badBlocks = b.badBlocks := rfl
@[simp] theorem Bu.setCtx_retention (b : Bu) (k : Nat) (c : Ctx) : (b.setCtx k c).retention = b.retention := rfl
@[simp] theorem Bu.modCtx_retention (b : Bu) (k : Nat) (f : Ctx → Ctx) : (b.modCtx k f).retention = b.retention := rfl
@[simp] theorem Bu.setCtx_rns (b : Bu) (k : Nat) (c : Ctx) : (b.setCtx k c).rns = b.rns := rfl
@[simp] theorem Bu.modCtx_rns (b : Bu) (k : Nat) (f : Ctx → Ctx) : (b.modCtx k f).rns = b.rns := rfl
@[simp] theorem Bu.setCtx_kv (b : Bu) (k : Nat) (c : Ctx) : (b.setCtx k c).kv = b.kv := rfl
@[simp] theorem Bu.modCtx_kv (b : Bu) (k : Nat) (f : Ctx → Ctx) : (b.modCtx k f).kv = b.kv := rfl
@[simp] theorem Bu.setCtx_reply (b : Bu) (k : Nat) (c : Ctx) : (b.setCtx k c).reply = b.reply := rfl
@[simp] theorem Bu.modCtx_reply (b : Bu) (k : Nat) (f : Ctx → Ctx) : (b.modCtx k f).reply = b.reply := rfl
@[simp] theorem Bu.setCtx_hq (b : Bu) (k : Nat) (c : Ctx) : (b.setCtx k c).hq = b.hq := rfl
@[simp] theorem Bu.modCtx_hq (b : Bu) (k : Nat) (f : Ctx → Ctx) : (b.modCtx k f).hq = b.hq := rfl
@[simp] theorem Bu.setCtx_faultWait (b : Bu) (k : Nat) (c : Ctx) : (b.setCtx k c).faultWait = b.faultWait := rfl
@[simp] theorem Bu.modCtx_faultWait (b : Bu) (k : Nat) (f : Ctx → Ctx) : (b.modCtx k f).faultWait = b.faultWait := rfl
@[simp] theorem Bu.setCtx_hrun (b : Bu) (k : Nat) (c : Ctx) : (b.setCtx k c).hrun = b.hrun := rfl
@[simp] theorem Bu.modCtx_hrun (b : Bu) (k : Nat) (f : Ctx → Ctx) : (b.modCtx k f).hrun = b.hrun := rfl
@[simp] theorem Bu.setCtx_wlog (b : Bu) (k : Nat) (c : Ctx) : (b.setCtx k c).wlog = b.wlog := rfl
@[simp] theorem Bu.modCtx_wlog (b : Bu) (k : Nat) (f : Ctx → Ctx) : (b.modCtx k f).wlog = b.wlog := rfl
@[simp] theorem Bu.setCtx_replay (b : Bu) (k : Nat) (c : Ctx) : (b.setCtx k c).replay = b.replay := rfl
@[simp] theorem Bu.modCtx_replay (b : Bu) (k : Nat) (f : Ctx → Ctx) : (b.modCtx k f).replay = b.replay := rfl
@[simp] theorem Bu.setCtx_frozen (b : Bu) (k : Nat) (c : Ctx) : (b.setCtx k c).frozen = b.frozen := rfl
@[simp] theorem Bu.modCtx_frozen (b : Bu) (k : Nat) (f : Ctx → Ctx) : (b.modCtx k f).frozen = b.frozen := rfl
@[simp] theorem Bu.setCtx_waves (b : Bu) (k : Nat) (c : Ctx) : (b.setCtx k c).waves = b.waves := rfl
@[simp] theorem Bu.modCtx_waves (b : Bu) (k : Nat) (f : Ctx → Ctx) : (b.modCtx k f).waves = b.waves := rfl
@[simp] theorem Bu.setCtx_stopping (b : Bu) (k : Nat) (c : Ctx) : (b.setCtx k c).stopping = b.stopping := rfl
@[simp] theorem Bu.modCtx_stopping (b : Bu) (k : Nat) (f : Ctx → Ctx) : (b.modCtx k f).stopping = b.stopping := rfl
@[simp] theorem Bu.setCtx_rels (b : Bu) (k : Nat) (c : Ctx) : (b.setCtx k c).rels = b.rels := rfl
@[simp] theorem Bu.modCtx_rels (b : Bu) (k : Nat) (f : Ctx → Ctx) : (b.modCtx k f).rels = b.rels := rfl
@[simp] theorem Bu.setCtx_adjNow (b : Bu) (k : Nat) (c : Ctx) : (b.setCtx k c).adjNow = b.adjNow := rfl
@[simp] theorem Bu.modCtx_adjNow (b : Bu) (k : Nat) (f : Ctx → Ctx) : (b.modCtx k f).adjNow = b.adjNow := rfl
@[simp] theorem Bu.setCtx_adjNext (b : Bu) (k : Nat) (c : Ctx) : (b.setCtx k c).adjNext = b.adjNext := rfl
@[simp] theorem Bu.modCtx_adjNext (b : Bu) (k : Nat) (f : Ctx → Ctx) : (b.modCtx k f).adjNext = b.adjNext := rfl
@[simp] theorem Bu.setCtx_sendAge (b : Bu) (k : Nat) (c : Ctx) : (b.setCtx k c).sendAge = b.sendAge := rfl
@[simp] theorem Bu.modCtx_sendAge (b : Bu) (k : Nat) (f : Ctx → Ctx) : (b.modCtx k f).sendAge = b.sendAge := rfl
@[simp] theorem Bu.setCtx_port (b : Bu) (k : Nat) (c : Ctx) : (b.setCtx k c).port = b.port := rfl
@[simp] theorem Bu.modCtx_port (b : Bu) (k : Nat) (f : Ctx → Ctx) : (b.modCtx k f).port = b.port := rfl
@[simp] theorem Ctx.modRegs_st (c : Ctx) (f : Regs → Regs) : (c.modRegs f).st = c.st := rfl
@[simp] theorem Ctx.modRegs_w (c : Ctx) (f : Regs → Regs) : (c.modRegs f).w = c.w := rfl
@[simp] theorem Ctx.modRegs_wmin (c : Ctx) (f : Regs → Regs) : (c.modRegs f).wmin = c.wmin := rfl
@[simp] theorem Ctx.modRegs_wmax (c : Ctx) (f : Regs → Regs) : (c.modRegs f).wmax = c.wmax := rfl
@[simp] theorem Ctx.modRegs_pass (c : Ctx) (f : Regs → Regs) : (c.modRegs f).pass = c.pass := rfl
@[simp] theorem Ctx.modRegs_lastadj (c : Ctx) (f : Regs → Regs) : (c.modRegs f).lastadj = c.lastadj := rfl
@[simp] theorem Ctx.modRegs_blk (c : Ctx) (f : Regs → Regs) : (c.modRegs f).blk = c.blk := rfl
@[simp] theorem Ctx.modRegs_launch (c : Ctx) (f : Regs → Regs) : (c.modRegs f).launch = c.launch := rfl
@[simp] theorem Ctx.modRegs_ckpts (c : Ctx) (f : Regs → Regs) : (c.modRegs f).ckpts = c.ckpts := rfl
@[simp] theorem Ctx.modRegs_replay (c : Ctx) (f : Regs → Regs) : (c.modRegs f).replay = c.replay := rfl
@[simp] theorem Ctx.modRegs_acquires (c : Ctx) (f : Regs → Regs) : (c.modRegs f).acquires = c.acquires := rfl
@[simp] theorem Ctx.modRegs_barrier (c : Ctx) (f : Regs → Regs) : (c.modRegs f).barrier = c.barrier := rfl
@[simp] theorem Ctx.modRegs_issued (c : Ctx) (f : Regs → Regs) : (c.modRegs f).issued = c.issued := rfl
@[simp] theorem Ctx.modRegs_relFence (c : Ctx) (f : Regs → Regs) : (c.modRegs f).relFence = c.relFence := rfl
@[simp] theorem Ctx.modRegs_seen (c : Ctx) (f : Regs → Regs) : (c.modRegs f).seen = c.seen := rfl
@[simp] theorem Ctx.modRegs_fblk (c : Ctx) (f : Regs → Regs) : (c.modRegs f).fblk = c.fblk := rfl
@[simp] theorem Ctx.modRegs_regs (c : Ctx) (f : Regs → Regs) : (c.modRegs f).regs = f c.regs := rfl

/-! ### Reading back -/

@[simp] theorem State.bu_setBu (s : State) (n : Nat) (b : Bu) : (s.setBu n b).bu n = b := by
  simp [State.bu, State.setBu, mapGetD, mapGet_mapSet]

theorem State.bu_setBu_ne (s : State) {m n : Nat} (b : Bu) (h : m ≠ n) : (s.setBu n b).bu m = s.bu m := by
  simp [State.bu, State.setBu, mapGetD, mapGet_mapSet_ne b s.bus h]

@[simp] theorem State.bu_modBu (s : State) (n : Nat) (f : Bu → Bu) : (s.modBu n f).bu n = f (s.bu n) := s.bu_setBu n _

theorem State.bu_modBu_ne (s : State) {m n : Nat} (f : Bu → Bu) (h : m ≠ n) : (s.modBu n f).bu m = s.bu m := s.bu_setBu_ne _ h

@[simp] theorem Bu.ctx_setCtx (b : Bu) (k : Nat) (c : Ctx) : (b.setCtx k c).ctx k = c := by
  simp [Bu.ctx, Bu.setCtx]

theorem Bu.ctx_setCtx_ne (b : Bu) {j k : Nat} (c : Ctx) (hj : j < 5) (hk : k < 5) (h : j ≠ k) : (b.setCtx k c).ctx j = b.ctx j := by
  have e : (Fin.ofNat 5 k).val ≠ (Fin.ofNat 5 j).val := by simp only [Fin.ofNat]; omega
  simp only [Bu.ctx, Bu.setCtx, Fin.getElem_fin]
  exact Vector.getElem_set_ne _ _ e

@[simp] theorem State.ctx_modCtx (s : State) (n k : Nat) (f : Ctx → Ctx) : (s.modCtx n k f).ctx n k = f (s.ctx n k) := by
  simp [State.ctx, State.modCtx, Bu.modCtx]

theorem State.ctx_modCtx_ne_slot (s : State) (n : Nat) {j k : Nat} (f : Ctx → Ctx) (hj : j < 5) (hk : k < 5) (h : j ≠ k) :
    (s.modCtx n k f).ctx n j = s.ctx n j := by
  simp [State.ctx, State.modCtx, Bu.modCtx, Bu.ctx_setCtx_ne _ _ hj hk h]

theorem State.ctx_modCtx_ne_bu (s : State) {m n : Nat} (j k : Nat) (f : Ctx → Ctx) (h : m ≠ n) : (s.modCtx n k f).ctx m j = s.ctx m j := by
  simp [State.ctx, State.modCtx, State.bu_modBu_ne _ _ h]

@[simp] theorem State.bu_modHub (s : State) (f : Hub → Hub) (n : Nat) : (s.modHub f).bu n = s.bu n := rfl
@[simp] theorem State.bu_modNet (s : State) (f : Net → Net) (n : Nat) : (s.modNet f).bu n = s.bu n := rfl
@[simp] theorem State.bu_modOut (s : State) (f : Outside → Outside) (n : Nat) : (s.modOut f).bu n = s.bu n := rfl
@[simp] theorem State.bu_fresh (s : State) (n : Nat) : s.fresh.2.bu n = s.bu n := rfl
@[simp] theorem State.ctx_modHub (s : State) (f : Hub → Hub) (n k : Nat) : (s.modHub f).ctx n k = s.ctx n k := rfl
@[simp] theorem State.ctx_modNet (s : State) (f : Net → Net) (n k : Nat) : (s.modNet f).ctx n k = s.ctx n k := rfl
@[simp] theorem State.ctx_modOut (s : State) (f : Outside → Outside) (n k : Nat) : (s.modOut f).ctx n k = s.ctx n k := rfl

end Sys2Proof.Machine
end

