-- ==== Sys2Proof/Laws/Results.lean ====
section
/-!
SUPPORT. What an element that executed leaves: everything of the state that the end of an element sets, and that it sets nothing else.
-/
namespace Sys2Proof.Machine

/-- What a context has seen is all that noting the releases of its loads changes. -/
theorem noteLoads_eq (s : State) (n slot : Nat) (ls : List (Nat × Nat)) :
    noteLoads s n slot ls = s ∨ ∃ f : List (Party × Nat × List Nat) → List (Party × Nat × List Nat),
      noteLoads s n slot ls = s.modCtx n slot (fun c => { c with seen := f c.seen }) := by
  unfold noteLoads
  split
  · exact .inl rfl
  · generalize List.map _ _ = rs
    cases rs with
    | nil => exact .inl rfl
    | cons x xs => exact .inr ⟨fun l => (x :: xs).foldl (fun l x => if l.contains x then l else l ++ [x]) l, rfl⟩

@[simp] theorem noteLoads_net (s : State) (n k : Nat) (ls : List (Nat × Nat)) : (noteLoads s n k ls).net = s.net := by
  rcases noteLoads_eq s n k ls with h | ⟨_, h⟩ <;> simp [h]
@[simp] theorem noteLoads_ms (s : State) (n k : Nat) (ls : List (Nat × Nat)) : (noteLoads s n k ls).ms = s.ms := by
  rcases noteLoads_eq s n k ls with h | ⟨_, h⟩ <;> simp [h]
@[simp] theorem noteLoads_hub (s : State) (n k : Nat) (ls : List (Nat × Nat)) : (noteLoads s n k ls).hub = s.hub := by
  rcases noteLoads_eq s n k ls with h | ⟨_, h⟩ <;> simp [h]
@[simp] theorem noteLoads_out (s : State) (n k : Nat) (ls : List (Nat × Nat)) : (noteLoads s n k ls).out = s.out := by
  rcases noteLoads_eq s n k ls with h | ⟨_, h⟩ <;> simp [h]
@[simp] theorem noteLoads_my (s : State) (n k : Nat) (ls : List (Nat × Nat)) : (noteLoads s n k ls).my = s.my := by
  rcases noteLoads_eq s n k ls with h | ⟨_, h⟩ <;> simp [h]
theorem noteLoads_bu_ne (s : State) {m n : Nat} (k : Nat) (ls : List (Nat × Nat)) (hm : m ≠ n) : (noteLoads s n k ls).bu m = s.bu m := by
  rcases noteLoads_eq s n k ls with h | ⟨_, h⟩
  · rw [h]
  · rw [h, State.modCtx, State.bu_modBu_ne _ _ hm]
@[simp] theorem noteLoads_regs (s : State) (n k : Nat) (ls : List (Nat × Nat)) : ((noteLoads s n k ls).ctx n k).regs = (s.ctx n k).regs := by
  rcases noteLoads_eq s n k ls with h | ⟨_, h⟩ <;> simp [h]

@[simp] theorem finishOp_net (v : View) (x : Srcs) (r : Res) : (finishOp v x r).net = v.s.net := by
  unfold finishOp; dsimp only; split <;> simp
@[simp] theorem finishOp_ms (v : View) (x : Srcs) (r : Res) : (finishOp v x r).ms = v.s.ms := by
  unfold finishOp; dsimp only; split <;> simp
@[simp] theorem finishOp_out (v : View) (x : Srcs) (r : Res) : (finishOp v x r).out = v.s.out := by
  unfold finishOp; dsimp only; split <;> simp
@[simp] theorem finishOp_my (v : View) (x : Srcs) (r : Res) : (finishOp v x r).my = v.s.my := by
  unfold finishOp; dsimp only; split <;> simp
theorem finishOp_bu_ne (v : View) (x : Srcs) (r : Res) {m : Nat} (hm : m ≠ v.cur.bu) : (finishOp v x r).bu m = v.s.bu m := by
  unfold finishOp
  dsimp only
  split <;> simp [State.modCtx, State.bu_modBu_ne _ _ hm, noteLoads_bu_ne _ _ _ hm]
@[simp] theorem State.ctx_fresh (s : State) (n k : Nat) : s.fresh.2.ctx n k = s.ctx n k := rfl
@[simp] theorem finishOp_regs (v : View) (x : Srcs) (r : Res) :
    ((finishOp v x r).ctx v.cur.bu v.cur.slot).regs = (v.s.ctx v.cur.bu v.cur.slot).regs := by
  unfold finishOp; dsimp only; split <;> simp
/-- Without a request, the context has the block that the element left, and the hub is as it was. -/
theorem finishOp_blk (v : View) (x : Srcs) {r : Res} (h : r.sent = none) :
    ((finishOp v x r).ctx v.cur.bu v.cur.slot).blk = commitRes v.cur v.o.dst v.r.detached x r v.c.blk ∧
    (finishOp v x r).hub = v.s.hub := by
  unfold finishOp
  dsimp only
  rw [h]
  simp
/-- With a request, it joins the requests under way under the next number, and its destination is held to turn pending. -/
theorem finishOp_sent (v : View) (x : Srcs) {r : Res} {q : Req} (h : r.sent = some q) :
    (finishOp v x r).hub.reqs = v.s.hub.reqs ++ [{ (takeReplay q v.c.replay).1 with id := v.s.hub.nextId }] ∧
    ((finishOp v x r).ctx v.cur.bu v.cur.slot).blk.effs =
      insertEff v.cur.op v.cur.elem (.pend v.s.hub.nextId) (commitRes v.cur v.o.dst v.r.detached x r v.c.blk).effs := by
  unfold finishOp
  dsimp only
  rw [h]
  simp [State.fresh, State.freshFor]

/-- What stops an element: it waits and nothing changes, or its fault is raised, once its block has taken the tokens it popped. -/
@[simp] theorem stopOp_wait (v : View) : stopOp v .wait = v.s := rfl
theorem stopOp_fault (v : View) (f : Flt) :
    stopOp v (.fault f) =
      (v.s.modCtx v.cur.bu v.cur.slot (fun c => { c with
        blk := { v.c.blk with effs := insertEffs v.cur.op v.cur.elem (faultPops v) v.c.blk.effs } })).raise
          v.cur.bu v.cur.slot v.c.regs.bc.toNat v.cur.op v.cur.elem f := rfl

end Sys2Proof.Machine
end

