-- ==== Sys2Proof/Laws/Runs.lean ====
section
/-!
SUPPORT. What the frames of the operations come to when an operation executes: one lemma for each frame.
-/
namespace Sys2Proof.Machine
open Sys2Proof.Rules

theorem readSrcs_sel {v : View} {sel : Nat} {x : Srcs} (h : readSrcs v sel = .ok x) : x.sel = sel := by
  unfold readSrcs at h
  dsimp only at h
  split at h <;> cases h
  rfl

/-- A scalar operation that executes ends with its result. -/
theorem runScalar_fires {r : Row} {o : Op} {s : State} {x : Srcs} {ready : View → Bool} {body : View → Srcs → Except Stop Res} {res : Res}
    (h : Fires r o s x) (hr : ready (mkView s r o) = true) (hb : body (mkView s r o) x = .ok res) (hq : Quiet r o s res.flags) :
    runScalar r o s ready body = finishOp (mkView s r o) x res := by
  obtain ⟨⟨hc, bits, hp, hs⟩, h1⟩ := h
  have hsel := readSrcs_sel hs
  rw [hsel] at h1
  unfold runScalar
  dsimp only
  unfold seen at *
  rw [hp]
  dsimp only
  rw [if_neg (by omega), hc, hr]
  simp only [Bool.and_self, Bool.not_true, Bool.false_eq_true, if_false]
  rw [hs]
  dsimp only
  rw [hb]
  dsimp only
  unfold Quiet seen at hq
  rw [hq]

/-- A scalar operation that executes stops as its body says. -/
theorem runScalar_stops {r : Row} {o : Op} {s : State} {x : Srcs} {ready : View → Bool} {body : View → Srcs → Except Stop Res} {e : Stop}
    (h : Fires r o s x) (hr : ready (mkView s r o) = true) (hb : body (mkView s r o) x = .error e) :
    runScalar r o s ready body = stopOp (mkView s r o) e := by
  obtain ⟨⟨hc, bits, hp, hs⟩, h1⟩ := h
  have hsel := readSrcs_sel hs
  rw [hsel] at h1
  unfold runScalar
  dsimp only
  unfold seen at *
  rw [hp]
  dsimp only
  rw [if_neg (by omega), hc, hr]
  simp only [Bool.and_self, Bool.not_true, Bool.false_eq_true, if_false]
  rw [hs]
  dsimp only
  rw [hb]

/-- A vector operation that executes ends with its result. -/
theorem runVector_reads {r : Row} {o : Op} {s : State} {x : Srcs} {ready : View → Bool} {body : View → Srcs → Except Stop Res} {res : Res}
    (h : Reads r o s x) (hr : ready (mkView s r o) = true) (hb : body (mkView s r o) x = .ok res)
    (hq : (mkView s r o).r.detached = true ∨ Quiet r o s res.flags) : runVector r o s ready body = finishOp (mkView s r o) x res := by
  obtain ⟨hc, bits, hp, hs⟩ := h
  unfold runVector
  dsimp only
  unfold seen at *
  rw [hp]
  dsimp only
  rw [hc, hr]
  simp only [Bool.and_self, Bool.not_true, Bool.false_eq_true, if_false]
  rw [hs]
  dsimp only
  rw [hb]
  dsimp only
  rcases hq with hq | hq
  · rw [if_pos hq]
  · split
    · rename_i k hk
      unfold Quiet seen at hq
      split at hk
      · cases hk
      · rw [hq] at hk; cases hk
    · rfl

/-- A vector operation that executes stops as its body says. -/
theorem runVector_stops {r : Row} {o : Op} {s : State} {x : Srcs} {ready : View → Bool} {body : View → Srcs → Except Stop Res} {e : Stop}
    (h : Reads r o s x) (hr : ready (mkView s r o) = true) (hb : body (mkView s r o) x = .error e) :
    runVector r o s ready body = stopOp (mkView s r o) e := by
  obtain ⟨hc, bits, hp, hs⟩ := h
  unfold runVector
  dsimp only
  unfold seen at *
  rw [hp]
  dsimp only
  rw [hc, hr]
  simp only [Bool.and_self, Bool.not_true, Bool.false_eq_true, if_false]
  rw [hs]
  dsimp only
  rw [hb]

theorem quiet_zero {r : Row} {o : Op} {s : State} : Quiet r o s 0 := by
  unfold Quiet flagTrap
  rw [List.find?_eq_none]
  intro k _
  simp [bitOf, Nat.zero_div]

/-- An operation with a request that leaves at its commit holds it as an effect. -/
theorem runRequest_fires {r : Row} {o : Op} {s : State} {x : Srcs} {fill : View → Srcs → Req → Except Stop Req} {q : Req}
    (h : Fires r o s x) (hf : fill (mkView s r o) x (mkReq (mkView s r o) x) = .ok q) :
    runRequest r o s fill = finishOp (mkView s r o) x (Res.ofEff (.req q)) := by
  unfold runRequest
  refine runScalar_fires h rfl ?_ quiet_zero
  rw [hf]

end Sys2Proof.Machine
end

