-- ==== Sys2Proof/Laws/Sound.lean ====
section
/-!
SUPPORT. Every instruction keeps a state sound: its memories canonical, and its outside legal.
-/
namespace Sys2Proof.Machine
open Sys2Proof.Safety

theorem exec_sound {s : State} (h : Sound s) (i : Instr) : SoundOut (exec i s) :=
  match i with
  | .add o => soundOut_of_keeps h (execAdd_keeps o s (Keeps.refl h.memories))
  | .sub o => soundOut_of_keeps h (execSub_keeps o s (Keeps.refl h.memories))
  | .mul o => soundOut_of_keeps h (execMul_keeps o s (Keeps.refl h.memories))
  | .mulh o => soundOut_of_keeps h (execMulh_keeps o s (Keeps.refl h.memories))
  | .mulhu o => soundOut_of_keeps h (execMulhu_keeps o s (Keeps.refl h.memories))
  | .div o => soundOut_of_keeps h (execDiv_keeps o s (Keeps.refl h.memories))
  | .divu o => soundOut_of_keeps h (execDivu_keeps o s (Keeps.refl h.memories))
  | .rem o => soundOut_of_keeps h (execRem_keeps o s (Keeps.refl h.memories))
  | .remu o => soundOut_of_keeps h (execRemu_keeps o s (Keeps.refl h.memories))
  | .and o => soundOut_of_keeps h (execAnd_keeps o s (Keeps.refl h.memories))
  | .or o => soundOut_of_keeps h (execOr_keeps o s (Keeps.refl h.memories))
  | .xor o => soundOut_of_keeps h (execXor_keeps o s (Keeps.refl h.memories))
  | .andn o => soundOut_of_keeps h (execAndn_keeps o s (Keeps.refl h.memories))
  | .shl o => soundOut_of_keeps h (execShl_keeps o s (Keeps.refl h.memories))
  | .shr o => soundOut_of_keeps h (execShr_keeps o s (Keeps.refl h.memories))
  | .sar o => soundOut_of_keeps h (execSar_keeps o s (Keeps.refl h.memories))
  | .rol o => soundOut_of_keeps h (execRol_keeps o s (Keeps.refl h.memories))
  | .min o => soundOut_of_keeps h (execMin_keeps o s (Keeps.refl h.memories))
  | .max o => soundOut_of_keeps h (execMax_keeps o s (Keeps.refl h.memories))
  | .minu o => soundOut_of_keeps h (execMinu_keeps o s (Keeps.refl h.memories))
  | .maxu o => soundOut_of_keeps h (execMaxu_keeps o s (Keeps.refl h.memories))
  | .clz o => soundOut_of_keeps h (execClz_keeps o s (Keeps.refl h.memories))
  | .ctz o => soundOut_of_keeps h (execCtz_keeps o s (Keeps.refl h.memories))
  | .popc o => soundOut_of_keeps h (execPopc_keeps o s (Keeps.refl h.memories))
  | .sext o => soundOut_of_keeps h (execSext_keeps o s (Keeps.refl h.memories))
  | .zext o => soundOut_of_keeps h (execZext_keeps o s (Keeps.refl h.memories))
  | .bfx o => soundOut_of_keeps h (execBfx_keeps o s (Keeps.refl h.memories))
  | .bfi o => soundOut_of_keeps h (execBfi_keeps o s (Keeps.refl h.memories))
  | .shadd o => soundOut_of_keeps h (execShadd_keeps o s (Keeps.refl h.memories))
  | .mov o => soundOut_of_keeps h (execMov_keeps o s (Keeps.refl h.memories))
  | .movi o => soundOut_of_keeps h (execMovi_keeps o s (Keeps.refl h.memories))
  | .movh o => soundOut_of_keeps h (execMovh_keeps o s (Keeps.refl h.memories))
  | .ceq o => soundOut_of_keeps h (execCeq_keeps o s (Keeps.refl h.memories))
  | .cne o => soundOut_of_keeps h (execCne_keeps o s (Keeps.refl h.memories))
  | .clt o => soundOut_of_keeps h (execClt_keeps o s (Keeps.refl h.memories))
  | .cle o => soundOut_of_keeps h (execCle_keeps o s (Keeps.refl h.memories))
  | .cltu o => soundOut_of_keeps h (execCltu_keeps o s (Keeps.refl h.memories))
  | .cleu o => soundOut_of_keeps h (execCleu_keeps o s (Keeps.refl h.memories))
  | .ctst o => soundOut_of_keeps h (execCtst_keeps o s (Keeps.refl h.memories))
  | .pand o => soundOut_of_keeps h (execPand_keeps o s (Keeps.refl h.memories))
  | .por o => soundOut_of_keeps h (execPor_keeps o s (Keeps.refl h.memories))
  | .pxor o => soundOut_of_keeps h (execPxor_keeps o s (Keeps.refl h.memories))
  | .pnot o => soundOut_of_keeps h (execPnot_keeps o s (Keeps.refl h.memories))
  | .pmov o => soundOut_of_keeps h (execPmov_keeps o s (Keeps.refl h.memories))
  | .pany o => soundOut_of_keeps h (execPany_keeps o s (Keeps.refl h.memories))
  | .pall o => soundOut_of_keeps h (execPall_keeps o s (Keeps.refl h.memories))
  | .sel o => soundOut_of_keeps h (execSel_keeps o s (Keeps.refl h.memories))
  | .exit o => soundOut_of_keeps h (execExit_keeps o s (Keeps.refl h.memories))
  | .exitRegisterTarget o => soundOut_of_keeps h (execExitRegisterTarget_keeps o s (Keeps.refl h.memories))
  | .call o => soundOut_of_keeps h (execCall_keeps o s (Keeps.refl h.memories))
  | .callRegisterTarget o => soundOut_of_keeps h (execCallRegisterTarget_keeps o s (Keeps.refl h.memories))
  | .ret o => soundOut_of_keeps h (execRet_keeps o s (Keeps.refl h.memories))
  | .halt o => soundOut_of_keeps h (execHalt_keeps o s (Keeps.refl h.memories))
  | .yield o => soundOut_of_keeps h (execYield_keeps o s (Keeps.refl h.memories))
  | .rep o => soundOut_of_keeps h (execRep_keeps o s (Keeps.refl h.memories))
  | .imm value => soundOut_of_keeps h (execImm_keeps value s (Keeps.refl h.memories))
  | .nop => soundOut_of_keeps h (execNop_keeps s (Keeps.refl h.memories))
  | .trap o => soundOut_of_keeps h (execTrap_keeps o s (Keeps.refl h.memories))
  | .eretResume o => soundOut_of_keeps h (execEretResume_keeps o s (Keeps.refl h.memories))
  | .eretPoison o => soundOut_of_keeps h (execEretPoison_keeps o s (Keeps.refl h.memories))
  | .eretEsc o => soundOut_of_keeps h (execEretEsc_keeps o s (Keeps.refl h.memories))
  | .brk o => soundOut_of_keeps h (execBrk_keeps o s (Keeps.refl h.memories))
  | .evLoop o => soundOut_of_keeps h (execEvLoop_keeps o s (Keeps.refl h.memories))
  | .evWait o => soundOut_of_keeps h (execEvWait_keeps o s (Keeps.refl h.memories))
  | .evPulse o => soundOut_of_keeps h (execEvPulse_keeps o s (Keeps.refl h.memories))
  | .evRd o => soundOut_of_keeps h (execEvRd_keeps o s (Keeps.refl h.memories))
  | .evArm o => soundOut_of_keeps h (execEvArm_keeps o s (Keeps.refl h.memories))
  | .ldb o => soundOut_of_keeps h (execLdb_keeps o s (Keeps.refl h.memories))
  | .ldh o => soundOut_of_keeps h (execLdh_keeps o s (Keeps.refl h.memories))
  | .ldw o => soundOut_of_keeps h (execLdw_keeps o s (Keeps.refl h.memories))
  | .ldd o => soundOut_of_keeps h (execLdd_keeps o s (Keeps.refl h.memories))
  | .stb o => soundOut_of_keeps h (execStb_keeps o s (Keeps.refl h.memories))
  | .sth o => soundOut_of_keeps h (execSth_keeps o s (Keeps.refl h.memories))
  | .stw o => soundOut_of_keeps h (execStw_keeps o s (Keeps.refl h.memories))
  | .std o => soundOut_of_keeps h (execStd_keeps o s (Keeps.refl h.memories))
  | .lda o => soundOut_of_keeps h (execLda_keeps o s (Keeps.refl h.memories))
  | .stl o => soundOut_of_keeps h (execStl_keeps o s (Keeps.refl h.memories))
  | .fence o => soundOut_of_keeps h (execFence_keeps o s (Keeps.refl h.memories))
  | .fenceAcq o => soundOut_of_keeps h (execFenceAcq_keeps o s (Keeps.refl h.memories))
  | .fenceRls o => soundOut_of_keeps h (execFenceRls_keeps o s (Keeps.refl h.memories))
  | .ldm o => soundOut_of_keeps h (execLdm_keeps o s (Keeps.refl h.memories))
  | .stm o => soundOut_of_keeps h (execStm_keeps o s (Keeps.refl h.memories))
  | .prf o => soundOut_of_keeps h (execPrf_keeps o s (Keeps.refl h.memories))
  | .vadd o => soundOut_of_keeps h (execVadd_keeps o s (Keeps.refl h.memories))
  | .vsub o => soundOut_of_keeps h (execVsub_keeps o s (Keeps.refl h.memories))
  | .vmul o => soundOut_of_keeps h (execVmul_keeps o s (Keeps.refl h.memories))
  | .vfma o => soundOut_of_keeps h (execVfma_keeps o s (Keeps.refl h.memories))
  | .vfms o => soundOut_of_keeps h (execVfms_keeps o s (Keeps.refl h.memories))
  | .vmin o => soundOut_of_keeps h (execVmin_keeps o s (Keeps.refl h.memories))
  | .vmax o => soundOut_of_keeps h (execVmax_keeps o s (Keeps.refl h.memories))
  | .vabs o => soundOut_of_keeps h (execVabs_keeps o s (Keeps.refl h.memories))
  | .vneg o => soundOut_of_keeps h (execVneg_keeps o s (Keeps.refl h.memories))
  | .vand o => soundOut_of_keeps h (execVand_keeps o s (Keeps.refl h.memories))
  | .vor o => soundOut_of_keeps h (execVor_keeps o s (Keeps.refl h.memories))
  | .vxor o => soundOut_of_keeps h (execVxor_keeps o s (Keeps.refl h.memories))
  | .vshl o => soundOut_of_keeps h (execVshl_keeps o s (Keeps.refl h.memories))
  | .vshr o => soundOut_of_keeps h (execVshr_keeps o s (Keeps.refl h.memories))
  | .vsar o => soundOut_of_keeps h (execVsar_keeps o s (Keeps.refl h.memories))
  | .vcmp o => soundOut_of_keeps h (execVcmp_keeps o s (Keeps.refl h.memories))
  | .vsel o => soundOut_of_keeps h (execVsel_keeps o s (Keeps.refl h.memories))
  | .vdot o => soundOut_of_keeps h (execVdot_keeps o s (Keeps.refl h.memories))
  | .vsum o => soundOut_of_keeps h (execVsum_keeps o s (Keeps.refl h.memories))
  | .vrmin o => soundOut_of_keeps h (execVrmin_keeps o s (Keeps.refl h.memories))
  | .vrmax o => soundOut_of_keeps h (execVrmax_keeps o s (Keeps.refl h.memories))
  | .vbcast o => soundOut_of_keeps h (execVbcast_keeps o s (Keeps.refl h.memories))
  | .vperm o => soundOut_of_keeps h (execVperm_keeps o s (Keeps.refl h.memories))
  | .vrot o => soundOut_of_keeps h (execVrot_keeps o s (Keeps.refl h.memories))
  | .vcompress o => soundOut_of_keeps h (execVcompress_keeps o s (Keeps.refl h.memories))
  | .vexpand o => soundOut_of_keeps h (execVexpand_keeps o s (Keeps.refl h.memories))
  | .vmov o => soundOut_of_keeps h (execVmov_keeps o s (Keeps.refl h.memories))
  | .vclamp o => soundOut_of_keeps h (execVclamp_keeps o s (Keeps.refl h.memories))
  | .vmulh o => soundOut_of_keeps h (execVmulh_keeps o s (Keeps.refl h.memories))
  | .vsadd o => soundOut_of_keeps h (execVsadd_keeps o s (Keeps.refl h.memories))
  | .vssub o => soundOut_of_keeps h (execVssub_keeps o s (Keeps.refl h.memories))
  | .vavg o => soundOut_of_keeps h (execVavg_keeps o s (Keeps.refl h.memories))
  | .vcvt o => soundOut_of_keeps h (execVcvt_keeps o s (Keeps.refl h.memories))
  | .vpack o => soundOut_of_keeps h (execVpack_keeps o s (Keeps.refl h.memories))
  | .vunpk o => soundOut_of_keeps h (execVunpk_keeps o s (Keeps.refl h.memories))
  | .vrnd o => soundOut_of_keeps h (execVrnd_keeps o s (Keeps.refl h.memories))
  | .vexp o => soundOut_of_keeps h (execVexp_keeps o s (Keeps.refl h.memories))
  | .vexp2 o => soundOut_of_keeps h (execVexp2_keeps o s (Keeps.refl h.memories))
  | .vlog2 o => soundOut_of_keeps h (execVlog2_keeps o s (Keeps.refl h.memories))
  | .vrcp o => soundOut_of_keeps h (execVrcp_keeps o s (Keeps.refl h.memories))
  | .vrsq o => soundOut_of_keeps h (execVrsq_keeps o s (Keeps.refl h.memories))
  | .vsqrt o => soundOut_of_keeps h (execVsqrt_keeps o s (Keeps.refl h.memories))
  | .vtanh o => soundOut_of_keeps h (execVtanh_keeps o s (Keeps.refl h.memories))
  | .vscl o => soundOut_of_keeps h (execVscl_keeps o s (Keeps.refl h.memories))
  | .vqnt o => soundOut_of_keeps h (execVqnt_keeps o s (Keeps.refl h.memories))
  | .vdqnt o => soundOut_of_keeps h (execVdqnt_keeps o s (Keeps.refl h.memories))
  | .vfclass o => soundOut_of_keeps h (execVfclass_keeps o s (Keeps.refl h.memories))
  | .vld o => soundOut_of_keeps h (execVld_keeps o s (Keeps.refl h.memories))
  | .vst o => soundOut_of_keeps h (execVst_keeps o s (Keeps.refl h.memories))
  | .vldb o => soundOut_of_keeps h (execVldb_keeps o s (Keeps.refl h.memories))
  | .vstb o => soundOut_of_keeps h (execVstb_keeps o s (Keeps.refl h.memories))
  | .vgat o => soundOut_of_keeps h (execVgat_keeps o s (Keeps.refl h.memories))
  | .vsca o => soundOut_of_keeps h (execVsca_keeps o s (Keeps.refl h.memories))
  | .vconf o => soundOut_of_keeps h (execVconf_keeps o s (Keeps.refl h.memories))
  | .visect o => soundOut_of_keeps h (execVisect_keeps o s (Keeps.refl h.memories))
  | .viota o => soundOut_of_keeps h (execViota_keeps o s (Keeps.refl h.memories))
  | .vmask o => soundOut_of_keeps h (execVmask_keeps o s (Keeps.refl h.memories))
  | .mxMma o => soundOut_of_keeps h (execMxMma_keeps o s (Keeps.refl h.memories))
  | .mxMmaToken o => soundOut_of_keeps h (execMxMmaToken_keeps o s (Keeps.refl h.memories))
  | .mxImma o => soundOut_of_keeps h (execMxImma_keeps o s (Keeps.refl h.memories))
  | .mxImmaToken o => soundOut_of_keeps h (execMxImmaToken_keeps o s (Keeps.refl h.memories))
  | .mxZero o => soundOut_of_keeps h (execMxZero_keeps o s (Keeps.refl h.memories))
  | .mxZeroToken o => soundOut_of_keeps h (execMxZeroToken_keeps o s (Keeps.refl h.memories))
  | .mxDrain o => soundOut_of_keeps h (execMxDrain_keeps o s (Keeps.refl h.memories))
  | .mxDrainToken o => soundOut_of_keeps h (execMxDrainToken_keeps o s (Keeps.refl h.memories))
  | .mxFill o => soundOut_of_keeps h (execMxFill_keeps o s (Keeps.refl h.memories))
  | .mxFillToken o => soundOut_of_keeps h (execMxFillToken_keeps o s (Keeps.refl h.memories))
  | .mxRev o => soundOut_of_keeps h (execMxRev_keeps o s (Keeps.refl h.memories))
  | .mxRevToken o => soundOut_of_keeps h (execMxRevToken_keeps o s (Keeps.refl h.memories))
  | .mxChk o => soundOut_of_keeps h (execMxChk_keeps o s (Keeps.refl h.memories))
  | .mxChkToken o => soundOut_of_keeps h (execMxChkToken_keeps o s (Keeps.refl h.memories))
  | .mxDeg o => soundOut_of_keeps h (execMxDeg_keeps o s (Keeps.refl h.memories))
  | .rgPush o => soundOut_of_keeps h (execRgPush_keeps o s (Keeps.refl h.memories))
  | .rgInfo o => soundOut_of_keeps h (execRgInfo_keeps o s (Keeps.refl h.memories))
  | .rgReset o => soundOut_of_keeps h (execRgReset_keeps o s (Keeps.refl h.memories))
  | .vrnsFwd o => soundOut_of_keeps h (execVrnsFwd_keeps o s (Keeps.refl h.memories))
  | .vrnsRev o => soundOut_of_keeps h (execVrnsRev_keeps o s (Keeps.refl h.memories))
  | .vrnsChk o => soundOut_of_keeps h (execVrnsChk_keeps o s (Keeps.refl h.memories))
  | .mxWait o => soundOut_of_keeps h (execMxWait_keeps o s (Keeps.refl h.memories))
  | .mxTag o => soundOut_of_keeps h (execMxTag_keeps o s (Keeps.refl h.memories))
  | .qmark o => soundOut_of_keeps h (execQmark_keeps o s (Keeps.refl h.memories))
  | .qpoison o => soundOut_of_keeps h (execQpoison_keeps o s (Keeps.refl h.memories))
  | .qlast o => soundOut_of_keeps h (execQlast_keeps o s (Keeps.refl h.memories))
  | .qpeek o => soundOut_of_keeps h (execQpeek_keeps o s (Keeps.refl h.memories))
  | .qcnt o => soundOut_of_keeps h (execQcnt_keeps o s (Keeps.refl h.memories))
  | .qdrop o => soundOut_of_keeps h (execQdrop_keeps o s (Keeps.refl h.memories))
  | .qwaitr o => soundOut_of_keeps h (execQwaitr_keeps o s (Keeps.refl h.memories))
  | .rateSet o => soundOut_of_keeps h (execRateSet_keeps o s (Keeps.refl h.memories))
  | .rateRd o => soundOut_of_keeps h (execRateRd_keeps o s (Keeps.refl h.memories))
  | .rateW o => soundOut_of_keeps h (execRateW_keeps o s (Keeps.refl h.memories))
  | .qfmt o => soundOut_of_keeps h (execQfmt_keeps o s (Keeps.refl h.memories))
  | .msg o => soundOut_of_keeps h (execMsg_keeps o s (Keeps.refl h.memories))
  | .atom o => soundOut_of_keeps h (execAtom_keeps o s (Keeps.refl h.memories))
  | .cas o => soundOut_of_keeps h (execCas_keeps o s (Keeps.refl h.memories))
  | .cas2 o => soundOut_of_keeps h (execCas2_keeps o s (Keeps.refl h.memories))
  | .red o => soundOut_of_keeps h (execRed_keeps o s (Keeps.refl h.memories))
  | .ceRed o => soundOut_of_keeps h (execCeRed_keeps o s (Keeps.refl h.memories))
  | .ceProg o => soundOut_of_keeps h (execCeProg_keeps o s (Keeps.refl h.memories))
  | .barInit o => soundOut_of_keeps h (execBarInit_keeps o s (Keeps.refl h.memories))
  | .barArrive o => soundOut_of_keeps h (execBarArrive_keeps o s (Keeps.refl h.memories))
  | .barDrop o => soundOut_of_keeps h (execBarDrop_keeps o s (Keeps.refl h.memories))
  | .barWait o => soundOut_of_keeps h (execBarWait_keeps o s (Keeps.refl h.memories))
  | .cstep o => soundOut_of_keeps h (execCstep_keeps o s (Keeps.refl h.memories))
  | .cstepTo o => soundOut_of_keeps h (execCstepTo_keeps o s (Keeps.refl h.memories))
  | .cstate o => soundOut_of_keeps h (execCstate_keeps o s (Keeps.refl h.memories))
  | .hbState o => soundOut_of_keeps h (execHbState_keeps o s (Keeps.refl h.memories))
  | .hbWait o => soundOut_of_keeps h (execHbWait_keeps o s (Keeps.refl h.memories))
  | .hbSet o => soundOut_of_keeps h (execHbSet_keeps o s (Keeps.refl h.memories))
  | .hbPub o => soundOut_of_keeps h (execHbPub_keeps o s (Keeps.refl h.memories))
  | .hbAlloc o => soundOut_of_keeps h (execHbAlloc_keeps o s (Keeps.refl h.memories))
  | .hbFree o => soundOut_of_keeps h (execHbFree_keeps o s (Keeps.refl h.memories))
  | .shRd o => soundOut_of_keeps h (execShRd_keeps o s (Keeps.refl h.memories))
  | .shChk o => soundOut_of_keeps h (execShChk_keeps o s (Keeps.refl h.memories))
  | .spNew o => soundOut_of_keeps h (execSpNew_keeps o s (Keeps.refl h.memories))
  | .spFree o => soundOut_of_keeps h (execSpFree_keeps o s (Keeps.refl h.memories))
  | .lift o => soundOut_of_keeps h (execLift_keeps o s (Keeps.refl h.memories))
  | .lower o => soundOut_of_keeps h (execLower_keeps o s (Keeps.refl h.memories))
  | .recall o => soundOut_of_keeps h (execRecall_keeps o s (Keeps.refl h.memories))
  | .probe o => soundOut_of_keeps h (execProbe_keeps o s (Keeps.refl h.memories))
  | .drop o => soundOut_of_keeps h (execDrop_keeps o s (Keeps.refl h.memories))
  | .spPin o => soundOut_of_keeps h (execSpPin_keeps o s (Keeps.refl h.memories))
  | .spUnpin o => soundOut_of_keeps h (execSpUnpin_keeps o s (Keeps.refl h.memories))
  | .kvApp o => soundOut_of_keeps h (execKvApp_keeps o s (Keeps.refl h.memories))
  | .pgRef o => soundOut_of_keeps h (execPgRef_keeps o s (Keeps.refl h.memories))
  | .pgUnref o => soundOut_of_keeps h (execPgUnref_keeps o s (Keeps.refl h.memories))
  | .glLaunch o => soundOut_of_keeps h (execGlLaunch_keeps o s (Keeps.refl h.memories))
  | .cntAdd o => soundOut_of_keeps h (execCntAdd_keeps o s (Keeps.refl h.memories))
  | .cntRd o => soundOut_of_keeps h (execCntRd_keeps o s (Keeps.refl h.memories))
  | .cntWait o => soundOut_of_keeps h (execCntWait_keeps o s (Keeps.refl h.memories))
  | .cancel o => soundOut_of_keeps h (execCancel_keeps o s (Keeps.refl h.memories))
  | .donePhase o => soundOut_of_keeps h (execDonePhase_keeps o s (Keeps.refl h.memories))
  | .doneJob o => soundOut_of_keeps h (execDoneJob_keeps o s (Keeps.refl h.memories))
  | .sprRd o => soundOut_of_keeps h (execSprRd_keeps o s (Keeps.refl h.memories))
  | .sprWr o => soundOut_of_keeps h (execSprWr_keeps o s (Keeps.refl h.memories))
  | .fwcallId o => soundOut_of_keeps h (execFwcallId_keeps o s (Keeps.refl h.memories))
  | .fwcallTick o => soundOut_of_keeps h (execFwcallTick_keeps o s (Keeps.refl h.memories))
  | .fwcallBell o => soundOut_of_keeps h (execFwcallBell_keeps o s (Keeps.refl h.memories))
  | .fwcallHealth o => soundOut_of_keeps h (execFwcallHealth_keeps o s (Keeps.refl h.memories))
  | .frz o => soundOut_of_keeps h (execFrz_keeps o s (Keeps.refl h.memories))
  | .thaw o => soundOut_of_keeps h (execThaw_keeps o s (Keeps.refl h.memories))
  | .rnsInj o => soundOut_of_keeps h (execRnsInj_keeps o s (Keeps.refl h.memories))
  | .issueCycle => soundOut_of_keeps h (execIssueCycle_keeps s (Keeps.refl h.memories))
  | .blockCommit => soundOut_of_keeps h (execBlockCommit_keeps s (Keeps.refl h.memories))
  | .blockFetchComplete => soundOut_of_keeps h (execBlockFetchComplete_keeps s (Keeps.refl h.memories))
  | .detachedResult => soundOut_of_keeps h (execDetachedResult_keeps s (Keeps.refl h.memories))
  | .detachedFailure => soundOut_of_keeps h (execDetachedFailure_keeps s (Keeps.refl h.memories))
  | .handlerRunStart => soundOut_of_keeps h (execHandlerRunStart_keeps s (Keeps.refl h.memories))
  | .rateStep => soundOut_of_keeps h (execRateStep_keeps s (Keeps.refl h.memories))
  | .rateFlitArrival => soundOut_of_keeps h (execRateFlitArrival_keeps s (Keeps.refl h.memories))
  | .statusFlitArrival => soundOut_of_keeps h (execStatusFlitArrival_keeps s (Keeps.refl h.memories))
  | .tokenHop => soundOut_of_keeps h (execTokenHop_keeps s (Keeps.refl h.memories))
  | .creditFlitArrival => soundOut_of_keeps h (execCreditFlitArrival_keeps s (Keeps.refl h.memories))
  | .boundaryGrant => soundOut_of_keeps h (execBoundaryGrant_keeps s (Keeps.refl h.memories))
  | .passFiring => soundOut_of_keeps h (execPassFiring_keeps s (Keeps.refl h.memories))
  | .forkFiring => soundOut_of_keeps h (execForkFiring_keeps s (Keeps.refl h.memories))
  | .steerFiring => soundOut_of_keeps h (execSteerFiring_keeps s (Keeps.refl h.memories))
  | .mergeFiring => soundOut_of_keeps h (execMergeFiring_keeps s (Keeps.refl h.memories))
  | .carryFiring => soundOut_of_keeps h (execCarryFiring_keeps s (Keeps.refl h.memories))
  | .invariantFiring => soundOut_of_keeps h (execInvariantFiring_keeps s (Keeps.refl h.memories))
  | .dropFiring => soundOut_of_keeps h (execDropFiring_keeps s (Keeps.refl h.memories))
  | .markerFiring => soundOut_of_keeps h (execMarkerFiring_keeps s (Keeps.refl h.memories))
  | .poisonControlFiring => soundOut_of_keeps h (execPoisonControlFiring_keeps s (Keeps.refl h.memories))
  | .mxTokenStart => soundOut_of_keeps h (execMxTokenStart_keeps s (Keeps.refl h.memories))
  | .mxTokenRetire => soundOut_of_keeps h (execMxTokenRetire_keeps s (Keeps.refl h.memories))
  | .evTick => soundOut_of_keeps h (execEvTick_keeps s (Keeps.refl h.memories))
  | .sSourcePulse => soundOut_of_keeps h (execSSourcePulse_keeps s (Keeps.refl h.memories))
  | .targetFiring => soundOut_of_keeps h (execTargetFiring_keeps s (Keeps.refl h.memories))
  | .streamRunBegin => soundOut_of_keeps h (execStreamRunBegin_keeps s (Keeps.refl h.memories))
  | .streamRequest => soundOut_of_keeps h (execStreamRequest_keeps s (Keeps.refl h.memories))
  | .streamRunEnd => soundOut_of_keeps h (execStreamRunEnd_keeps s (Keeps.refl h.memories))
  | .streamRunFail => soundOut_of_keeps h (execStreamRunFail_keeps s (Keeps.refl h.memories))
  | .translationRefill => soundOut_of_keeps h (execTranslationRefill_keeps s (Keeps.refl h.memories))
  | .handleRequestService => soundOut_of_keeps h (execHandleRequestService_keeps s (Keeps.refl h.memories))
  | .hbWaitAnswer => soundOut_of_keeps h (execHbWaitAnswer_keeps s (Keeps.refl h.memories))
  | .storePerform => soundOut_of_keeps h (execStorePerform_keeps s (Keeps.refl h.memories))
  | .atomicExecute => soundOut_of_keeps h (execAtomicExecute_keeps s (Keeps.refl h.memories))
  | .mailboxAppend => soundOut_of_keeps h (execMailboxAppend_keeps s (Keeps.refl h.memories))
  | .ceRedRun => soundOut_of_keeps h (execCeRedRun_keeps s (Keeps.refl h.memories))
  | .ceProgStart => soundOut_of_keeps h (execCeProgStart_keeps s (Keeps.refl h.memories))
  | .ceProgRowStep => soundOut_of_keeps h (execCeProgRowStep_keeps s (Keeps.refl h.memories))
  | .ceWindowExpiry => soundOut_of_keeps h (execCeWindowExpiry_keeps s (Keeps.refl h.memories))
  | .barrierOp => soundOut_of_keeps h (execBarrierOp_keeps s (Keeps.refl h.memories))
  | .barWaitAnswer => soundOut_of_keeps h (execBarWaitAnswer_keeps s (Keeps.refl h.memories))
  | .counterRequest => soundOut_of_keeps h (execCounterRequest_keeps s (Keeps.refl h.memories))
  | .cntWaitAnswer => soundOut_of_keeps h (execCntWaitAnswer_keeps s (Keeps.refl h.memories))
  | .ladderRequestService => soundOut_of_keeps h (execLadderRequestService_keeps s (Keeps.refl h.memories))
  | .parkedRetry => soundOut_of_keeps h (execParkedRetry_keeps s (Keeps.refl h.memories))
  | .transformEnd => soundOut_of_keeps h (execTransformEnd_keeps s (Keeps.refl h.memories))
  | .dyingPageFree => soundOut_of_keeps h (execDyingPageFree_keeps s (Keeps.refl h.memories))
  | .launchArrival => soundOut_of_keeps h (execLaunchArrival_keeps s (Keeps.refl h.memories))
  | .launchStart => soundOut_of_keeps h (execLaunchStart_keeps s (Keeps.refl h.memories))
  | .launchCompletion => soundOut_of_keeps h (execLaunchCompletion_keeps s (Keeps.refl h.memories))
  | .regionPlacement => soundOut_of_keeps h (execRegionPlacement_keeps s (Keeps.refl h.memories))
  | .quantumExpiry => soundOut_of_keeps h (execQuantumExpiry_keeps s (Keeps.refl h.memories))
  | .faultRecordDelivery => soundOut_of_keeps h (execFaultRecordDelivery_keeps s (Keeps.refl h.memories))
  | .roundCommit => soundOut_of_keeps h (execRoundCommit_keeps s (Keeps.refl h.memories))
  | .thirdPlacementVote => soundOut_of_keeps h (execThirdPlacementVote_keeps s (Keeps.refl h.memories))
  | .rollback => soundOut_of_keeps h (execRollback_keeps s (Keeps.refl h.memories))
  | .hang => soundOut_of_keeps h (execHang_keeps s (Keeps.refl h.memories))
  | .freezeWave => soundOut_of_keeps h (execFreezeWave_keeps s (Keeps.refl h.memories))
  | .retentionEntry => soundOut_of_keeps h (execRetentionEntry_keeps s (Keeps.refl h.memories))
  | .retentionExit => soundOut_of_keeps h (execRetentionExit_keeps s (Keeps.refl h.memories))
  | .bankDropMigration => soundOut_of_keeps h (execBankDropMigration_keeps s (Keeps.refl h.memories))
  | .linkRetrainFailure => execLinkRetrainFailure_sound h
  | .alarm => execAlarm_sound h
  | .clockSync => execClockSync_sound h
  | .moduleClockTick => execModuleClockTick_sound h
  | .thermalClockStep => execThermalClockStep_sound h
  | .powerOn => execPowerOn_sound h
  | .hostMemoryWrite => soundOut_of_keeps h (execHostMemoryWrite_keeps s (Keeps.refl h.memories))
  | .hostMemoryRead => execHostMemoryRead_sound h
  | .peerRequest => execPeerRequest_sound h
  | .bell => execBell_sound h
  | .hbell => execHbell_sound h
  | .hostRegisterWrite => execHostRegisterWrite_sound h
  | .arm => soundOut_of_keeps h (execArm_keeps s (Keeps.refl h.memories))
  | .armRelease => soundOut_of_keeps h (execArmRelease_keeps s (Keeps.refl h.memories))
  | .launch => soundOut_of_keeps h (execLaunch_keeps s (Keeps.refl h.memories))
  | .launchDual => soundOut_of_keeps h (execLaunchDual_keeps s (Keeps.refl h.memories))
  | .cancelCommand => soundOut_of_keeps h (execCancelCommand_keeps s (Keeps.refl h.memories))
  | .queryCounter => soundOut_of_keeps h (execQueryCounter_keeps s (Keeps.refl h.memories))
  | .queryGraphQueue => soundOut_of_keeps h (execQueryGraphQueue_keeps s (Keeps.refl h.memories))
  | .queryPhaseQueue => soundOut_of_keeps h (execQueryPhaseQueue_keeps s (Keeps.refl h.memories))
  | .queryRgnStat => soundOut_of_keeps h (execQueryRgnStat_keeps s (Keeps.refl h.memories))
  | .queryHealth => soundOut_of_keeps h (execQueryHealth_keeps s (Keeps.refl h.memories))
  | .map => soundOut_of_keeps h (execMap_keeps s (Keeps.refl h.memories))
  | .bindClass => soundOut_of_keeps h (execBindClass_keeps s (Keeps.refl h.memories))
  | .bindTransform => soundOut_of_keeps h (execBindTransform_keeps s (Keeps.refl h.memories))
  | .gang => soundOut_of_keeps h (execGang_keeps s (Keeps.refl h.memories))
  | .attest => soundOut_of_keeps h (execAttest_keeps s (Keeps.refl h.memories))
  | .reset => execReset_sound h
  | .policyModuleId => execPolicyModuleId_sound h
  | .policyPool => soundOut_of_keeps h (execPolicyPool_keeps s (Keeps.refl h.memories))
  | .policySpanDirectory => soundOut_of_keeps h (execPolicySpanDirectory_keeps s (Keeps.refl h.memories))
  | .policyCeWin => soundOut_of_keeps h (execPolicyCeWin_keeps s (Keeps.refl h.memories))
  | .policyTestMode => execPolicyTestMode_sound h
  | .policyClearMode => execPolicyClearMode_sound h
  | .policyBudget => soundOut_of_keeps h (execPolicyBudget_keeps s (Keeps.refl h.memories))
  | .policyAlarm => execPolicyAlarm_sound h
  | .policyTimeRoot => execPolicyTimeRoot_sound h
  | .fwcallService => execFwcallService_sound h
  | .jondovyLinkTraining => execJondovyLinkTraining_sound h
  | .peerLinkGrant => execPeerLinkGrant_sound h

end Sys2Proof.Machine
end

