-- ==== Sys2Proof/Tests/Slice0.lean ====
section
/-!
SUPPORT. The tests: ill-formed operations that each check refuses, words that the spec writes out, and states and operands that meet the
hypotheses of the statements, clause by clause, at the ends of their ranges.
-/
namespace Sys2Proof.Tests
open Sys2Proof.Machine Sys2Proof.Rules Sys2Proof.Safety
set_option Elab.async false

/-! ### Small states and operations -/

/-- Registers of slot 0 of bank unit 0. -/
def withG (l : List (Nat × Nat)) (s : State) : State := s.modCtx 0 0 (fun c => c.modRegs (fun r =>
  { r with g := l.foldl (fun g e => g.set (Fin.ofNat 32 e.1) ⟨BitVec.ofNat 64 e.2, .full⟩) r.g }))
def withV (l : List (Nat × Nat)) (s : State) : State := s.modCtx 0 0 (fun c => c.modRegs (fun r =>
  { r with v := l.foldl (fun v e => v.set (Fin.ofNat 8 e.1) ⟨BitVec.ofNat 512 e.2, .full⟩) r.v }))
def withP (l : List (Nat × Nat)) (s : State) : State := s.modCtx 0 0 (fun c => c.modRegs (fun r =>
  { r with p := l.foldl (fun p e => p.set (Fin.ofNat 8 e.1) ⟨BitVec.ofNat 64 e.2, .full⟩) r.p }))
def G (n : Nat) : Opnd := ⟨.g (Fin.ofNat 32 n), false⟩
def V (n : Nat) : Opnd := ⟨.v (Fin.ofNat 8 n), false⟩
def P (n : Nat) : Opnd := ⟨.p (Fin.ofNat 8 n), false⟩
def T (n : Nat) : Opnd := ⟨.t (Fin.ofNat 16 n), false⟩
def QI (n : Nat) : Opnd := ⟨.qi (Fin.ofNat 16 n), false⟩
def QO (n : Nat) : Opnd := ⟨.qo (Fin.ofNat 16 n), false⟩
def C (n : Nat) : Opnd := ⟨.c (Fin.ofNat 32 n), false⟩
def det (o : Opnd) : Opnd := { o with mode := true }
def Z : Opnd := Opnd.zero
def w3 (d a b c : Opnd) (ty : Ty) (m : Nat) : Op := ⟨0, false, d, a, .reg b c ty .rne false .sat (BitVec.ofNat 11 m)⟩
def w3o (d a b c : Opnd) (ty : Ty) (ovf : Ovf) (m : Nat) : Op := ⟨0, false, d, a, .reg b c ty .rne false ovf (BitVec.ofNat 11 m)⟩
def wi (d a : Opnd) (n : Nat) : Op := ⟨0, false, d, a, .imm (BitVec.ofNat 28 n)⟩
def onP (p : Nat) (o : Op) : Op := { o with pred := Fin.ofNat 8 p }


/-- Some operands are read with which a condition holds of an operation. -/
def Meets (r : Row) (o : Op) (s : State) (p : View → Srcs → Bool) : Prop := ∃ x, Reads r o s x ∧ p (seen s r o) x = true
/-- The operation executes as well. -/
def MeetsFired (r : Row) (o : Op) (s : State) (p : View → Srcs → Bool) : Prop := ∃ x, Fires r o s x ∧ p (seen s r o) x = true

/-- An operation can be read, with values that meet a condition. -/
def readsWith (r : Row) (o : Op) (s : State) (p : View → Srcs → Bool) : Bool :=
  commonReady (seen s r o) && match readPred (seen s r o).c (seen s r o).o.pred with
  | .ok bits => (match readSrcs (seen s r o) (selBits bits (seen s r o).o.psense) with
    | .ok x => p (seen s r o) x
    | .error _ => false)
  | .error _ => false

theorem reads_of {r : Row} {o : Op} {s : State} {p : View → Srcs → Bool} (h : readsWith r o s p = true) :
    Meets r o s p := by
  unfold readsWith at h
  rw [Bool.and_eq_true] at h
  obtain ⟨h1, h2⟩ := h
  split at h2
  · next bits hp =>
    split at h2
    · next x hx => exact ⟨x, ⟨h1, bits, hp, hx⟩, h2⟩
    · cases h2
  · cases h2

/-- It executes. -/
def firesWith (r : Row) (o : Op) (s : State) (p : View → Srcs → Bool) : Bool :=
  readsWith r o s (fun v x => (x.sel % 2 == 1) && p v x)

theorem fires_of {r : Row} {o : Op} {s : State} {p : View → Srcs → Bool} (h : firesWith r o s p = true) :
    MeetsFired r o s p := by
  obtain ⟨x, hx, hp⟩ := reads_of h
  rw [Bool.and_eq_true] at hp
  exact ⟨x, ⟨hx, by simpa using hp.1⟩, hp.2⟩

/-- Bank unit 0 under an image of one bank unit: M frames, W frames and the words of block 0 of slot 0, which runs. -/
def placedState (m w : List Nat) (blk : List Word) : State :=
  let im : Image := ⟨1, 1, 1, 1, [], [⟨0, 0, 0, 0, false, 0, false, blk⟩],
    [⟨2, 0, 0, 0, 0, 0, m.map (BitVec.ofNat 64)⟩, ⟨3, 0, 0, 0, 0, 0, w.map (BitVec.ofNat 64)⟩]⟩
  let s := State.reset.modHub (fun h => { h with images := [(0, im)], regions := [(0, { probeRegion with image := 0 })] })
  (s.modBu 0 (fun b => { b with region := some 0 })).modCtx 0 0 (fun c => { c with st := .active })

/-- A window of n lines from line 1 of the bank, which ends in the bytes 0x11 to 0x44. -/
def bankState (n : Nat) (l : List (Nat × Nat)) : State :=
  withG l ((placedState [1 + n * 2 ^ 16, 0, 0, 0, 0, 0, 0, 0] [] []).modBu 0 (fun b =>
    { b with bank := Memory.writeBytes (60 + 64 * n) [0x11, 0x22, 0x33, 0x44] b.bank }))

/-- QO0 of slot 0 of bank unit 0 sends on route 1 to QI0 of the same slot, with room for four tokens; QI0 holds some. -/
def queueState (toks : List Token) (s : State := placedState [1 + 8 * 2 ^ 16, 0, 0, 0, 0, 0, 0, 0]
    [8 * 2 ^ 60 + 2 ^ 48 + 3 * 2 ^ 8, 9 * 2 ^ 60 + 2 ^ 48 + 3 * 2 ^ 24, 0, 0] []) : State :=
  s.modBu 0 (fun b => { b with queues := [(1, toks)] })
def tok (n : Nat) : Token := mkToken .data 0 1 (BitVec.ofNat 512 n) false
def mark (r : Nat) : Token := mkToken .marker r 1 0 false

/-- A window of eight lines from line 1 of the bank, which begins with some bytes. -/
def bankLine (bs : List Byte) : State :=
  (placedState [1 + 8 * 2 ^ 16, 0, 0, 0, 0, 0, 0, 0] [] []).modBu 0 (fun b => { b with bank := Memory.writeBytes 64 bs b.bank })


/-- Tiles Z0 (f32) and Z1 (rns) of slot 0, with rings K0 and K1 of sixteen entries each. -/
def mxState : State := placedState ((List.range 64).map (fun i =>
  if i = 0 then 1 + 8 * 2 ^ 16 else if i = 8 then 16 + 16 * 2 ^ 16 else if i = 9 then 48 + 16 * 2 ^ 16
  else if i = 63 then 2 ^ 16 + 2 ^ 17 + 2 ^ 25 else 0)) [] []
def mxOrg : Origin := ⟨0, 0, 0, 0, 0, 0, 0, 0, 0⟩
def mxTok (w : Nat) : MxTok := ⟨BitVec.ofNat 64 w, none, none, false, mxOrg, 0, []⟩
/-- A matrix token: kind, tile, rings, and the fields below. -/
def mxWord (kind z ka kb rest : Nat) : Nat := (16 + kind) * 2 ^ 58 + z * 2 ^ 55 + ka * 2 ^ 53 + kb * 2 ^ 51 + rest
def withNode (f : Node → Node) (s : State) : State := s.modBu 0 (fun b => { b with node := f b.node })
def withEv (f : Events → Events) (s : State) : State := s.modBu 0 (fun b => { b with ev := f b.ev })
def withArg (n m : Nat) (s : State) : State := { s with my := { s.my with arg := { s.my.arg with n := n, m := m } } }
/-- The running context acts in slot k. -/
def inSlot (k : Nat) (s : State) : State := { s with my := { s.my with cur := { s.my.cur with slot := k } } }
def faultBits (c : Code) (a e : Nat) : Stop := .fault ⟨c, a, e⟩

/-- Bank unit 0 with a block 0 of slot 0 whose words these are, and its operation k issued. -/
def issued (k : Nat) (blk : List Word) (s : State := placedState [] [] blk) : State :=
  { s with my := { s.my with issueQ := [⟨0, 0, k, 0, none⟩] } }
/-- Operation k of block 0 of slot 0 is the one that executes. -/
def atOp (k : Nat) (s : State) : State := { s with my := { s.my with cur := { s.my.cur with op := k } } }
def withBlk (f : Blk → Blk) (s : State) : State := s.modCtx 0 0 (fun c => { c with blk := f c.blk })
def withRegs (f : Regs → Regs) (s : State) : State := s.modCtx 0 0 (fun c => c.modRegs f)
def evTurn (i : Instr) (a : Arg) (s : State) : State := { s with my := { s.my with agenda := [.event i a] } }
/-- The host's queue begins at byte 0 of host memory and holds entries. -/
def cmdState (entries : List Nat) : State :=
  let s : State := { State.reset with my := { State.reset.my with agenda := [.command] } }
  { s with out := { s.out with qbase := 0, fwTail := entries.length, hbell := BitVec.ofNat 16 entries.length, ready := true },
           ms := { s.ms with mem := Memory.writeBytes (2 ^ 60 + 64) (entries.flatMap (bytesOfNat 64)) [] } }

/-- Operands of an event. -/
def arg (n : Nat) (m : Nat := 0) : Arg := { Arg.zero with n := n, m := m }
def withA (a : Arg) (s : State) : State := { s with my := { s.my with arg := a } }
/-- A job whose table maps VA page k to device page 5 + k for k below 3, writable, and the rest to nothing; its handle table is at VA 0, its
heap at VA 0x20000 (device page 7). -/
def testJob : Job :=
  { id := 1, pool := 0, oasis := 0, ncnt := 4, cntBase := 10, root := 0x10000, htab := 0, hslots := 8, heap := 0x20000, heapsz := 0x10000,
    budget := 1000, fq := 0x10800, save := 0, savesz := 0, phase := 0, closedPhases := [], closed := false, phaseCnts := [],
    heapUsed := [], shadows := [], caravan := [] }
def pte (leaf : Bool) (page : Nat) : Nat := 1 + (if leaf then 2 + 16 else 0) + page * 2 ^ 16
def putNat (a size v : Nat) (s : State) : State := { s with ms := { s.ms with mem := s.ms.mem.writeBytes a (bytesOfNat size v), base := s.ms.base.writeBytes a (bytesOfNat size v) } }
def jobState (ents : List (Nat × HEnt) := []) (s : State := .reset) : State :=
  ents.foldl (fun s e => { s with ms := { s.ms with mem := s.ms.mem.writeBytes (0x50000 + 32 * e.1) e.2.bytes } })
    (putNat 0x10000 8 (pte false 2) (putNat 0x20000 8 (pte false 3) (putNat 0x30000 8 (pte false 4)
      (putNat 0x40000 8 (pte true 5) (putNat 0x40008 8 (pte true 6) (putNat 0x40010 8 (pte true 7)
        (s.modHub (fun h => { h with jobs := [(1, testJob)] }))))))))
/-- A buffer of 4096 bytes at VA 0x10000 (device byte 0x60000), generation 3; its handle in slot k is 4096 k + 3. -/
def buf (kind state : Nat) (shadowed : Bool := false) (writers : Nat := 0) (pub : Bool := false) : HEnt :=
  { state := state, kind := kind, shadowed := shadowed, gen := 3, writers := writers, readers := 0, pub := pub, base := 0x10000, size := 4096,
    shadow := 0x11000 }
def testOrg : Origin := ⟨0, 0, 0, 0, 0, 0, 0, 0, 1⟩
def rq (row : Row) (a b c mod : Nat) (ty : Ty := .i64) (id : Nat := 7) : Req :=
  { id := id, org := testOrg, row := row, port := 0, a := a, b := b, c := c, mod := mod, ty := ty, rm := .rne, ovf := .sat, imm := false, dst := .g 1,
    committed := true, dead := false, stage := .sent, sync := 0, past := [], after := [], hold := [], flags := 0, begun := false, rel := [], obs := [] }
/-- Requests under way, the event acting on request 7. -/
def reqState (qs : List Req) (s : State := jobState) : State :=
  withA (arg 7) (s.modHub (fun h => { h with reqs := qs, nextId := 8 }))
def testLaunch : Launch :=
  { id := 5, job := 1, region := 0, prio := 0, rollbackMode := false, eos := false, close := false, phase := 0, quantum := 0,
    cnts := [0xFFFF, 0xFFFF, 0xFFFF], reply := 0, lbudget := 0, seed := 0, copies := [], binds := [], tick := 0, skewed := false,
    st := .running, stage := 0, spent := 0, build := none, cancelled := false, dual := false, counted := [] }
def testRec (code : Code) : FaultRec :=
  { code := code.num, level := 0, async := true, die := 0, x := 0, y := 0, slot := 0, block := 0, op := 0, norep := false, address := 0, round := 0,
    tick := 0, extra := 0, launch := 0 }
/-- Whether a request may be served and is the one the event acts on. -/
def served (s : State) : Bool := match s.req s.my.arg.n with | some q => s.mayServe q | none => false
def rowIs (s : State) (r : Row) : Bool := match s.req s.my.arg.n with | some q => q.row == r && q.id == 7 | none => false
def nxt (o : Host.Outcome State Fault Refusal) (p : State → Bool) : Bool := match o with | .next t => p t | _ => false
def entIs (s : State) (h : Nat) (p : HEnt → Bool) : Bool := match s.hent 1 h with | .ok e => p e | .error _ => false

/-- Stream k of bank unit 0 accesses the buffer of a handle. -/
def onHandle (k h : Nat) (s : State) : State := s.modStrm 0 k (fun x => { x with handle := h })
/-- An empty region of one bank unit, of job 1, with a launch that runs in it. -/
def regionState (f : Region → Region := id) (l : Launch := testLaunch) (s : State := jobState [] (placedState [] [] [])) : State :=
  withA (arg 0) ((s.modHub (fun h => { h with launches := [(5, l)] })).modRegion 0 (fun r => f { r with running := some 5, opened := 1 }))
/-- The span in slot 1 of a directory of four at device byte 0x70000, of job 1: rungs 0 and 1 present; its class 1 is bound. -/
def testSpan : Span :=
  { slot := 1, present := 1, regen := 0, cls := 1, opay := false, live := true, gen := 2, owner := 1, length := 64, pins := 0,
    rungs := [2 ^ 31 + 3, 0, 0, 0, 0], spent := 0 }
def spanState (p : Span := testSpan) (s : State := jobState) : State :=
  let cls : List Byte := List.replicate 21 0 ++ [1] ++ List.replicate 10 0
  let rung : Rung := ⟨3, true, 1, 2, 0x20000, 256, 0, 0, 1, 0⟩
  let s1 := s.modHub (fun h => { h with spanBase := 0x70000, spanSize := 4, classes := [(1, cls)], rungs := [(2 ^ 19, rung)] })
  { s1 with ms := { s1.ms with mem := s1.ms.mem.writeBytes (0x70000 + 128) p.bytes } }
/-- The name of that span. -/
def spanNm : Nat := 2 ^ 28 + 2 * 2 ^ 12
def pubRec (p : PRec) (s : State) : State := withA (arg p.id) (s.modHub (fun h => { h with recs := [p], nextId := p.id + 1 }))
def spanOk (s : State) : Bool := match s.spanNamed spanNm with | .ok p => p.live | .error _ => false

/-- A block of slot 0 that has executed its operations and fired its exit to block k; block k is resident. -/
def doneState (effs : List Eff) (k : Nat := 0) (f : Blk → Blk := id) : State :=
  let s := withBlk (fun b => f { b with running := true, done := [(0, 1)], fired := some (0, k), effs := effs.map (fun e => (0, 0, e)) })
    (placedState [1 + 8 * 2 ^ 16, 0, 0, 0] [] [0x3000000FF0000000])
  withA (arg 0 0) (s.modBu 0 (fun b => { b with cache := [⟨0, 0, k, 1, 0, true⟩] }))
/-- Bank unit 0 under an image with handler block 0, whose slot 0 runs. -/
def handlerState : State :=
  (placedState [] [] []).modHub (fun h => { h with images := [(0, ⟨1, 1, 1, 1, [], [⟨0, 0, 0, 0, false, 0, false, []⟩,
    ⟨0, 0, 0, 0, true, 0, false, [0x3000000FF0000000]⟩], []⟩)] })
/-- Controller 0 of bank unit 0: QI0 of slot 0 on route 1, rate class, with a capacity of 4. -/
def ctlState (c : Ctl) : State :=
  withA (arg 0 0) ((placedState [] [8 * 2 ^ 60 + 2 ^ 48 + 3 * 2 ^ 8, 9 * 2 ^ 60 + 2 ^ 48 + 3 * 2 ^ 24 + 2 ^ 23, 0, 0] []).modBu 0 (fun b =>
    { b with ctls := [(0, c)] }))
def testCtl : Ctl :=
  { acc := 0, adj := 0, set := 1, kp := 16, ki := 0, period := 5, imax := 100, cap := 4, pstat := 0, kpArm := 16, periodMin := 1, count := 3, running := 3, sample := none }
/-- A token flit of QI0 of slot 0 of bank unit 0, at a bank unit. -/
def flitState (at_ dest : Nat) (damaged : Bool := false) : State :=
  let s := queueState []
  withA { arg 7 with flag := damaged } { s with net := { s.net with flits := [⟨7, tok 9, at_, dest, 1, none, [], [], 7, false⟩] } }
/-- A `pass` operator at entry 0, from route 1 to route 2, which ends at QI0 of slot 0. -/
def operState (kind : Nat) (o : Oper) (full : Bool := false) : State :=
  (placedState [] [kind * 2 ^ 60 + 2 ^ 48 + 2 * 2 ^ 12, 8 * 2 ^ 60 + 2 * 2 ^ 48 + 2 ^ 7, 9 * 2 ^ 60 + 2 * 2 ^ 48, 0] []).modBu 0 (fun b =>
    { b with opers := [(0, o)], credits := if full then [(1, 0)] else [] })
/-- Stream 0 of bank unit 0, with its program words; QO0 of slot 0 sends on route 1, QI0 receives from it. -/
def strmState (ws : List Nat) (x : Strm → Strm) : State :=
  let im : Image := ⟨1, 1, 1, 1, [], [],
    [⟨2, 0, 0, 0, 0, 0, [BitVec.ofNat 64 (1 + 8 * 2 ^ 16), 0, 0, 0]⟩, ⟨3, 0, 0, 0, 0, 0, [BitVec.ofNat 64 (8 * 2 ^ 60 + 2 ^ 48 + 2 ^ 24 + 3 * 2 ^ 8), BitVec.ofNat 64 (9 * 2 ^ 60 + 2 ^ 48 + 2 ^ 40 + 3 * 2 ^ 24), 0, 0]⟩,
     ⟨4, 0, 0, 0, 0, 0, (ws ++ List.replicate (8 - ws.length) 0).map (BitVec.ofNat 64)⟩]⟩
  let s := jobState [(1, buf 1 2)] (placedState [] [] [])
  withA (arg 0 0) ((s.modHub (fun h => { h with images := [(0, im)] })).modStrm 0 0 x)
def testRun : Run :=
  { round := 0, pos := 0, pos2 := 0, sub := 0, got := [], pairs := [], todo := [], sbs := [], flags := 0, held := [], waitH := [], lineRound := 0,
    ended := false, marker := false, err := none, refill := none, part := [], tile := 0, launch := 5, writes := [] }
/-- A command of a job served now. -/
def cmdArg (job a0 a1 a2 : Nat) : Arg :=
  { Arg.zero with cmd := ⟨0, BitVec.ofNat 16 job, 0, BitVec.ofNat 64 a0, BitVec.ofNat 64 a1, BitVec.ofNat 64 a2, 0, 0, 0⟩ }
/-- Every bank unit of region 0 changed. -/
def regionAll (f : Bu → Bu) (s : State) : State := ((s.region 0).elim [] s.regionBus).foldl (fun s n => s.modBu n f) s
/-- The node of bank unit 0 with one started operation on tile Z0, whose elements are 7. -/
def startedState (x : Started) : State :=
  withA (arg 0 0) (withNode (fun n => { n with started := [x], tiles := n.tiles.map (fun t => { t with z := List.replicate 64 7 }) }) mxState)
def begun (w : Nat) : Started := { tok := mxTok w, rowsA := [], rowsB := [], guardOn := false, rnsMode := 0, bad := none }

/-! ### Ill-formed operations, one for each check -/
theorem test_ill_formed_form : Instr.wf (.vadd (wi (V 1) (V 2) 0)) = false := by decide
theorem test_ill_formed_predicate : Instr.wf (.add ⟨0, true, G 1, G 2, .reg (G 3) Z .i64 .rne false .sat 0⟩) = false := by decide
theorem test_ill_formed_rounding : Instr.wf (.add ⟨0, false, G 1, G 2, .reg (G 3) Z .i64 .rtz false .sat 0⟩) = false := by decide
theorem test_ill_formed_stochastic : Instr.wf (.vadd ⟨0, false, V 1, V 2, .reg (V 3) Z .i8 .rne true .sat 0⟩) = false := by decide
theorem test_ill_formed_overflow : Instr.wf (.add ⟨0, false, G 1, G 2, .reg (G 3) Z .i64 .rne false .trap 0⟩) = false := by decide
theorem test_ill_formed_modifiers : Instr.wf (.add (w3 (G 1) (G 2) (G 3) Z .i64 1)) = false := by decide
theorem test_ill_formed_destination : Instr.wf (.add (w3 (QI 1) (G 2) (G 3) Z .i64 0)) = false := by decide
theorem test_ill_formed_source_a : Instr.wf (.add (w3 (G 1) (V 2) (G 3) Z .i64 0)) = false := by decide
theorem test_ill_formed_source_b : Instr.wf (.add (w3 (G 1) (G 2) (P 3) Z .i64 0)) = false := by decide
theorem test_ill_formed_source_c : Instr.wf (.add (w3 (G 1) (G 2) (G 3) (G 4) .i64 0)) = false := by decide
theorem test_ill_formed_type : Instr.wf (.add (w3 (G 1) (G 2) (G 3) Z .f32 0)) = false := by decide
theorem test_ill_formed_immediate : Instr.wf (.exit (wi Z Z 0xFFFFFFF)) = false := by decide
theorem test_ill_formed_row_rule : Instr.wf (.frz (w3 Z Z Z Z .i8 3)) = false := by decide
theorem test_ill_formed_row : Instr.wf (.eretResume (w3 Z Z Z Z .i8 2)) = false := by decide
theorem test_bad_command : decodeCmd 0 ⟨0, 0, 0, 0, 0, 0, 0, 0, 0⟩ = .error .badCmd := by decide
theorem test_reserved_opcode : decodeWord 0xFF00000000000000 = .error .opcode := by decide +kernel
theorem test_reserved_word : decodeWord 0x3700000000000001 = .error .field := by decide +kernel

/-! ### Words that the spec writes out -/

/-- `add G3, G3, QI0`; `mov G4, t0`. -/
theorem test_words_scalar :
    decodeWord 0x0000303800060000 = .ok (.add (w3 (G 3) (G 3) (QI 0) Z .i64 0)) ∧
    decodeWord 0x1D00440000060000 = .ok (.mov (w3 (G 4) (T 0) Z Z .i64 0)) := by decide +kernel

/-- `cne t1, t0, 0`. -/
theorem test_words_compare :
    decodeWord 0x2104140FF0000000 = .ok (.cne (wi (T 1) (T 0) 0)) := by decide +kernel

/-- `imm 0x12`; `rep`. -/
theorem test_words_config :
    decodeWord 0x3600000000000012 = .ok (.imm 0x12) ∧
    decodeWord 0x35000000000000EC = .ok (.rep (w3 Z Z Z Z .i8 236)) := by decide +kernel

/-- `exit.t loop, t1`; `halt.f t4`; `(P3) eret.esc`; `trap.t 1, G6`. -/
theorem test_words_control :
    decodeWord 0x3000041FF0010001 = .ok (.exit (wi Z (T 1) 65537)) ∧
    decodeWord 0x3300044000000002 = .ok (.halt (w3 Z (T 4) Z Z .i8 2)) ∧
    decodeWord 0x3930000000000002 = .ok (.eretEsc (onP 3 (w3 Z Z Z Z .i8 2))) ∧
    decodeWord 0x3800006FF0010001 = .ok (.trap (wi Z (G 6) 65537)) := by decide +kernel

/-- `rate.set QI2, kp, G5`; `rate.rd G3, QO4, occ`; `rate.w wmax, G2`. -/
theorem test_words_channel :
    decodeWord 0xA700005FF0000402 = .ok (.rateSet (wi Z (G 5) 1026)) ∧
    decodeWord 0xA802300FF0000014 = .ok (.rateRd (wi (det (G 3)) Z 20)) ∧
    decodeWord 0xA900002000000002 = .ok (.rateW (w3 Z (G 2) Z Z .i8 2)) := by decide +kernel

/-- `qmark`; `qpeek.sb G5, QI2!`. -/
theorem test_words_queue :
    decodeWord 0xA000000000000000 = .ok (.qmark (w3 Z Z Z Z .i8 0)) ∧
    decodeWord 0xA300500FF0000302 = .ok (.qpeek (wi (G 5) Z 770)) := by decide +kernel

/-- `(P3) vfma.z.f32.rtz V4, V5, V6, V7`; `vrot.f16 t1, t0, 1`; `vbcast.i8 t0, t1`. -/
theorem test_words_vector :
    decodeWord 0x53354555657C4400 = .ok (.vfma ⟨3, false, V 4, V 5, .reg (V 6) (V 7) .f32 .rtz false .sat 0x400⟩) ∧
    decodeWord 0x67041400000A0201 = .ok (.vrot (w3 (T 1) (T 0) Z Z .f16 513)) ∧
    decodeWord 0x6504041000000000 = .ok (.vbcast (w3 (T 0) (T 1) Z Z .i8 0)) := by decide +kernel

/-- `(P1) vcvt.f16.f32.trap t7, t6`; `vunpk.hi.f32.f16 QO0, t6`. -/
theorem test_words_convert :
    decodeWord 0x70147460000A180C = .ok (.vcvt ⟨1, false, T 7, T 6, .reg Z Z .f16 .rne false .trap 0x00c⟩) ∧
    decodeWord 0x72090460000C001A = .ok (.vunpk (w3 (QO 0) (T 6) Z Z .f32 26)) := by decide +kernel

/-- `vexp2.f32 V2, V1`. -/
theorem test_words_special :
    decodeWord 0x75072510000C0000 = .ok (.vexp2 (w3 (det (V 2)) (V 1) Z Z .f32 0)) := by decide +kernel

/-- `std [G3+G5-8], G7`; `sth [G2], t2`. -/
theorem test_words_bank :
    decodeWord 0x47000030507607FF = .ok (.std (w3 Z (G 3) (G 5) (G 7) .i64 2047)) ∧
    decodeWord 0x4500002004220000 = .ok (.sth (w3 Z (G 2) Z (T 2) .i16 0)) := by decide +kernel

/-- `vld.f32 V1, [G2+128]`. -/
theorem test_words_line :
    decodeWord 0x80051020000C0002 = .ok (.vld (w3 (V 1) (G 2) Z Z .f32 2)) := by decide +kernel

/-- `vgat.z.f32 V1, [G2], V3`. -/
theorem test_words_gather :
    decodeWord 0x84051025300C0400 = .ok (.vgat (w3 (V 1) (G 2) (V 3) Z .f32 1024)) := by decide +kernel

/-- `mx.mma.acc.e4m3.nq4 Z2, K0, K1`; `mx.rev Z0, [G2]`; `mx.chk Z1`; `mx.wait Z0`; `mx.deg 253`. -/
theorem test_words_matrix :
    decodeWord 0x9000000FF10E3BF0 = .ok (.mxMma (wi Z Z 17710064)) ∧
    decodeWord 0x9500002FF00003F0 = .ok (.mxRev (wi Z (G 2) 1008)) ∧
    decodeWord 0x9600000FF08003F0 = .ok (.mxChk (wi Z Z 8389616)) ∧
    decodeWord 0x9E00000000000001 = .ok (.mxWait (w3 Z Z Z Z .i8 1)) ∧
    decodeWord 0x9700000000000002 = .ok (.mxDeg (w3 Z Z Z Z .i8 2)) := by decide +kernel

/-- `rg.push K1, V2, G5`. -/
theorem test_words_ring :
    decodeWord 0x9800052050000001 = .ok (.rgPush (w3 Z (V 2) (G 5) Z .i8 1)) := by decide +kernel

/-- `vrns.fwd.rns.i32 V2, V1`; `(P1) rns.inj 253, 1, 1`. -/
theorem test_words_residue :
    decodeWord 0x9B052510000F0004 = .ok (.vrnsFwd (w3 (V 2) (V 1) Z Z .rns 4)) ∧
    decodeWord 0xF510000FF000100A = .ok (.rnsInj (onP 1 (wi Z Z 4106))) := by decide +kernel

/-- `spr.rd G9, rns.mode`; `(P1) spr.wr 0x8000, t0`. -/
theorem test_words_special_register :
    decodeWord 0xF000900FF0000120 = .ok (.sprRd (wi (G 9) Z 288)) ∧
    decodeWord 0xF110040FF0008000 = .ok (.sprWr (onP 1 (wi Z (T 0) 32768))) := by decide +kernel

/-- `hb.set.free.rgn.rel G2`; `hb.wait.full.dev G10, G9`. -/
theorem test_words_handle :
    decodeWord 0xC2000020000000A0 = .ok (.hbSet (w3 Z (G 2) Z Z .i8 160)) ∧
    decodeWord 0xC102A09000000032 = .ok (.hbWait (w3 (det (G 10)) (G 9) Z Z .i8 50)) := by decide +kernel

/-- `stm.i64 S0, [G0+376], G1`; `ldm.n32 G13, S2?,`; `cstep`. -/
theorem test_words_device :
    decodeWord 0x4C0000000016002F = .ok (.stm (w3 Z Z Z (G 1) .i64 47)) ∧
    decodeWord 0x4B02D00000050220 = .ok (.ldm (w3 (det (G 13)) Z Z Z .n32 544)) ∧
    decodeWord 0xBB00000000000000 = .ok (.cstep (w3 Z Z Z Z .i8 0)) := by decide +kernel

/-- `fence.acq.rgn`; `fence.rls.dev`. -/
theorem test_words_fence :
    decodeWord 0x4A0000000000000A = .ok (.fenceAcq (w3 Z Z Z Z .i8 10)) ∧
    decodeWord 0x4A00000000000013 = .ok (.fenceRls (w3 Z Z Z Z .i8 19)) := by decide +kernel

/-- `atom.add.i64 G4, S1, [G3], G5`; `cas.n64 G6, c1:[G2], G7, G8`. -/
theorem test_words_atomic :
    decodeWord 0xB102403000560288 = .ok (.atom (w3 (det (G 4)) (G 3) Z (G 5) .i64 648)) ∧
    decodeWord 0xB202602070870080 = .ok (.cas (w3 (det (G 6)) (G 2) (G 7) (G 8) .n64 128)) := by decide +kernel

/-- `bar.arrive.rgn.rel G4, S2, [G0]`; `(P2) bar.drop.rgn.rel G8, S0, [G0]`; `bar.wait.rgn G10, S0, [G0], G8`. -/
theorem test_words_barrier :
    decodeWord 0xB802400000000303 = .ok (.barArrive (w3 (det (G 4)) Z Z Z .i8 771)) ∧
    decodeWord 0xB922800000000203 = .ok (.barDrop (onP 2 (w3 (det (G 8)) Z Z Z .i8 515))) ∧
    decodeWord 0xBA02A00000800203 = .ok (.barWait (w3 (det (G 10)) Z Z (G 8) .i8 515)) := by decide +kernel

/-- `sp.new.0 G3, G7, G8, G9`; `recall.at.1.wait G5, G3`; `drop.kill.1 G6, G3`. -/
theorem test_words_ladder :
    decodeWord 0xD002307080900000 = .ok (.spNew (w3 (det (G 3)) (G 7) (G 8) (G 9) .i8 0)) ∧
    decodeWord 0xD402503000000188 = .ok (.recall (w3 (det (G 5)) (G 3) Z Z .i8 392)) ∧
    decodeWord 0xD602603000000208 = .ok (.drop (w3 (det (G 6)) (G 3) Z Z .i8 520)) := by decide +kernel

/-- `gl.launch.dev.rel G4, G7`; `cnt.add.sys.rel G3, C0`; `cnt.wait.dev G5, G2, G3`; `cancel.launch G6, G8`. -/
theorem test_words_work :
    decodeWord 0xE002407000000004 = .ok (.glLaunch (w3 (det (G 4)) (G 7) Z Z .i8 4)) ∧
    decodeWord 0xE100003C00000005 = .ok (.cntAdd (w3 Z (G 3) (C 0) Z .i8 5)) ∧
    decodeWord 0xE302502030000004 = .ok (.cntWait (w3 (det (G 5)) (G 2) (G 3) Z .i8 4)) ∧
    decodeWord 0xE402608000000100 = .ok (.cancel (w3 (det (G 6)) (G 8) Z Z .i8 256)) := by decide +kernel

/-- `frz.rgn`; `thaw.bu`. -/
theorem test_words_freeze :
    decodeWord 0xF300000000000002 = .ok (.frz (w3 Z Z Z Z .i8 2)) ∧
    decodeWord 0xF400000000000001 = .ok (.thaw (w3 Z Z Z Z .i8 1)) := by decide +kernel

/-- `fwcall.id G4`; `fwcall.bell.imm _, G5`. -/
theorem test_words_firmware :
    decodeWord 0xF202400000000000 = .ok (.fwcallId (w3 (det (G 4)) Z Z Z .i8 0)) ∧
    decodeWord 0xF20DF05000002002 = .ok (.fwcallBell ⟨0, false, ⟨.c 31, false⟩, G 5, .reg Z Z .i8 .rne true .sat 2⟩) := by decide +kernel

/-! ### Hypotheses met, clause by clause -/

theorem test_ScalarResults :
    MeetsFired .add (w3 (G 5) (G 3) (G 4) Z .i64 0) (withG [(3, 2 ^ 64 - 1), (4, 1)] State.reset)
      (fun v x => (scalar .add 64 (x.a % 2 ^ 64) (v.bOrImm x % 2 ^ 64)).isSome && flagTrap v.c.regs.fmask 0 == none) ∧
    -- at shift 0
    MeetsFired .rol (w3 (G 5) (G 3) (G 4) Z .n32 0) (withG [(3, 2 ^ 32 - 1), (4, 32)] State.reset)
      (fun v x => (scalar .rol 32 (x.a % 2 ^ 32) (v.bOrImm x % 2 ^ 32)).isSome && flagTrap v.c.regs.fmask 0 == none) :=
  ⟨fires_of (by decide +kernel),
   fires_of (by decide +kernel)⟩

theorem test_DivisionResults :
    -- by 0
    MeetsFired .div (w3 (G 5) (G 3) Z Z .i64 0) (withG [(3, 7)] State.reset)
      (fun v x => (division .div 64 (x.a % 2 ^ 64) (v.bOrImm x % 2 ^ 64) == some (2 ^ 64 - 1, fDz)) && flagTrap v.c.regs.fmask fDz == none) ∧
    -- wraps
    MeetsFired .rem (w3 (G 5) (G 3) (G 4) Z .i64 0) (withG [(3, 2 ^ 63), (4, 2 ^ 64 - 1)] State.reset)
      (fun v x => (division .rem 64 (x.a % 2 ^ 64) (v.bOrImm x % 2 ^ 64) == some (0, 0)) && flagTrap v.c.regs.fmask 0 == none) ∧
    -- traps
    MeetsFired .divu (w3 (G 5) (G 3) Z Z .n8 0) ((withG [(3, 7)] State.reset).modCtx 0 0 (fun c => c.modRegs (fun r => { r with fmask := 2 })))
      (fun v x => (division .divu 8 (x.a % 2 ^ 8) (v.bOrImm x % 2 ^ 8) == some (255, fDz)) && flagTrap v.c.regs.fmask fDz == some 1) :=
  ⟨fires_of (by decide +kernel),
   fires_of (by decide +kernel),
   fires_of (by decide +kernel)⟩

theorem test_FieldResults :
    -- bfx
    MeetsFired .bfx (w3 (G 5) (G 3) (G 4) Z .i64 0) (withG [(3, 2 ^ 63 + 5), (4, 60)] State.reset)
      (fun _ _ => true) ∧
    -- bfi
    MeetsFired .bfi (w3 (G 5) (G 3) (G 4) (G 6) .i64 0) (withG [(3, 2 ^ 64 - 1), (4, 63 + 8 * 256), (6, 1)] State.reset)
      (fun _ _ => true) :=
  ⟨fires_of (by decide +kernel),
   fires_of (by decide +kernel)⟩

theorem test_MovesAndUnselectedOperations :
    -- shadd
    MeetsFired .shadd (w3 (G 5) (G 3) (G 4) Z .i64 7) (withG [(3, 2 ^ 61), (4, 1)] State.reset)
      (fun _ _ => true) ∧
    -- movi
    MeetsFired .movi (wi (G 5) Z 0xFFFFFFF) (State.reset)
      (fun _ _ => true) ∧
    -- movh
    MeetsFired .movh (wi (G 5) (G 3) 0xFFFFFFF) (withG [(3, 2 ^ 63 + 9)] State.reset)
      (fun _ _ => true) ∧
    -- sel
    MeetsFired .sel (w3 (G 5) (G 3) (G 4) (P 1) .i64 0) (withG [(3, 8), (4, 9)] State.reset)
      (fun _ x => x.c % 2 == 0) ∧
    -- goes by
    Meets .add (onP 1 (w3 (G 5) (G 3) (G 4) Z .i64 0)) (State.reset)
      (fun _ x => x.sel % 2 == 0) ∧
    -- waits
    (fun (st_ : State) => (match readPred (seen st_ .add (onP 1 (w3 (G 5) (G 3) (G 4) Z .i64 0))).c 1 with | .error .wait => true | _ => false)) ((State.reset : State).modCtx 0 0 (fun c => c.modRegs (fun r => { r with p := r.p.set 1 ⟨0, .pending 9⟩ }))) = true ∧
    -- empty
    (fun (st_ : State) => (match readPred (seen st_ .add (onP 1 (w3 (G 5) (G 3) (G 4) Z .i64 0))).c 1 with | .error e => e == faultCode .empty | _ => false)) ((State.reset : State).modCtx 0 0 (fun c => c.modRegs (fun r => { r with p := r.p.set 1 ⟨0, .failed⟩ }))) = true :=
  ⟨fires_of (by decide +kernel),
   fires_of (by decide +kernel),
   fires_of (by decide +kernel),
   fires_of (by decide +kernel),
   reads_of (by decide +kernel),
   by decide +kernel,
   by decide +kernel⟩

theorem test_CompareAndPredicateResults :
    -- to P
    MeetsFired .cltu (w3 (P 1) (G 3) (G 4) Z .n64 0) (withG [(3, 8), (4, 9)] State.reset)
      (fun v x => (compare .cltu 64 (x.a % 2 ^ 64) (v.bOrImm x % 2 ^ 64) == some true) && v.o.dst.reg == .p 1) ∧
    -- to G
    MeetsFired .clt (w3 (G 6) (G 3) (G 4) Z .i8 0) (withG [(3, 128), (4, 127)] State.reset)
      (fun v x => (compare .clt 8 (x.a % 2 ^ 8) (v.bOrImm x % 2 ^ 8) == some true) && v.o.dst.reg == .g 6) ∧
    -- bits
    MeetsFired .pnot (w3 (P 1) (P 2) Z Z .i8 0) (State.reset)
      (fun _ x => (predicate .pnot (x.a % 2 ^ 64) (x.b % 2 ^ 64) == some (2 ^ 64 - 1))) ∧
    -- condition to P
    MeetsFired .pall (w3 (P 1) (P 2) (P 3) Z .i8 0) (State.reset)
      (fun v x => (predicateCond .pall (x.a % 2 ^ 64) (x.b % 2 ^ 64) == some true) && v.o.dst.reg == .p 1) ∧
    -- condition to G
    MeetsFired .pany (w3 (G 1) (P 0) (P 3) Z .i8 0) (State.reset)
      (fun v x => (predicateCond .pany (x.a % 2 ^ 64) (x.b % 2 ^ 64) == some false) && v.o.dst.reg == .g 1) :=
  ⟨fires_of (by decide +kernel),
   fires_of (by decide +kernel),
   fires_of (by decide +kernel),
   fires_of (by decide +kernel),
   fires_of (by decide +kernel)⟩

theorem test_BankLoadsAndStores :
    -- misaligned
    MeetsFired .ldw (w3 (G 5) (G 3) Z Z .n32 0) (bankState 8 [(3, 2)])
      (fun v x => storesDone v && x.a % 4 != 0) ∧
    -- out of range
    MeetsFired .ldw (w3 (G 5) (G 3) Z Z .n32 0) (bankState 8 [(3, 512)])
      (fun v x => storesDone v && x.a % 4 == 0 && decide ((bankState 8 [(3, 512)]).window 0 0 = (64, 512))) ∧
    -- last
    MeetsFired .ldw (w3 (G 5) (G 3) Z Z .n32 0) (bankState 8 [(3, 508)])
      (fun v x => storesDone v && x.a % 4 == 0 && decide ((bankState 8 [(3, 508)]).window 0 0 = (64, 512)) && badWordIn v.b v.ownByte (64 + 508) 4 == none) ∧
    -- uncorrectable
    MeetsFired .ldd (w3 (G 5) (G 3) Z Z .n64 0) ((bankState 8 [(3, 504)]).modBu 0 (fun b => { b with badWords := [71] }))
      (fun v x => storesDone v && x.a % 8 == 0 && badWordIn v.b v.ownByte (64 + 504) 8 == some 71) ∧
    MeetsFired .lda (w3 (G 5) (G 3) Z Z .i32 1) (bankState 8 [(3, 508)])
      (fun v x => storesDone v && x.a % 4 == 0 && badWordIn v.b v.ownByte 572 4 == none) ∧
    -- last
    MeetsFired .sth (w3 Z (G 3) Z (G 4) .n16 0) (bankState 8 [(3, 510), (4, 0x1234)])
      (fun _ x => x.a == 510 && decide ((bankState 8 [(3, 510), (4, 0x1234)]).window 0 0 = (64, 512))) ∧
    -- misaligned
    MeetsFired .std (w3 Z (G 3) Z (G 4) .n64 0) (bankState 8 [(3, 4)])
      (fun _ x => x.a == 4) ∧
    -- out of range
    MeetsFired .stb (w3 Z (G 3) Z (G 4) .n8 0) (bankState 8 [(3, 512)])
      (fun _ x => x.a == 512) ∧
    -- release
    MeetsFired .stl (w3 Z (G 3) Z (G 4) .i64 2) (bankState 8 [(3, 504), (4, 7)])
      (fun _ x => x.a == 504) :=
  ⟨fires_of (by decide +kernel),
   fires_of (by decide +kernel),
   fires_of (by decide +kernel),
   fires_of (by decide +kernel),
   fires_of (by decide +kernel),
   fires_of (by decide +kernel),
   fires_of (by decide +kernel),
   fires_of (by decide +kernel),
   fires_of (by decide +kernel)⟩

theorem test_VectorElementResults :
    Meets .vadd (w3 (V 1) (V 2) (V 3) Z .i8 0) (withV [(2, 255), (3, 1)] State.reset)
      (fun v x => match lanes .vadd v x with | some f => (match tyLanes v x .i8 f with | .ok res => flagTrap v.c.regs.fmask res.flags == none | _ => false) | none => false) ∧
    -- overflow
    Meets .vmul (w3o (V 1) (V 2) (V 2) Z .f32 .trap 0) (withV [(2, 0x7F7FFFFF * 2 ^ 32)] State.reset)
      (fun v x => match lanes .vmul v x with | some f => (match tyLanes v x .f32 f with | .error e => e == .fault ⟨.overflow, 0, 1⟩ | _ => false) | none => false) ∧
    -- flag
    Meets .vmul (w3 (V 1) (V 2) (V 2) Z .f32 0) ((withV [(2, 0x7F7FFFFF * 2 ^ 32)] State.reset).modCtx 0 0 (fun c => c.modRegs (fun r => { r with fmask := 4 })))
      (fun v x => match lanes .vmul v x with | some f => (match tyLanes v x .f32 f with | .ok res => flagTrap v.c.regs.fmask res.flags == some 2 | _ => false) | none => false) :=
  ⟨reads_of (by decide +kernel),
   reads_of (by decide +kernel),
   reads_of (by decide +kernel)⟩

theorem test_LanesAndMergeValues :
    -- pending
    (fun (st_ : State) => (match readMerge (seen st_ .vadd (w3 (V 1) (V 3) (V 3) Z .i8 0)) false false with | .error .wait => true | _ => false) && (match readMerge (seen st_ .vadd (w3 (V 2) (V 3) (V 3) Z .i8 0)) false false with | .error e => e == faultCode .empty | .ok _ => false) && (match readMerge (seen st_ .vadd (w3 (V 4) (V 3) (V 3) Z .i8 0)) false false with | .ok 0 => true | _ => false)) ((State.reset : State).modCtx 0 0 (fun c => c.modRegs (fun r => { r with v := (r.v.set 1 ⟨0, .pending 9⟩).set 2 ⟨0, .failed⟩ }))) = true :=
  by decide +kernel

theorem test_VectorCompareAndDotResults :
    -- to P
    Meets .vcmp (w3 (P 1) (V 2) (V 3) Z .i8 2) (withV [(2, 255)] State.reset)
      (fun v x => (v.o.dst.reg == .p 1) && (match vecLanes v 1 64 v.zm (fun k => bitOf x.sel k) (fun k g => ⟨if laneCompare .i8 2 (laneOf 8 x.a k) (laneOf 8 x.b k) then 1 else 0, 0, g, false⟩) with | .ok _ => true | _ => false)) ∧
    -- to V
    Meets .vcmp (w3 (V 1) (V 2) (V 3) Z .f64 0) (State.reset)
      (fun v x => match tyLanes v x .f64 (fun k g => ⟨if laneCompare .f64 0 (laneOf 64 x.a k) (laneOf 64 x.b k) then 2 ^ 64 - 1 else 0, 0, g, false⟩) with | .ok _ => true | _ => false) ∧
    -- integers
    Meets .vdot (w3 (V 1) (V 2) (V 3) Z .i8 0) (withV [(2, 0x80), (3, 0x80)] State.reset)
      (fun v _ => v.o.ty.isInt && flagTrap v.c.regs.fmask 0 == none) ∧
    -- floats
    Meets .vdot (w3 (V 1) (V 2) (V 3) Z .f16 0) (withV [(2, 0x3C00), (3, 0x4000)] State.reset)
      (fun v _ => !v.o.ty.isInt && flagTrap v.c.regs.fmask 0 == none) :=
  ⟨reads_of (by decide +kernel),
   reads_of (by decide +kernel),
   reads_of (by decide +kernel),
   reads_of (by decide +kernel)⟩

theorem test_ReductionResults :
    -- sum
    Meets .vsum (w3 (G 1) (V 2) Z Z .i8 0) (withV [(2, 0xFFFF)] State.reset)
      (fun v _ => !v.o.modBit 0) ∧
    -- wide
    Meets .vsum (w3 (G 1) (V 2) Z Z .n8 1) (withV [(2, 2 ^ 512 - 1)] State.reset)
      (fun v _ => v.o.modBit 0) ∧
    -- min
    Meets .vrmin (onP 1 (w3 (G 1) (V 2) Z Z .i8 0)) (State.reset)
      (fun _ x => x.sel == 0) ∧
    -- max
    Meets .vrmax (w3 (G 1) (V 2) Z Z .n16 0) (withV [(2, 2 ^ 512 - 1)] State.reset)
      (fun _ x => x.sel == 2 ^ 64 - 1) ∧
    Meets .vsum (w3 (G 1) (V 2) Z Z .f64 0) (withV [(2, 0x3FF0000000000000)] State.reset)
      (fun v x => !v.o.modBit 0 && (tree (fun a b g => roundLane v .f64 (addVal (valueOf .f64 a) (valueOf .f64 b) v.rdn) g) 3 { out := (List.range 8).map (fun k => laneOf 64 x.a k), flags := 0, rng := v.c.blk.rng, trap := none }).trap == none) ∧
    -- overflow
    Meets .vsum (w3o (G 1) (V 2) Z Z .f64 .trap 0) (withV [(2, 0x7FEFFFFFFFFFFFFF + 2 ^ 64 * 0x7FEFFFFFFFFFFFFF)] State.reset)
      (fun v x => (tree (fun a b g => roundLane v .f64 (addVal (valueOf .f64 a) (valueOf .f64 b) v.rdn) g) 3 { out := (List.range 8).map (fun k => laneOf 64 x.a k), flags := 0, rng := v.c.blk.rng, trap := none }).trap == some 0) :=
  ⟨reads_of (by decide +kernel),
   reads_of (by decide +kernel),
   reads_of (by decide +kernel),
   reads_of (by decide +kernel),
   reads_of (by decide +kernel),
   reads_of (by decide +kernel)⟩

theorem test_ReductionTree :
    (fun (st_ : State) => decide ([1, 2, 3, 4].length = 2 ^ 2)) (State.reset) = true :=
  by decide +kernel

theorem test_PackingAndConversionResults :
    -- compress
    Meets .vcompress (w3 (V 1) (V 2) (P 1) Z .n32 0) (withP [(1, 2 ^ 15)] (withV [(2, 5 * 2 ^ 480)] State.reset))
      (fun _ x => bitOf x.b 15) ∧
    -- expand
    Meets .vexpand (w3 (V 1) (V 2) (P 1) Z .n32 0) (withP [(1, 2 ^ 15)] (withV [(2, 5)] State.reset))
      (fun _ x => bitOf x.b 15) ∧
    -- wider
    Meets .vcvt (w3 (V 1) (V 2) Z Z .f32 (10 + 16)) (withV [(2, 0x3C00 * 2 ^ 256)] State.reset)
      (fun v _ => decide ((Ty.ofCode (v.o.modBits 0 4)).bytes < v.o.ty.bytes) && v.o.modBits 4 2 == 1) ∧
    -- narrower
    Meets .vcvt (w3 (V 1) (V 2) Z Z .f16 (12 + 16)) (withV [(1, 7), (2, 0x3F800000)] State.reset)
      (fun v _ => decide (v.o.ty.bytes < (Ty.ofCode (v.o.modBits 0 4)).bytes) && v.o.modBits 4 2 == 1) ∧
    -- equal
    Meets .vcvt (w3 (V 1) (V 2) Z Z .i32 12) (withV [(2, 0x40000000)] State.reset)
      (fun v _ => v.o.ty.bytes == (Ty.ofCode (v.o.modBits 0 4)).bytes) :=
  ⟨reads_of (by decide +kernel),
   reads_of (by decide +kernel),
   reads_of (by decide +kernel),
   reads_of (by decide +kernel),
   reads_of (by decide +kernel)⟩

theorem test_QuantisationAndSpecialFunctions :
    -- vqnt
    Meets .vqnt (w3 (V 1) (V 2) (G 3) Z .nq4 (12 + 16 * 7)) (withG [(3, 0x3F80000000000038)] (withV [(2, 0x3F800000)] State.reset))
      (fun _ x => (ue4m3 (bitsOf x.b 0 8)).isSome && bitsOf x.b 8 24 == 0) ∧
    -- vqnt scale
    Meets .vqnt (w3 (V 1) (V 2) (G 3) Z .nq4 12) (withG [(3, 0x3F800000000000FF)] State.reset)
      (fun _ x => (ue4m3 (bitsOf x.b 0 8)).isNone) ∧
    -- vdqnt
    Meets .vdqnt (w3 (V 1) (V 2) (G 3) Z .f32 (16 * 7)) (withG [(3, 0x3F80000000000038)] (withV [(2, 0x8888888888888888 * 2 ^ 448)] State.reset))
      (fun v x => (ue4m3 (bitsOf x.b 0 8)).isSome && bitsOf x.b 8 24 == 0 && v.o.modBits 4 4 == 7) ∧
    -- vdqnt scale
    Meets .vdqnt (w3 (V 1) (V 2) (G 3) Z .f32 0) (withG [(3, 0x3F800000000000FF)] State.reset)
      (fun _ x => (ue4m3 (bitsOf x.b 0 8)).isNone) ∧
    Meets .vsqrt (w3 ⟨.v 1, true⟩ (V 2) Z Z .f32 0) (withV [(2, 0x40800000)] State.reset)
      (fun v x => match tyLanes v x .f32 (fun k g => roundLane v .f32 (sqrtVal (laneVal .f32 x.a k)) g) with | .ok _ => true | _ => false) ∧
    -- overflow
    Meets .vexp2 (w3o ⟨.v 1, true⟩ (V 2) Z Z .f32 .trap 0) (withV [(2, 0x44800000 * 2 ^ 32)] State.reset)
      (fun v x => match tyLanes v x .f32 (fun k g => roundLane v .f32 (expVal ⟨1, 1⟩ false (laneVal .f32 x.a k)) g) with | .error e => e == .fault ⟨.overflow, 0, 1⟩ | _ => false) ∧
    -- vqnt scale top byte
    Meets .vqnt (w3 (V 1) (V 2) (G 3) Z .nq4 12) (withG [(3, 0x3F80000001000038)] State.reset)
      (fun _ x => (ue4m3 (bitsOf x.b 0 8)).isSome && bitsOf x.b 8 16 == 0 && bitsOf x.b 24 8 == 1) ∧
    -- vqnt scale second byte
    Meets .vqnt (w3 (V 1) (V 2) (G 3) Z .nq4 12) (withG [(3, 0x3F80000001FFFF38)] State.reset)
      (fun _ x => (ue4m3 (bitsOf x.b 0 8)).isSome && bitsOf x.b 8 8 == 255) ∧
    -- vdqnt scale top byte
    Meets .vdqnt (w3 (V 1) (V 2) (G 3) Z .f32 0) (withG [(3, 0x3F80000080000038)] State.reset)
      (fun _ x => (ue4m3 (bitsOf x.b 0 8)).isSome && bitsOf x.b 8 16 == 0 && bitsOf x.b 24 8 == 128) :=
  ⟨reads_of (by decide +kernel),
   reads_of (by decide +kernel),
   reads_of (by decide +kernel),
   reads_of (by decide +kernel),
   reads_of (by decide +kernel),
   reads_of (by decide +kernel),
   reads_of (by decide +kernel),
   reads_of (by decide +kernel),
   reads_of (by decide +kernel)⟩

theorem test_ResidueAndLineResults :
    -- forward
    Meets .vrnsFwd (w3 (V 1) (V 2) Z Z .rns (4 + 16)) (withV [(2, 5 * 2 ^ 256)] State.reset)
      (fun v _ => flagTrap v.c.regs.fmask 0 == none && v.o.modBits 4 3 == 1) ∧
    -- reverse
    Meets .vrnsRev (w3 (V 1) (V 2) Z Z .i32 0) (withV [(2, packResidues (residuesOf (-7)))] State.reset)
      (fun v x => decide (v.b.rns.mode ≠ 7) && (List.range 8).all (fun k => match rnsCheck v.b.rns.mode (laneResidues (laneOf 64 x.a k)) with | .ok _ => true | _ => false)) ∧
    -- reverse bad
    Meets .vrnsRev (w3 (V 1) (V 2) Z Z .i32 256) (withV [(2, 2 ^ 512 - 1)] State.reset)
      (fun v x => decide (v.b.rns.mode ≠ 7) && (match rnsCheck v.b.rns.mode (laneResidues (laneOf 64 x.a 0)) with | .bad => true | _ => false)) ∧
    -- retired
    Meets .vrnsRev (w3 (V 1) (V 2) Z Z .i32 0) (State.reset.modBu 0 (fun b => { b with rns := { b.rns with mode := 7 } }))
      (fun v _ => v.b.rns.mode == 7) ∧
    -- check
    Meets .vrnsChk (w3 (G 1) (V 2) Z Z .rns 0) (withV [(2, packResidues (residuesOf (-7)))] State.reset)
      (fun v _ => decide (v.b.rns.mode ≠ 7)) ∧
    -- check retired
    Meets .vrnsChk (w3 (G 1) (V 2) Z Z .rns 0) (State.reset.modBu 0 (fun b => { b with rns := { b.rns with mode := 7 } }))
      (fun v _ => v.b.rns.mode == 7) ∧
    -- load last
    Meets .vld (w3 (V 1) (G 3) Z Z .i8 0) (bankState 8 [(3, 448)])
      (fun v x => storesDone v && x.a == 448 && badWordIn v.b v.ownByte 512 64 == none) ∧
    -- load misaligned
    Meets .vld (w3 (V 1) (G 3) Z Z .i8 0) (bankState 8 [(3, 449)])
      (fun v x => storesDone v && x.a == 449) ∧
    -- load out of range
    Meets .vld (w3 (V 1) (G 3) Z Z .i8 0) (bankState 8 [(3, 512)])
      (fun v x => storesDone v && x.a == 512) ∧
    -- store last
    Meets .vst (onP 1 (w3 Z (G 3) Z (V 1) .i32 0)) (withP [(1, 2 ^ 15)] (withV [(1, 9 * 2 ^ 480)] (bankState 8 [(3, 448)])))
      (fun _ x => x.a == 448 && x.sel == 2 ^ 15) ∧
    -- store misaligned
    Meets .vst (w3 Z (G 3) Z (V 1) .i32 0) (bankState 8 [(3, 4)])
      (fun _ x => x.a == 4) ∧
    -- store out of range
    Meets .vst (w3 Z (G 3) Z (V 1) .i32 0) (bankState 8 [(3, 512)])
      (fun _ x => x.a == 512) ∧
    -- reverse corrects
    Meets .vrnsRev (w3 (V 1) (V 2) Z Z .i32 16) (withV [(2, (packResidues (residuesOf (-7)) ^^^ 2 ^ 8) * 2 ^ 448 + 0)] State.reset)
      (fun v x => v.b.rns.mode == 0 && v.o.modBit 4 && (List.range 8).all (fun k => match rnsCheck v.b.rns.mode (laneResidues (laneOf 64 x.a k)) with | .corr c _ => k == 7 && c == 1 | .ok _ => k != 7 | .bad => false)) ∧
    -- check corrects
    Meets .vrnsChk (w3 (G 1) (V 2) Z Z .rns 0) (withV [(2, packResidues (residuesOf (-7)) ^^^ 2 ^ 8)] State.reset)
      (fun v _ => v.b.rns.mode == 0) ∧
    -- good channels
    (fun (st_ : State) => legitimate (recon (residuesOf (-7)) (mainSet 0)) && ((checkSet 0).all (fun c => (recon (residuesOf (-7)) (mainSet 0) - ((residuesOf (-7)).getD c 0 : Int)) % (modulus c : Int) == 0))) (State.reset) = true ∧
    -- one channel wrong
    (fun (st_ : State) => (List.range 6).all (fun j => legitimate (recon ((residuesOf (-7)).set 3 9) ([0, 1, 2, 3, 4, 5].erase j)) == (j == 3)) && !((checkSet 0).all (fun c => (recon ((residuesOf (-7)).set 3 9) (mainSet 0) - (((residuesOf (-7)).set 3 9).getD c 0 : Int)) % (modulus c : Int) == 0))) (State.reset) = true ∧
    -- no channel alone
    (fun (st_ : State) => (List.range 6).all (fun j => !legitimate (recon (((residuesOf (-7)).set 0 9).set 3 9) ([0, 1, 2, 3, 4, 5].erase j))) && !((checkSet 0).all (fun c => (recon (((residuesOf (-7)).set 0 9).set 3 9) (mainSet 0) - ((((residuesOf (-7)).set 0 9).set 3 9).getD c 0 : Int)) % (modulus c : Int) == 0))) (State.reset) = true ∧
    -- reduced mode
    (fun (st_ : State) => !((checkSet 6).all (fun c => (recon ((residuesOf (-7)).set 4 9) (mainSet 6) - (((residuesOf (-7)).set 4 9).getD c 0 : Int)) % (modulus c : Int) == 0))) (State.reset) = true ∧
    -- correction commits
    (fun (st_ : State) => (st_.bu 0).rns.cnt.length == 6 && (st_.bu 0).rns.auto == 0) ((State.reset).modBu 0 (fun b => { b with rns := { b.rns with cnt := [0, 254, 0, 0, 0, 255], auto := 0 } })) = true :=
  ⟨reads_of (by decide +kernel),
   reads_of (by decide +kernel),
   reads_of (by decide +kernel),
   reads_of (by decide +kernel),
   reads_of (by decide +kernel),
   reads_of (by decide +kernel),
   reads_of (by decide +kernel),
   reads_of (by decide +kernel),
   reads_of (by decide +kernel),
   reads_of (by decide +kernel),
   reads_of (by decide +kernel),
   reads_of (by decide +kernel),
   reads_of (by decide +kernel),
   reads_of (by decide +kernel),
   by decide +kernel,
   by decide +kernel,
   by decide +kernel,
   by decide +kernel,
   by decide +kernel⟩

theorem test_DescribedBlocks :
    Meets .vldb (w3 (V 1) (G 3) Z Z .f32 0) (bankLine [0x21, 0x38, 0x38])
      (fun v _ => storesDone v && badWordIn v.b v.ownByte 64 66 == none && (checkBlock (v.bankSeen.readBytes 64 66) 0 == none)) ∧
    -- format
    Meets .vldb (w3 (V 1) (G 3) Z Z .f32 0) (bankLine [0x21, 0xFF, 0x01])
      (fun v _ => storesDone v && badWordIn v.b v.ownByte 64 66 == none && (match checkBlock (v.bankSeen.readBytes 64 66) 0 with | some e => e.at_ == 0 && e.byte == 255 | none => false)) ∧
    -- out of range
    Meets .vldb (w3 (V 1) (G 3) Z Z .f32 0) (bankState 8 [(3, 512)])
      (fun v _ => storesDone v) ∧
    Meets .vstb (onP 1 (w3 Z (G 3) (V 1) (G 4) .f32 (0x21 + 1024))) (withP [(1, 2 ^ 15)] (withV [(1, 0x3F800000 * 2 ^ 480)] (bankState 8 [(3, 446), (4, 0x38)])))
      (fun v x => x.a == 446 && x.c == 0x38 && (fmtOf (v.o.modBits 0 8)).isSome && v.c.regs.fmask == 0 && (ue4m3 (x.c % 256)).isSome) ∧
    -- operand
    Meets .vstb (w3 Z (G 3) (V 1) (G 4) .f32 0x21) (bankState 8 [(3, 0), (4, 0x138)])
      (fun v x => x.c / 256 != 0 && (fmtOf (v.o.modBits 0 8)).isSome) ∧
    -- scale
    Meets .vstb (w3 Z (G 3) (V 1) (G 4) .f32 0x21) (bankState 8 [(3, 0), (4, 0xFF)])
      (fun v x => x.c / 256 == 0 && (ue4m3 255).isNone && (fmtOf (v.o.modBits 0 8)).isSome) ∧
    -- odd
    Meets .vstb (w3 Z (G 3) (V 1) (G 4) .f32 0x21) (bankState 8 [(3, 1), (4, 0x38)])
      (fun v x => x.a % 2 == 1 && x.c == 0x38 && (fmtOf (v.o.modBits 0 8)).isSome) :=
  ⟨reads_of (by decide +kernel),
   reads_of (by decide +kernel),
   reads_of (by decide +kernel),
   reads_of (by decide +kernel),
   reads_of (by decide +kernel),
   reads_of (by decide +kernel),
   reads_of (by decide +kernel)⟩

theorem test_GatherAndSparseResults :
    -- gather
    Meets .vgat (w3 (V 1) (G 3) (V 2) Z .f32 0) (withV [(2, 63 + 2 ^ 32 * (2 ^ 480 - 1))] (bankState 8 [(3, 256)]))
      (fun v x => storesDone v && x.a == 256 && flagTrap v.c.regs.fmask fOob == none && badWordIn v.b v.ownByte 572 4 == none) ∧
    -- trap
    Meets .vgat (w3 (V 1) (G 3) (V 2) Z .f32 512) (withV [(2, 64 + 2 ^ 32 * (2 ^ 480 - 1))] (bankState 8 [(3, 256)]))
      (fun v x => storesDone v && x.a == 256 && v.o.modBit 9) ∧
    -- misaligned
    Meets .vsca (w3 Z (G 3) (V 2) (V 1) .f32 0) (bankState 8 [(3, 255)])
      (fun _ x => x.a == 255) ∧
    -- scatter
    Meets .vsca (w3 Z (G 3) (V 2) (V 1) .f32 0) (withV [(1, 7 + 2 ^ 32 * 8), (2, 63 + 2 ^ 32 * 64 + 2 ^ 64 * (2 ^ 448 - 1))] (bankState 8 [(3, 256)]))
      (fun v x => x.a == 256 && flagTrap v.c.regs.fmask fOob == none) ∧
    -- vconf to P
    Meets .vconf (w3 (P 1) (V 2) Z Z .n32 0) (withV [(2, 7 + 2 ^ 32 * 3 + 2 ^ 64 * 7 + 2 ^ 96 * 7 + 2 ^ 128 * 3 + 2 ^ 160 * 9 + 2 ^ 192 * (2 ^ 320 - 1))] State.reset)
      (fun v _ => v.o.dst.reg == .p 1) ∧
    -- vconf to V
    Meets .vconf (w3 (V 1) (V 2) Z Z .n32 0) (withV [(2, 7 + 2 ^ 32 * 3 + 2 ^ 64 * 7 + 2 ^ 96 * 7 + 2 ^ 128 * 3 + 2 ^ 160 * 9 + 2 ^ 192 * (2 ^ 320 - 1))] State.reset)
      (fun v _ => v.o.dst.reg == .v 1) ∧
    -- visect lanes
    Meets .visect (w3 (P 1) (V 2) (V 3) Z .n32 0) (withV [(2, 2 ^ 32 * (2 ^ 480 - 1)), (3, 2 ^ 32 * (2 ^ 480 - 1))] State.reset)
      (fun v _ => v.o.modBits 0 2 == 0) ∧
    -- visect places
    Meets .visect (w3 (V 1) (V 2) (V 3) Z .n32 1) (withV [(2, 2 ^ 32 * (2 ^ 480 - 1)), (3, 2 ^ 32 * (2 ^ 480 - 1))] State.reset)
      (fun v _ => v.o.modBits 0 2 == 1) ∧
    -- visect advance
    Meets .visect (w3 (G 1) (V 2) (V 3) Z .n32 2) (withV [(2, 1 + 5 * 2 ^ 32 + 2 ^ 64 * (2 ^ 448 - 1)), (3, 3 + 2 ^ 32 * (2 ^ 480 - 1))] State.reset)
      (fun v _ => v.o.modBits 0 2 == 2) ∧
    -- visect none
    Meets .visect (w3 (G 1) (V 2) (V 3) Z .n32 2) (withV [(2, 2 ^ 512 - 1)] State.reset)
      (fun v _ => v.o.modBits 0 2 == 2) ∧
    -- vmask
    Meets .vmask (w3 (P 1) (G 3) (G 4) Z .f32 0) (withG [(3, 15), (4, 16)] State.reset)
      (fun _ x => x.a == 15) :=
  ⟨reads_of (by decide +kernel),
   reads_of (by decide +kernel),
   reads_of (by decide +kernel),
   reads_of (by decide +kernel),
   reads_of (by decide +kernel),
   reads_of (by decide +kernel),
   reads_of (by decide +kernel),
   reads_of (by decide +kernel),
   reads_of (by decide +kernel),
   reads_of (by decide +kernel),
   reads_of (by decide +kernel)⟩

theorem test_QueueResults :
    -- peek
    MeetsFired .qpeek (wi (G 1) Z 0) (queueState [tok (2 ^ 64 + 7)])
      (fun v _ => v.leftIn 0 == some [tok (2 ^ 64 + 7)]) ∧
    -- peek line
    MeetsFired .qpeek (wi (V 1) Z 0) (queueState [tok (2 ^ 64 + 7)])
      (fun v _ => v.leftIn 0 == some [tok (2 ^ 64 + 7)]) ∧
    -- peek sideband
    MeetsFired .qpeek (wi (G 1) Z 512) (queueState [tok 7])
      (fun v _ => v.leftIn 0 == some [tok 7] && bitOf (queueImm v.o) 9) ∧
    -- peek empty
    MeetsFired .qpeek (wi (G 1) Z 256) (queueState [])
      (fun v _ => v.leftIn 0 == some []) ∧
    -- peek waits
    MeetsFired .qpeek (wi (G 1) Z 0) (queueState [])
      (fun v _ => v.leftIn 0 == some []) ∧
    -- count
    MeetsFired .qcnt (wi (G 1) Z 0) (queueState [tok 1, tok 2])
      (fun _ _ => ((queueState [tok 1, tok 2]).qiTokens 0 0 0).isSome) ∧
    -- count none
    MeetsFired .qcnt (wi (G 1) Z 15) (queueState [tok 1, tok 2])
      (fun _ _ => ((queueState [tok 1, tok 2]).qiTokens 0 0 15).isNone) ∧
    -- room
    MeetsFired .qcnt (wi (G 1) Z 16) (queueState [])
      (fun v _ => bitsOf (queueImm v.o) 0 5 == 16) ∧
    -- drop
    MeetsFired .qdrop (wi (G 1) Z (3 * 4096)) (queueState [tok 1, tok 2, mark 0])
      (fun v _ => (v.leftIn 0).isSome && bitsOf (queueImm v.o) 12 9 == 3) ∧
    -- drop waits
    MeetsFired .qdrop (wi (G 1) Z (3 * 4096)) (queueState [tok 1, tok 2])
      (fun v _ => (v.leftIn 0).isSome && bitsOf (queueImm v.o) 12 9 == 3) ∧
    -- round
    MeetsFired .qwaitr (wi (G 1) Z 0) (queueState [tok 1, mark 0])
      (fun v _ => v.leftIn 0 == some [tok 1, mark 0] && v.round == 0) ∧
    -- round waits
    MeetsFired .qwaitr (wi (G 1) Z 0) (queueState [tok 1, mark 1])
      (fun v _ => v.leftIn 0 == some [tok 1, mark 1] && v.round == 0) ∧
    -- mark
    MeetsFired .qmark (w3 Z Z Z Z .i8 0) (queueState [mark 0])
      (fun v _ => v.leftIn 0 == some [mark 0] && v.round == 0 && (match (queueState [mark 0]).regionOf 0 with | some g => g.running.isNone | none => false)) ∧
    -- mark waits
    MeetsFired .qmark (w3 Z Z Z Z .i8 0) (queueState [tok 1])
      (fun v _ => v.leftIn 0 == some [tok 1]) ∧
    -- mark before turn
    MeetsFired .qmark (w3 Z Z Z Z .i8 0) ((queueState [mark 0]).modRegion 0 (fun g => { g with running := some 1, commits := 1 }))
      (fun v _ => (match ((queueState [mark 0]).modRegion 0 (fun g => { g with running := some 1, commits := 1 })).regionOf 0 with | some g => g.running == some 1 && v.round != g.commits % 4096 | none => false)) ∧
    -- poison
    MeetsFired .qpoison (w3 (QO 0) Z Z Z .i8 0) (queueState [])
      (fun v _ => v.o.dst.reg == .qo 0) ∧
    -- last
    MeetsFired .qlast (w3 (QO 0) (G 3) Z Z .i8 0) (withG [(3, 2 ^ 64 - 1)] (queueState []))
      (fun v _ => v.o.dst.reg == .qo 0 && v.o.a.reg == .g 3) ∧
    -- last line
    MeetsFired .qlast (w3 (QO 0) (V 3) Z Z .i8 0) (withV [(3, 2 ^ 512 - 1)] (queueState []))
      (fun v _ => v.o.dst.reg == .qo 0 && v.o.a.reg == .v 3) ∧
    -- in
    MeetsFired .qfmt (wi (G 1) Z 0) (queueState [])
      (fun v _ => (qiOf v.rts 0 0).isSome && ((queueState []).imageOf 0).isSome) ∧
    -- out
    MeetsFired .qfmt (wi (G 1) Z 16) (queueState [])
      (fun v _ => decide ((qoOf v.rts 0 0).length = 1) && ((queueState []).imageOf 0).isSome) ∧
    -- none in
    MeetsFired .qfmt (wi (G 1) Z 15) (queueState [])
      (fun v _ => (qiOf v.rts 0 15).isNone && ((queueState []).imageOf 0).isSome) ∧
    -- none out
    MeetsFired .qfmt (wi (G 1) Z 31) (queueState [])
      (fun v _ => decide (qoOf v.rts 0 15 = []) && ((queueState []).imageOf 0).isSome) ∧
    -- set
    MeetsFired .rateSet (wi Z (G 3) (15 + 256)) (withG [(3, 9)] State.reset)
      (fun v _ => bitsOf (queueImm v.o) 0 4 == 15) ∧
    -- read
    MeetsFired .rateRd (wi ⟨.g 1, true⟩ Z 31) (State.reset)
      (fun v _ => !acquireBefore v && v.c.acquires.isEmpty) ∧
    -- weight
    MeetsFired .rateW (w3 Z (G 3) Z Z .i8 2) (withG [(3, 9)] State.reset)
      (fun v _ => v.o.modBits 0 2 == 2) :=
  ⟨fires_of (by decide +kernel),
   fires_of (by decide +kernel),
   fires_of (by decide +kernel),
   fires_of (by decide +kernel),
   fires_of (by decide +kernel),
   fires_of (by decide +kernel),
   fires_of (by decide +kernel),
   fires_of (by decide +kernel),
   fires_of (by decide +kernel),
   fires_of (by decide +kernel),
   fires_of (by decide +kernel),
   fires_of (by decide +kernel),
   fires_of (by decide +kernel),
   fires_of (by decide +kernel),
   fires_of (by decide +kernel),
   fires_of (by decide +kernel),
   fires_of (by decide +kernel),
   fires_of (by decide +kernel),
   fires_of (by decide +kernel),
   fires_of (by decide +kernel),
   fires_of (by decide +kernel),
   fires_of (by decide +kernel),
   fires_of (by decide +kernel),
   fires_of (by decide +kernel),
   fires_of (by decide +kernel)⟩

theorem test_MatrixOperationResults :
    -- zero
    MeetsFired .mxZero (wi Z Z (1 * 2 ^ 23)) ({ mxState with my := { mxState.my with cur := { mxState.my.cur with immHi := some 0x30007 } } })
      (fun _ _ => true) ∧
    -- field
    MeetsFired .mxMma (wi Z Z (1 * 2 ^ 19 + 2 ^ 14 + 8 * 2 ^ 10 + 2 ^ 7 + 2 ^ 4 + 3)) (mxState)
      (fun v _ => v.o.a == Z && v.o.dst.reg == .g 0) ∧
    -- replaced
    MeetsFired .mxImma (wi Z Z (1 * 2 ^ 19 + 3)) ((mxState).modCtx 0 0 (fun c => c.modRegs (fun r => { r with ovr := 8 })))
      (fun v _ => bitOf v.c.regs.ovr.toNat 3 && bitsOf (immValue ((mxState).modCtx 0 0 (fun c => c.modRegs (fun r => { r with ovr := 8 }))).my.cur v.o) 0 2 == 3) ∧
    -- last lines
    MeetsFired .mxDrain (wi Z (G 3) 0) (withG [(3, 0)] mxState)
      (fun v x => v.o.a != Z && v.o.dst.reg == .g 0 && x.a + 512 == ((withG [(3, 0)] mxState).window 0 0).2) ∧
    -- misaligned
    MeetsFired .mxFill (wi Z (G 3) 0) (withG [(3, 63)] mxState)
      (fun v x => v.o.a != Z && v.o.dst.reg == .g 0 && x.a % 64 == 63) ∧
    -- out of range
    MeetsFired .mxDrain (wi Z (G 3) 0) (withG [(3, 64)] mxState)
      (fun v x => v.o.a != Z && v.o.dst.reg == .g 0 && x.a == 64) ∧
    -- forwarded
    MeetsFired .mxZero (wi (QO 0) Z 0) (queueState [])
      (fun v _ => v.o.dst.reg == .qo 0) ∧
    -- token
    MeetsFired .mxZeroToken (w3 Z (G 3) Z Z .i8 0) (withG [(3, mxWord 2 0 0 0 0)] mxState)
      (fun _ x => tokenCheck (withG [(3, mxWord 2 0 0 0 0)] mxState) 0 0 .mxZeroToken x.a false == none) ∧
    -- bad token
    MeetsFired .mxMmaToken (w3 Z (G 3) Z Z .i8 0) (withG [(3, mxWord 2 0 0 0 0)] mxState)
      (fun _ x => tokenCheck (withG [(3, mxWord 2 0 0 0 0)] mxState) 0 0 .mxMmaToken x.a false == some 1) ∧
    -- forwarded token
    MeetsFired .mxDrainToken (w3 (QO 0) (G 3) Z Z .i8 0) (withG [(3, 2 ^ 64 - 1)] (queueState []))
      (fun v x => x.a == 2 ^ 64 - 1 && v.o.dst.reg == .qo 0) ∧
    -- push raw
    MeetsFired .rgPush (w3 Z (V 2) Z Z .i8 3) (withV [(2, 9)] mxState)
      (fun v _ => v.o.b == Z) ∧
    -- push
    MeetsFired .rgPush (w3 Z (V 2) (G 3) Z .i8 1) (withG [(3, 0x38)] (withV [(2, 9)] mxState))
      (fun v _ => v.o.b != Z) ∧
    -- info
    MeetsFired .rgInfo (w3 (G 1) Z Z Z .i8 1) (withNode (fun n => { n with rings := n.rings.set 1 ⟨8, 12, 4⟩ }) mxState)
      (fun _ _ => true) ∧
    -- reset
    MeetsFired .rgReset (w3 Z Z Z Z .i8 1) (mxState)
      (fun _ _ => true) ∧
    -- wait
    MeetsFired .mxWait (w3 Z Z Z Z .i8 2) (withNode (fun n => { n with inbox := [⟨mxTok (mxWord 2 0 0 0 0), none⟩] }) mxState)
      (fun v _ => v.o.modBits 0 8 == 2 && v.b.node.started.isEmpty && v.b.node.inbox.all (fun t => t.tok.z == 0)) ∧
    -- wait waits
    MeetsFired .mxWait (w3 Z Z Z Z .i8 1) (withNode (fun n => { n with inbox := [⟨mxTok (mxWord 2 0 0 0 0), none⟩] }) mxState)
      (fun v _ => v.b.node.inbox.any (fun t => t.tok.z == 0)) ∧
    -- tag
    MeetsFired .mxTag (w3 (G 1) Z Z Z .i8 1) (withNode (fun n => { n with inbox := [⟨mxTok (mxWord 2 1 0 0 0), none⟩], tiles := n.tiles.set 1 { Tile.zero with tag := 77, seq := 3, failed := true } }) mxState)
      (fun _ _ => true) :=
  ⟨fires_of (by decide +kernel),
   fires_of (by decide +kernel),
   fires_of (by decide +kernel),
   fires_of (by decide +kernel),
   fires_of (by decide +kernel),
   fires_of (by decide +kernel),
   fires_of (by decide +kernel),
   fires_of (by decide +kernel),
   fires_of (by decide +kernel),
   fires_of (by decide +kernel),
   fires_of (by decide +kernel),
   fires_of (by decide +kernel),
   fires_of (by decide +kernel),
   fires_of (by decide +kernel),
   fires_of (by decide +kernel),
   fires_of (by decide +kernel),
   fires_of (by decide +kernel)⟩

theorem test_MatrixNodeSteps :
    -- start
    (fun (st_ : State) => (match (st_.bu 0).node.inbox with | [x] => x.gated.isNone && (ringsOf (st_.mxCfg 0) x.tok).isEmpty | _ => false) && (st_.bu 0).node.started.isEmpty && (st_.bu 0).frozen.isEmpty) (withA (arg 0 0) (withNode (fun n => { n with inbox := [⟨mxTok (mxWord 2 0 0 0 0), none⟩] }) mxState)) = true ∧
    -- gated
    (fun (st_ : State) => (match (st_.bu 0).node.inbox with | [x] => x.gated == some 3 | _ => false) && (st_.bu 0).frozen.isEmpty) (withA (arg 0 0) (withNode (fun n => { n with inbox := [⟨mxTok (mxWord 2 0 0 0 0), some 3⟩] }) mxState)) = true ∧
    -- zero
    (fun (st_ : State) => (match (st_.bu 0).node.started with | [x] => x.bad.isNone && x.rnsMode != 7 && retireReady st_ 0 x && x.tok.kind == 2 && x.tok.rows == 2 && x.tok.cols == 2 | _ => false) && (st_.bu 0).node.tiles[0].z.length == 64) (startedState (begun (mxWord 2 0 0 0 (1 * 2 ^ 39 + 2 ^ 36 + 77 * 2 ^ 16)))) = true ∧
    -- drain waits
    (fun (st_ : State) => (match (st_.bu 0).node.started with | [x] => !retireReady st_ 0 x && x.tok.kind == 3 | _ => false)) (withNode (fun n => { n with rings := n.rings.set 0 ⟨0, 0, 9⟩ }) (startedState (begun (mxWord 3 0 0 0 (7 * 2 ^ 39 + 7 * 2 ^ 36))))) = true ∧
    -- drain
    (fun (st_ : State) => (match (st_.bu 0).node.started with | [x] => retireReady st_ 0 x && x.tok.kind == 3 && !x.tok.acc | _ => false)) (startedState (begun (mxWord 3 0 0 0 (7 * 2 ^ 39 + 7 * 2 ^ 36)))) = true ∧
    -- fill
    (fun (st_ : State) => (match (st_.bu 0).node.started with | [x] => retireReady st_ 0 x && x.tok.kind == 4 && !x.tok.keepB && !zRns (st_.mxCfg 0) x.tok.z && x.rowsA.length == 8 | _ => false)) (startedState { begun (mxWord 4 0 0 0 (7 * 2 ^ 39 + 7 * 2 ^ 36)) with rowsA := List.replicate 8 (5 + 9 * 2 ^ 224, 0) }) = true ∧
    -- imma
    (fun (st_ : State) => (match (st_.bu 0).node.started with | [x] => retireReady st_ 0 x && x.tok.kind == 1 && !x.tok.acc && x.rowsA.length == x.tok.rows && x.rowsB.length == x.tok.cols | _ => false) && (injection (st_.bu 0)).isNone) (startedState { begun (mxWord 1 1 0 1 (0)) with rowsA := [(0xFE, 0)], rowsB := [(0x03, 0)] }) = true ∧
    -- order in inbox
    (fun (st_ : State) => (match (st_.bu 0).node.inbox with | [x, y] => x.gated.isNone && y.gated.isNone && x.tok.z != y.tok.z | _ => false) && (st_.bu 0).node.started.isEmpty && (st_.bu 0).frozen.isEmpty) (withA (arg 0 1) (withNode (fun n => { n with inbox := [⟨mxTok (mxWord 2 0 0 0 0), none⟩, ⟨mxTok (mxWord 2 1 0 0 0), none⟩] }) mxState)) = true ∧
    -- start reads
    (fun (st_ : State) => (match (st_.bu 0).node.inbox with | [x] => x.tok.kind == 0 && x.tok.rows == 1 && (ringsOf (st_.mxCfg 0) x.tok).all (fun r => 8 ≤ (st_.bu 0).ringCount r) | _ => false)) (withA (arg 0 0) (withNode (fun n => { n with inbox := [⟨mxTok (mxWord 0 0 0 1 0), none⟩], rings := (n.rings.set 0 ⟨15, 7, 8⟩).set 1 ⟨0, 8, 8⟩ }) (mxState.modBu 0 (fun b => { b with bank := Memory.writeBytes (ringEntryAddr ((mxState.ringOf 0 0).1) 15) [9] b.bank })))) = true ∧
    -- mma
    (fun (st_ : State) => (match (st_.bu 0).node.started with | [x] => retireReady st_ 0 x && x.tok.kind == 0 && !x.tok.acc && x.rowsA.length == x.tok.rows && x.rowsB.length == x.tok.cols | _ => false) && !st_.my.arg.flag) (startedState { begun (mxWord 0 0 0 1 0) with rowsA := [(0x3F80, 0)], rowsB := [(0x4000, 0)] }) = true ∧
    -- imma spills
    (fun (st_ : State) => (match (st_.bu 0).node.started with | [x] => retireReady st_ 0 x && x.tok.kind == 1 && x.guardOn && x.rowsA.length == x.tok.rows | _ => false)) (withNode (fun n => { n with tiles := n.tiles.set 1 { n.tiles[1] with guard := 2 ^ 32 - 1 } }) (startedState { begun (mxWord 1 1 0 1 (2 ^ 15)) with rowsA := [(0xFE, 0)], rowsB := [(0x03, 0)], guardOn := true })) = true ∧
    -- reverse
    (fun (st_ : State) => (match (st_.bu 0).node.started with | [x] => retireReady st_ 0 x && x.tok.kind == 5 && (retired true x none ((st_.bu 0).node.tiles[1])).fixed == List.replicate 64 1 | _ => false)) ((fun s => withNode (fun n => { n with tiles := n.tiles.set 1 { n.tiles[1] with z := List.replicate 64 (BitVec.ofNat 64 (packResidues (residuesOf (-7)) ^^^ 2 ^ 8)) } }) s) (startedState (begun (mxWord 5 1 0 0 0)))) = true ∧
    -- fails
    (fun (st_ : State) => (match (st_.bu 0).node.started with | [x] => retireReady st_ 0 x && x.tok.kind == 5 && x.rnsMode == 7 | _ => false)) (startedState { begun (mxWord 5 1 0 0 (77 * 2 ^ 16)) with rnsMode := 7 }) = true ∧
    -- check failure
    (fun (st_ : State) => (match (st_.bu 0).node.started with | [x] => x.tok.kind == 1 && x.rnsMode != 7 && x.bad.isNone && !(callRollback st_ 0 (st_.tagRound 0 0 0)).1 | _ => false) && st_.my.arg.flag) ((fun s => withA { arg 0 with flag := true } s) (startedState { begun (mxWord 1 1 0 1 (77 * 2 ^ 16)) with rowsA := [(1, 0)], rowsB := [(1, 0)] })) = true ∧
    -- drain to bank
    (fun (st_ : State) => (match (st_.bu 0).node.started with | [x] => retireReady st_ 0 x && x.tok.kind == 3 && x.tok.bankOff == some 1024 | _ => false)) (startedState { begun 0 with tok := { mxTok (mxWord 3 0 0 0 (7 * 2 ^ 39 + 7 * 2 ^ 36)) with bankOff := some 1024 } }) = true ∧
    -- pops
    (fun (st_ : State) => (match (st_.bu 0).node.started with | [x] => retireReady st_ 0 x && x.tok.kind == 0 && !x.tok.keepA && !x.tok.keepB | _ => false)) (withNode (fun n => { n with rings := (n.rings.set 0 ⟨8, 0, 16⟩).set 1 ⟨0, 8, 8⟩ }) (startedState { begun (mxWord 0 0 0 1 0) with rowsA := [(0, 0)], rowsB := [(0, 0)] })) = true :=
  ⟨by decide +kernel,
   by decide +kernel,
   by decide +kernel,
   by decide +kernel,
   by decide +kernel,
   by decide +kernel,
   by decide +kernel,
   by decide +kernel,
   by decide +kernel,
   by decide +kernel,
   by decide +kernel,
   by decide +kernel,
   by decide +kernel,
   by decide +kernel,
   by decide +kernel,
   by decide +kernel⟩

theorem test_EventResultsAndSteps :
    -- loop 0
    MeetsFired .evLoop (w3 Z (G 3) (G 4) (G 6) .i8 0) (withG [(3, 1), (4, 5)] State.reset)
      (fun _ x => signedOf 32 x.c == 0) ∧
    -- loop up
    MeetsFired .evLoop (w3 Z (G 3) (G 4) (G 6) .i8 (3 + 16 * 5)) (withG [(3, 2 ^ 32 - 1), (4, 6), (6, 2)] State.reset)
      (fun _ x => decide ((4 : Int) = max 0 ⌈((signedOf 32 x.b - signedOf 32 x.a : Int) : Rat) / (signedOf 32 x.c : Rat)⌉) && signedOf 32 x.c == 2) ∧
    -- loop down
    MeetsFired .evLoop (w3 Z (G 3) (G 4) (G 6) .i8 0) (withG [(3, 9), (4, 2 ^ 32 - 1), (6, 2 ^ 32 - 3)] State.reset)
      (fun _ x => decide ((4 : Int) = max 0 ⌈((signedOf 32 x.a - signedOf 32 x.b : Int) : Rat) / (-signedOf 32 x.c : Rat)⌉) && signedOf 32 x.c == -3) ∧
    -- pulse
    MeetsFired .evPulse (w3 Z Z Z Z .i8 5) (State.reset)
      (fun _ _ => true) ∧
    -- arm
    MeetsFired .evArm (w3 Z (G 3) Z Z .i8 (7 + 8 * 3 + 32)) (withG [(3, 0x1FFFF)] State.reset)
      (fun _ _ => true) ∧
    -- read
    MeetsFired .evRd (w3 (G 1) Z Z Z .i8 3) (withEv (fun e => { e with ctrs := e.ctrs.set 3 ⟨5, 4, 1, 0, []⟩ }) State.reset)
      (fun v _ => !v.o.modBit 4) ∧
    -- read target
    MeetsFired .evRd (w3 (G 1) Z Z Z .i8 19) (withEv (fun e => { e with tgts := e.tgts.set 3 { masks := Vector.replicate 4 0, latches := Vector.replicate 4 0, pend := 255, lost := true } }) State.reset)
      (fun v _ => v.o.modBit 4) ∧
    -- wait
    MeetsFired .evWait (w3 Z Z Z Z .i8 0) (State.reset)
      (fun v _ => v.b.ev.ctrs[0].rem == 0) ∧
    -- wait waits
    MeetsFired .evWait (w3 Z Z Z Z .i8 3) (withEv (fun e => { e with ctrs := e.ctrs.set 3 ⟨5, 1, 1, 0, []⟩ }) State.reset)
      (fun v _ => v.b.ev.ctrs[3].rem == 1) ∧
    -- tick
    (fun (st_ : State) => !(st_.bu 0).ev.complete && (st_.bu 0).ev.ctrs[2].rem == 2 && (st_.bu 0).ev.ctrs[1].rem == 1 && (st_.bu 0).ev.ctrs[2].src == 5) (withA (arg 0) (withEv (fun e => { e with pulses := [(5, .node 0, [])], ctrs := (e.ctrs.set 2 ⟨10, 2, 3, 5, []⟩).set 1 ⟨10, 1, 3, 5, []⟩ }) State.reset)) = true ∧
    -- fire
    (fun (st_ : State) => (st_.bu 0).ev.tgts[3].termDone 1 && (st_.bu 0).node.inbox.isEmpty) (withA (arg 0) (withEv (fun e => { e with tgts := e.tgts.set 3 { masks := (Vector.replicate 4 0).set 1 6, latches := (Vector.replicate 4 0).set 1 6, pend := 255, lost := false } }) State.reset)) = true ∧
    -- source
    (fun (st_ : State) => (st_.bu 0).ev.sQueue == [3, 1]) (withA (arg 0) (withEv (fun e => { e with sQueue := [3, 1] }) State.reset)) = true ∧
    -- one pulse a source
    (fun (st_ : State) => !(st_.bu 0).ev.complete && (st_.bu 0).node.inbox.isEmpty) (withA (arg 0) (withEv (fun e => { e with pulses := [(5, .node 0, []), (5, .node 1, []), (6, .node 0, [])], ctrs := e.ctrs.set 2 ⟨10, 2, 3, 5, []⟩, tgts := e.tgts.set 3 { masks := (Vector.replicate 4 0).set 1 4, latches := Vector.replicate 4 0, pend := 0, lost := false } }) State.reset)) = true ∧
    -- complete waits
    (fun (st_ : State) => (st_.bu 0).ev.complete) (withA (arg 0) (withEv (fun e => { e with pulses := [(5, .node 0, [])], tgts := e.tgts.set 3 { masks := (Vector.replicate 4 0).set 1 6, latches := (Vector.replicate 4 0).set 1 6, pend := 0, lost := false } }) State.reset)) = true ∧
    -- opens a gate
    (fun (st_ : State) => (st_.bu 0).node.inbox.length ≤ 16 && (st_.bu 0).ev.tgts.toList.all (fun t => t.pend ≤ 255)) (withA (arg 0) (withEv (fun e => { e with tgts := e.tgts.set 3 { masks := (Vector.replicate 4 0).set 1 6, latches := (Vector.replicate 4 0).set 1 6, pend := 0, lost := false } }) (withNode (fun n => { n with inbox := [⟨mxTok (mxWord 2 0 0 0 0), some 3⟩, ⟨mxTok (mxWord 2 1 0 0 0), some 3⟩] }) State.reset))) = true ∧
    -- starts a stream
    (fun (st_ : State) => (st_.strmProg 0 0).mode != 0 && (st_.strmProg 0 0).trig == 1 && (st_.strmProg 0 0).st == 3 && (st_.strm 0 0).pend == 254) (withEv (fun e => { e with tgts := e.tgts.set 3 { masks := ((Vector.replicate 4 0).set 1 6).set 2 8, latches := ((Vector.replicate 4 0).set 1 6).set 2 8, pend := 0, lost := false } }) (strmState [1 + 2 ^ 12 + 3 * 2 ^ 15, 0, 0, 64] (fun x => { x with pend := 254 }))) = true :=
  ⟨fires_of (by decide +kernel),
   fires_of (by decide +kernel),
   fires_of (by decide +kernel),
   fires_of (by decide +kernel),
   fires_of (by decide +kernel),
   fires_of (by decide +kernel),
   fires_of (by decide +kernel),
   fires_of (by decide +kernel),
   fires_of (by decide +kernel),
   by decide +kernel,
   by decide +kernel,
   by decide +kernel,
   by decide +kernel,
   by decide +kernel,
   by decide +kernel,
   by decide +kernel⟩

theorem test_SpecialRegisterResults :
    -- read
    MeetsFired .sprRd (wi (G 1) Z 4) ((State.reset : State).modCtx 0 0 (fun c => c.modRegs (fun r => { r with ovr := 9 })))
      (fun _ _ => true) ∧
    -- read other
    MeetsFired .sprRd (wi (G 1) Z (4 + 2 ^ 13 + 2 ^ 15)) (((State.reset : State).modCtx 0 1 (fun c => c.modRegs (fun r => { r with ovr := 9 }))))
      (fun _ _ => true) ∧
    -- write
    MeetsFired .sprWr (wi Z (G 3) 5) (withG [(3, 2 ^ 64 - 1)] State.reset)
      (fun _ _ => true) ∧
    -- freeze
    MeetsFired .frz (w3 Z Z Z Z .i8 2) (State.reset)
      (fun _ _ => true) ∧
    -- thaw
    MeetsFired .thaw (w3 Z Z Z Z .i8 1) (State.reset)
      (fun _ _ => true) ∧
    -- deg
    MeetsFired .mxDeg (w3 Z Z Z Z .i8 5) (State.reset)
      (fun _ _ => true) ∧
    -- inject
    MeetsFired .rnsInj (wi Z Z 0xFFFFF) ((State.reset : State).modOut (fun u => { u with testMode := true }))
      (fun _ _ => ((State.reset : State).modOut (fun u => { u with testMode := true })).out.testMode) ∧
    -- no test mode
    MeetsFired .rnsInj (wi Z Z 0xFFFFF) (State.reset)
      (fun _ _ => !(State.reset).out.testMode) ∧
    -- commit
    (fun (st_ : State) => (st_.ctx 0 1).wmin ≤ (st_.ctx 0 1).wmax && (st_.ctx 0 1).wmax ≤ 255) (State.reset) = true ∧
    -- commit other
    (fun (st_ : State) => (st_.ctx 0 2).st != .faulted) (State.reset) = true ∧
    -- split
    (fun (st_ : State) => true) (State.reset) = true :=
  ⟨fires_of (by decide +kernel),
   fires_of (by decide +kernel),
   fires_of (by decide +kernel),
   fires_of (by decide +kernel),
   fires_of (by decide +kernel),
   fires_of (by decide +kernel),
   fires_of (by decide +kernel),
   fires_of (by decide +kernel),
   by decide +kernel,
   by decide +kernel,
   by decide +kernel⟩

theorem test_RequestResults :
    -- plain
    MeetsFired .fwcallId (w3 (G 1) Z Z Z .i8 0) (State.reset)
      (fun _ _ => isPlain .fwcallId) ∧
    -- sync
    MeetsFired .cntAdd (w3 Z (G 2) (G 5) Z .i8 4) (withG [(2, 1), (5, 2)] State.reset)
      (fun v _ => isPlainSync .cntAdd && v.o.modBits 0 3 == 4) ∧
    -- message
    MeetsFired .msg (w3 Z (G 2) (V 5) Z .i8 1) (withG [(2, 2 ^ 32 + 7)] State.reset)
      (fun _ x => x.a == 2 ^ 32 + 7) ∧
    -- handle
    MeetsFired .hbSet (w3 Z (G 2) Z Z .i8 (128 + 16 * 3)) (withG [(2, 2 ^ 32 + 7)] State.reset)
      (fun v _ => handleSync .hbSet v.o == some 4) ∧
    -- allocate
    MeetsFired .hbAlloc (w3 (G 1) (G 2) (G 5) Z .i8 0) (State.reset)
      (fun v _ => v.o.c == Z) ∧
    -- step
    MeetsFired .cstep (w3 Z Z Z Z .i8 0) (State.reset)
      (fun _ _ => true) ∧
    -- step to
    MeetsFired .cstepTo (w3 Z (G 3) Z Z .i8 1) (withG [(3, 259)] State.reset)
      (fun _ x => x.a == 259) ∧
    -- device
    MeetsFired .cas2 (w3 (V 1) (G 3) Z (V 2) .n64 512) (withG [(3, 16)] State.reset)
      (fun v x => v.o.modBit 9 && x.a == 16) ∧
    -- device misaligned
    MeetsFired .cas2 (w3 (V 1) (G 3) Z (V 2) .n64 512) (withG [(3, 8)] State.reset)
      (fun v x => v.o.modBit 9 && x.a == 8) ∧
    -- bank last
    MeetsFired .atom (w3 (G 1) (G 3) Z (G 4) .i32 2) (withG [(3, 508)] mxState)
      (fun v x => !v.o.modBit 9 && x.a + 4 == ((withG [(3, 508)] mxState).window 0 0).2) ∧
    -- bank misaligned
    MeetsFired .barWait (w3 Z (G 3) Z Z .i8 0) (withG [(3, 8)] mxState)
      (fun v x => !v.o.modBit 9 && x.a == 8) ∧
    -- bank out of range
    MeetsFired .red (w3 Z (G 3) Z (G 4) .i32 0) (withG [(3, 512)] mxState)
      (fun v x => !v.o.modBit 9 && x.a == 512) ∧
    -- read misaligned
    MeetsFired .ldm (w3 ⟨.g 1, true⟩ (G 3) Z Z .i64 0) (withG [(3, 4)] State.reset)
      (fun _ x => x.a == 4) ∧
    -- read sent
    MeetsFired .ldm (w3 ⟨.g 1, true⟩ (G 3) Z Z .i64 0xFF) (withG [(3, 4096)] State.reset)
      (fun v x => x.a == 4096 && !acquireBefore v) ∧
    -- write misaligned
    MeetsFired .stm (w3 Z (G 3) Z (G 4) .n16 0) (withG [(3, 1)] State.reset)
      (fun _ x => x.a == 1) ∧
    -- write
    MeetsFired .stm (w3 Z (G 3) Z (G 4) .n16 0x7F) (withG [(3, 0)] State.reset)
      (fun _ x => x.a == 0) ∧
    -- prefetch
    MeetsFired .prf (w3 Z (G 3) Z Z .i8 0xFF) (withG [(3, 0)] State.reset)
      (fun v x => x.a == 0 && !acquireBefore v) :=
  ⟨fires_of (by decide +kernel),
   fires_of (by decide +kernel),
   fires_of (by decide +kernel),
   fires_of (by decide +kernel),
   fires_of (by decide +kernel),
   fires_of (by decide +kernel),
   fires_of (by decide +kernel),
   fires_of (by decide +kernel),
   fires_of (by decide +kernel),
   fires_of (by decide +kernel),
   fires_of (by decide +kernel),
   fires_of (by decide +kernel),
   fires_of (by decide +kernel),
   fires_of (by decide +kernel),
   fires_of (by decide +kernel),
   fires_of (by decide +kernel),
   fires_of (by decide +kernel)⟩

theorem test_ControlResults :
    -- exit
    MeetsFired .exit (wi Z Z 5) (State.reset)
      (fun v _ => v.o.imm28 == some 5 && v.c.blk.fired == none) ∧
    -- exit if
    MeetsFired .exit (wi Z (P 1) (2 ^ 16 - 1 + 2 ^ 17)) (State.reset)
      (fun _ x => x.a % 2 == 0 && bitsOf (2 ^ 16 - 1 + 2 ^ 17) 16 2 == 2) ∧
    -- exit second
    MeetsFired .exit (wi Z Z 5) (withBlk (fun b => { b with running := true, fired := some (3, 3) }) State.reset)
      (fun v _ => v.c.blk.fired == some (3, 3)) ∧
    -- exit register
    MeetsFired .exitRegisterTarget (w3 Z Z (G 3) Z .i8 0) (withG [(3, 2 ^ 16 + 9)] State.reset)
      (fun v x => v.o.imm28 == none && x.b == 2 ^ 16 + 9) ∧
    -- call
    MeetsFired .call (wi Z Z 9) (withRegs (fun r => { r with depth := 7 }) State.reset)
      (fun v _ => v.c.blk.rider == none && decide (v.c.regs.depth < 8)) ∧
    -- call full
    MeetsFired .call (wi Z Z 9) (withRegs (fun r => { r with depth := 8 }) State.reset)
      (fun v _ => v.c.blk.rider == none && v.c.regs.depth == 8) ∧
    -- call second
    MeetsFired .callRegisterTarget (w3 Z Z (G 3) Z .i8 0) (withBlk (fun b => { b with running := true, rider := some .ret }) State.reset)
      (fun v _ => v.c.blk.rider == some .ret) ∧
    -- ret
    MeetsFired .ret (w3 Z Z Z Z .i8 0) (withRegs (fun r => { r with depth := 1 }) State.reset)
      (fun v _ => v.c.blk.rider == none && v.c.regs.depth == 1) ∧
    -- ret empty
    MeetsFired .ret (w3 Z Z Z Z .i8 0) (State.reset)
      (fun v _ => v.c.blk.rider == none && v.c.regs.depth == 0) ∧
    -- halt
    MeetsFired .halt (w3 Z Z Z Z .i8 0) (State.reset)
      (fun v _ => v.c.blk.rider == none) ∧
    -- halt second
    MeetsFired .halt (w3 Z Z Z Z .i8 0) (withBlk (fun b => { b with running := true, rider := some .halt }) State.reset)
      (fun v _ => v.c.blk.rider == some .halt) ∧
    -- yield
    MeetsFired .yield (w3 Z Z Z Z .i8 0) (State.reset)
      (fun _ _ => true) ∧
    -- goes by
    Meets .exit (wi Z (P 1) (5 + 2 ^ 16)) (placedState [] [] [0x3000000FF000000A, 0x3000000FF000000A])
      (fun v x => x.a % 2 == 0 && v.c.blk.fired == none && decide (∃ k, k < 2 ∧ (match v.instrs[k]? with | some i => i.row == some .exit | none => false) = true ∧ k ≠ 0)) ∧
    -- last exit
    Meets .exit (wi Z (P 1) (5 + 2 ^ 16)) (placedState [] [] [0x3000000FF000000A])
      (fun v x => x.a % 2 == 0 && v.c.blk.fired == none && decide (v.instrs.length ≤ 1)) :=
  ⟨fires_of (by decide +kernel),
   fires_of (by decide +kernel),
   fires_of (by decide +kernel),
   fires_of (by decide +kernel),
   fires_of (by decide +kernel),
   fires_of (by decide +kernel),
   fires_of (by decide +kernel),
   fires_of (by decide +kernel),
   fires_of (by decide +kernel),
   fires_of (by decide +kernel),
   fires_of (by decide +kernel),
   fires_of (by decide +kernel),
   reads_of (by decide +kernel),
   reads_of (by decide +kernel)⟩

theorem test_TrapResults :
    MeetsFired .trap (wi Z (P 0) (0xFFFF + 2 ^ 16)) (State.reset)
      (fun v x => v.o.imm28 == some (0xFFFF + 2 ^ 16) && x.a % 2 == 1) ∧
    -- break
    MeetsFired .brk (wi Z Z 0) (State.reset)
      (fun v _ => v.o.imm28 == some 0) :=
  ⟨fires_of (by decide +kernel),
   fires_of (by decide +kernel)⟩

theorem test_ReturnsAndRepeats :
    -- eret
    MeetsFired .eretPoison (w3 Z Z Z Z .i8 0) (State.reset)
      (fun v _ => v.c.blk.rider == none) ∧
    -- eret second
    MeetsFired .eretEsc (w3 Z Z Z Z .i8 0) (withBlk (fun b => { b with running := true, rider := some .halt }) State.reset)
      (fun v _ => v.c.blk.rider == some .halt) ∧
    -- eret goes by
    Meets .eretResume (onP 1 (w3 Z Z Z Z .i8 0)) (State.reset)
      (fun _ x => x.sel % 2 == 0) ∧
    -- rep
    Meets .rep (w3 Z (G 3) Z Z .i8 (16 + 8)) (withG [(3, 32)] (placedState [] [] [0x3500003000000018, 0x1D00000000060000]))
      (fun v x => x.sel % 2 == 1 && v.o.modBit 4 && x.a == 32 && (match v.instrs[1]? with | some t => t.row == some .mov | none => false)) ∧
    -- rep too far
    Meets .rep (w3 Z (G 3) Z Z .i8 (16 + 8)) (withG [(3, 33)] (placedState [] [] [0x3500003000000018, 0x1D00000000060000]))
      (fun v x => x.sel % 2 == 1 && v.o.modBit 4 && x.a == 33 && (match v.instrs[1]? with | some t => t.row == some .mov | none => false)) ∧
    -- rep immediate
    Meets .rep (w3 Z Z Z Z .i8 (32 * 7)) (placedState [] [] [0x35000000000000E0, 0x1D00000000060000])
      (fun v x => x.sel % 2 == 1 && !v.o.modBit 4 && v.o.modBits 5 6 == 7) :=
  ⟨fires_of (by decide +kernel),
   fires_of (by decide +kernel),
   reads_of (by decide +kernel),
   reads_of (by decide +kernel),
   reads_of (by decide +kernel),
   reads_of (by decide +kernel)⟩

theorem test_FenceResults :
    -- context
    MeetsFired .fence (w3 Z Z Z Z .i8 0) (State.reset)
      (fun _ _ => true) ∧
    -- release
    MeetsFired .fenceRls (w3 Z Z Z Z .i8 3) (State.reset)
      (fun _ _ => true) ∧
    -- acquire
    MeetsFired .fenceAcq (w3 Z Z Z Z .i8 1) (State.reset)
      (fun v _ => loadsServed v && !(State.reset).loadOut 0 0 v.c.blk) ∧
    -- full
    MeetsFired .fence (w3 Z Z Z Z .i8 4) (State.reset)
      (fun v _ => loadsServed v && !(State.reset).loadOut 0 0 v.c.blk && v.c.issued.isEmpty) ∧
    -- waits
    MeetsFired .fence (w3 Z Z Z Z .i8 4) (((State.reset : State).modCtx 0 0 (fun c => { c with issued := [7] })).modHub (fun h => { h with reqs := [{ id := 7, org := mxOrg, row := .stm, port := 0, a := 0, b := 0, c := 0, mod := 0, ty := .i8, rm := .rne, ovf := .sat, imm := false, dst := .none, committed := true, dead := false, stage := .sent, sync := 0, past := [], after := [], hold := [], flags := 0, begun := false, rel := [], obs := [] }] }))
      (fun _ _ => (((State.reset : State).modCtx 0 0 (fun c => { c with issued := [7] })).modHub (fun h => { h with reqs := [{ id := 7, org := mxOrg, row := .stm, port := 0, a := 0, b := 0, c := 0, mod := 0, ty := .i8, rm := .rne, ovf := .sat, imm := false, dst := .none, committed := true, dead := false, stage := .sent, sync := 0, past := [], after := [], hold := [], flags := 0, begun := false, rel := [], obs := [] }] })).outstanding 7) ∧
    -- waits for fill
    MeetsFired .fence (w3 Z Z Z Z .i8 4) ((State.reset : State).modBu 0 (fun b => { b with node := { b.node with inbox := [⟨{ mxTok (mxWord 4 0 0 0 0) with bankOff := some 0 }, none⟩] } }))
      (fun _ _ => (((State.reset : State).modBu 0 (fun b => { b with node := { b.node with inbox := [⟨{ mxTok (mxWord 4 0 0 0 0) with bankOff := some 0 }, none⟩] } })).bu 0).fillOut 0) ∧
    -- waits for acquire
    MeetsFired .fenceAcq (w3 Z Z Z Z .i8 1) ((State.reset : State).modCtx 0 0 (fun c => { c with acquires := [7] }))
      (fun v _ => v.c.acquires == [7]) :=
  ⟨fires_of (by decide +kernel),
   fires_of (by decide +kernel),
   fires_of (by decide +kernel),
   fires_of (by decide +kernel),
   fires_of (by decide +kernel),
   fires_of (by decide +kernel),
   fires_of (by decide +kernel)⟩

theorem test_StepRunsDecoded :
    -- operation
    (fun (st_ : State) => st_.wordAt ⟨0, 0, 0, 0, none⟩ == some 0x0104004FF0000001 && (st_.ctx 0 0).st == .active && decide (st_.my.issueQ = [⟨0, 0, 0, 0, none⟩]) && (match decodeWord 0x0104004FF0000001 with | .ok i => i.row == some .sub | _ => false)) (issued 0 [0x0104004FF0000001]) = true ∧
    -- event
    (fun (st_ : State) => st_.my.issueQ.isEmpty && decide (st_.my.agenda = [.event .evTick Arg.zero])) (evTurn .evTick Arg.zero State.reset) = true ∧
    -- command
    (fun (st_ : State) => st_.my.issueQ.isEmpty && st_.cmdReady && (match st_.fetchCommand with | .ok i => i.row == none | _ => false)) (cmdState [9]) = true :=
  ⟨by decide +kernel,
   by decide +kernel,
   by decide +kernel⟩

theorem test_StepsWithoutInstruction :
    -- no unit
    (fun (st_ : State) => decide (Config.bankUnits ≤ Config.bankUnits) && !st_.my.issueQ.isEmpty) ({ State.reset with my := { State.reset.my with issueQ := [⟨Config.bankUnits, 0, 0, 0, none⟩] } }) = true ∧
    -- stopped
    (fun (st_ : State) => (st_.ctx 0 0).st == .stopped) ((issued 0 [0x0104004FF0000001]).modCtx 0 0 (fun c => { c with st := .stopped })) = true ∧
    -- no word
    (fun (st_ : State) => st_.wordAt ⟨0, 0, 7, 0, none⟩ == none) (issued 7 [0x0104004FF0000001]) = true ∧
    -- no instruction
    (fun (st_ : State) => (match decodeWord (2 ^ 64 - 1) with | .error _ => true | _ => false) && st_.wordAt ⟨0, 0, 0, 0, none⟩ == some (2 ^ 64 - 1)) (issued 0 [2 ^ 64 - 1]) = true ∧
    -- no command
    (fun (st_ : State) => !st_.cmdReady && st_.my.issueQ.isEmpty) (cmdState []) = true ∧
    -- bad command
    (fun (st_ : State) => st_.cmdReady && (match st_.fetchCommand with | .error _ => true | _ => false)) (cmdState [0xFF]) = true :=
  ⟨by decide +kernel,
   by decide +kernel,
   by decide +kernel,
   by decide +kernel,
   by decide +kernel,
   by decide +kernel⟩

theorem test_OperationsHoldTheirEffects :
    (fun (st_ : State) => nxt (exec (.add (w3 (G 5) (G 3) (G 4) Z .i64 0)) st_) (fun _ => true)) (withG [(3, 1), (4, 2)] State.reset) = true :=
  by decide +kernel

theorem test_ExecutedElements :
    (fun (st_ : State) => (match (st_.ctx 0 0).blk.effs with | [x, y] => decide (x.1 < y.1) | _ => false) && (st_.ctx 0 0).blk.running) (withBlk (fun b => { b with running := true, effs := [(0, 0, .pop 0 1), (2, 0, .regG 3 9)] }) State.reset) = true :=
  by decide +kernel

theorem test_SourceReads :
    (fun (st_ : State) => (st_.ctx 0 0).regs.g[1].st == .pending 9 && (st_.ctx 0 0).regs.g[31].st == .failed && (st_.ctx 0 0).regs.v[7].st == .failed && (st_.ctx 0 0).blk.temps[15] == .full 9 && (st_.ctx 0 0).blk.temps[1] == .resolved && (st_.ctx 0 0).blk.temps[0] == .unwritten && (st_.ctx 0 0).regs.g[0].st == .full) ((State.reset : State).modCtx 0 0 (fun c => { c.modRegs (fun r => { r with g := (r.g.set 1 ⟨0, .pending 9⟩).set 31 ⟨0, .failed⟩, v := (r.v.set 1 ⟨0, .pending 9⟩).set 7 ⟨0, .failed⟩ }) with blk := { c.blk with running := true, temps := (c.blk.temps.set 1 .resolved).set 15 (.full 9) } })) = true ∧
    -- queue
    (fun (st_ : State) => (match st_.qiTokens 0 0 0 with | some (_, ts) => ts.isEmpty | none => false) && (popsBefore (seen st_ .add (w3 Z Z Z Z .i8 0)) 0).isSome) (queueState []) = true :=
  ⟨by decide +kernel,
   by decide +kernel⟩

theorem test_IssueAndFetch :
    -- issue
    (fun (st_ : State) => !(st_.bu 0).stopping && (List.range 5).all (fun k => (refetchBad st_ 0 k).isNone) && (readyOps ((tickBu (endCycle st_ 0) 0).modBu 0 (countSoft 0)) 0 4).isEmpty && candidates ((tickBu (endCycle st_ 0) 0).modBu 0 (countSoft 0)) 0 == [0]) (withA (arg 0) (placedState [] [] [0x3000000FF0000000])) = true ∧
    -- nothing
    (fun (st_ : State) => !(st_.bu 0).stopping && (readyOps ((tickBu (endCycle st_ 0) 0).modBu 0 (countSoft 0)) 0 4).isEmpty && (candidates ((tickBu (endCycle st_ 0) 0).modBu 0 (countSoft 0)) 0).isEmpty) (withA (arg 0) State.reset) = true ∧
    -- fetch
    (fun (st_ : State) => (st_.ctx 0 0).st == .fetch && (st_.block 0 0 0).isSome && (st_.ctx 0 0).regs.bc == 0 && st_.hub.badSlots.isEmpty) ((withA (arg 0 0) (placedState [] [] [0x3000000FF0000000])).modBu 0 (fun b => { b with fetches := [(0, 0)] }) |>.modCtx 0 0 (fun c => { c with st := .fetch })) = true ∧
    -- fetch bad
    (fun (st_ : State) => (st_.ctx 0 0).st == .fetch && (st_.block 0 0 0).isSome && st_.hub.badSlots.contains (st_.imageId 0, 0) && st_.hasHandler 0) (((withA (arg 0 0) handlerState).modBu 0 (fun b => { b with fetches := [(0, 0)] }) |>.modCtx 0 0 (fun c => { c with st := .fetch })).modHub (fun h => { h with badSlots := [(0, 0)] })) = true ∧
    -- stopping
    (fun (st_ : State) => (st_.bu 0).stopping) ((withA (arg 0) (placedState [] [] [0x3000000FF0000000])).modBu 0 (fun b => { b with stopping := true })) = true ∧
    -- handler first
    (fun (st_ : State) => !(st_.bu 0).stopping && !(readyOps ((tickBu (endCycle st_ 0) 0).modBu 0 (countSoft 0)) 0 4).isEmpty) (((withA (arg 0) handlerState).modCtx 0 4 (fun c => { c with st := .active }))) = true ∧
    -- replaces
    (fun (st_ : State) => (st_.ctx 0 0).st == .fetch && (st_.block 0 0 0).isSome && !st_.resident 0 0 0 && st_.hub.badSlots.isEmpty) ((withA (arg 0 0) (placedState [] [] [0x3000000FF0000000])).modBu 0 (fun b => { b with fetches := [(0, 0)], cache := [⟨0, 1, 5, 200, 9, false⟩, ⟨0, 1, 6, 200, 3, false⟩, ⟨0, 4, 0, 100, 0, true⟩, ⟨0, 1, 7, 12, 1, false⟩] }) |>.modCtx 0 0 (fun c => { c with st := .fetch })) = true ∧
    -- enters
    (fun (st_ : State) => st_.resident 0 0 (st_.ctx 0 0).regs.bc.toNat) ((placedState [] [] [0x3000000FF0000000]).modBu 0 (fun b => { b with cache := [⟨0, 0, 9, 1, 0, true⟩, ⟨0, 0, 0, 1, 0, false⟩, ⟨0, 4, 0, 1, 0, true⟩] })) = true :=
  ⟨by decide +kernel,
   by decide +kernel,
   by decide +kernel,
   by decide +kernel,
   by decide +kernel,
   by decide +kernel,
   by decide +kernel,
   by decide +kernel⟩

theorem test_BlockCommits :
    (fun (st_ : State) => commitReady st_ 0 0 && st_.resident 0 0 6 && (st_.ctx 0 0).blk.fired == some (0, 6) && !dualFault st_ 0 0) (doneState [.regG 3 9, .regV 1 7, .regP 2 5, .flags 4, .store 100 [1, 2]] 6) = true ∧
    -- call
    (fun (st_ : State) => commitReady st_ 0 0 && st_.resident 0 0 6 && (st_.ctx 0 0).blk.rider == some (.call 6)) (doneState [] 6 (fun b => { b with rider := some (.call 6) })) = true ∧
    -- ret
    (fun (st_ : State) => commitReady st_ 0 0 && (st_.ctx 0 0).blk.rider == some .ret && (st_.ctx 0 0).regs.stack[Fin.ofNat 8 7] == 6) (withRegs (fun r => { r with depth := 8, stack := r.stack.set 7 6 }) (doneState [] 6 (fun b => { b with rider := some .ret }))) = true ∧
    -- no exit
    (fun (st_ : State) => commitReady st_ 0 0 && (st_.ctx 0 0).blk.fired == none) (withBlk (fun b => { b with fired := none }) (doneState [])) = true ∧
    -- waits
    (fun (st_ : State) => !commitReady st_ 0 0) (withBlk (fun b => { b with done := [] }) (doneState [])) = true ∧
    -- rate
    (fun (st_ : State) => commitReady st_ 0 0 && rateFault (st_.bu 0) 0 (st_.ctx 0 0).blk == some 0) (doneState [.rateSet 0 6 (2 ^ 16)]) = true ∧
    -- order
    (fun (st_ : State) => commitReady st_ 0 0 && commitReady st_ 0 1) (withA (arg 0 1) ((doneState [] 6).modCtx 0 1 (fun c => { c with st := .active, blk := { Blk.idle with running := true, fired := some (0, 6) } }))) = true ∧
    -- late words
    (fun (st_ : State) => commitNow st_ 0 0 && st_.resident 0 0 6 && (st_.ctx 0 0).blk.fired == some (0, 6)) (doneState [.store 100 [1], .store 100 [2]] 6) = true :=
  ⟨by decide +kernel,
   by decide +kernel,
   by decide +kernel,
   by decide +kernel,
   by decide +kernel,
   by decide +kernel,
   by decide +kernel,
   by decide +kernel⟩

theorem test_TakingAFault :
    (fun (st_ : State) => st_.hasHandler 0) (handlerState) = true ∧
    -- no handler
    (fun (st_ : State) => !st_.hasHandler 0) (placedState [] [] []) = true ∧
    -- in handler
    (fun (st_ : State) => (match (st_.bu 0).hrun with | some h => h.slot < 4 && !h.async | none => false)) (handlerState.modBu 0 (fun b => { b with hrun := some ⟨testRec .bankAlign, 3, false⟩ })) = true ∧
    -- slot order
    (fun (st_ : State) => st_.hasHandler 0 && (match (st_.bu 0).hq ++ (st_.bu 0).faultWait with | [x] => !x.record.async && x.cycle == (st_.bu 0).cycle && x.slot == 3 | _ => false)) ((handlerState.raise 0 3 0 3 0 ⟨.bankAlign, 5, 6⟩)) = true :=
  ⟨by decide +kernel,
   by decide +kernel,
   by decide +kernel,
   by decide +kernel⟩

theorem test_HandlerRuns :
    -- start
    (fun (st_ : State) => (st_.bu 0).hrun.isNone && (st_.bu 0).cycle == 1 && st_.hasHandler 0 && (st_.block 0 4 0).isSome) (withA (arg 0) (handlerState.modBu 0 (fun b => { b with cycle := 1, hq := [⟨{ testRec .bankAlign with async := false }, 0, 0⟩] }))) = true ∧
    -- return
    (fun (st_ : State) => commitReady st_ 0 4 && (st_.ctx 0 4).blk.rider == some (.eret 0) && (st_.ctx 0 4).blk.effs.isEmpty && !blockNonrep st_ 0 4 && st_.resident 0 0 0) (withA (arg 0 4) (handlerState.modBu 0 (fun b => { b with hrun := some ⟨{ testRec .bankAlign with async := false }, 0, false⟩, cache := [⟨0, 0, 0, 1, 0, true⟩] }) |>.modCtx 0 4 (fun c => { c with st := .active, blk := { Blk.idle with running := true, done := [(0, 1)], fired := some (0, 0), rider := some (.eret 0) } }) |>.modCtx 0 0 (fun c => { c with st := .faulted }))) = true ∧
    -- escalate
    (fun (st_ : State) => commitReady st_ 0 4 && (st_.ctx 0 4).blk.rider == some (.eret 2)) (withA (arg 0 4) (handlerState.modBu 0 (fun b => { b with hrun := some ⟨{ testRec .bankAlign with async := false }, 0, false⟩ }) |>.modCtx 0 4 (fun c => { c with st := .active, blk := { Blk.idle with running := true, done := [(0, 1)], fired := some (0, 0), rider := some (.eret 2) } }) |>.modCtx 0 0 (fun c => { c with st := .faulted }))) = true ∧
    -- fault of this cycle
    (fun (st_ : State) => (st_.bu 0).hrun.isNone && st_.hasHandler 0 && (st_.block 0 4 0).isSome && (match (st_.bu 0).hq with | [q] => !q.record.async && q.cycle == (st_.bu 0).cycle | _ => false)) (withA (arg 0) (handlerState.modBu 0 (fun b => { b with hq := [⟨{ testRec .bankAlign with async := false }, 0, 0⟩] }))) = true :=
  ⟨by decide +kernel,
   by decide +kernel,
   by decide +kernel,
   by decide +kernel⟩

theorem test_RateClass :
    -- step
    (fun (st_ : State) => (st_.activeCtls 0).contains 0 && (st_.bu 0).frozen == [] && ((st_.bu 0).ctl 0).sample == some (0, 0, 0)) (ctlState { testCtl with sample := some (0, 0, 0) }) = true ∧
    -- held
    (fun (st_ : State) => (st_.activeCtls 0).contains 0 && ((st_.bu 0).ctl 0).sample == some (0, 1, 0)) (ctlState { testCtl with sample := some (0, 1, 0) }) = true ∧
    -- sampled
    (fun (st_ : State) => (st_.activeCtls 0).contains 0 && (st_.bu 0).frozen == [] && ((st_.bu 0).ctl 0).sample == none && decide (((st_.bu 0).ctl 0).running ≤ ((st_.bu 0).ctl 0).count + 1) && (match st_.producerOf 0 0 0 with | some (m, _) => m == 0 | none => false)) (ctlState { testCtl with count := 2 }) = true ∧
    -- frozen
    (fun (st_ : State) => (st_.bu 0).frozen == [.frz]) ((ctlState testCtl).modBu 0 (fun b => { b with frozen := [.frz] })) = true ∧
    -- early
    (fun (st_ : State) => ((st_.bu 0).ctl 0).sample == none) (ctlState testCtl) = true ∧
    -- applied
    (fun (st_ : State) => ((st_.bu 0).adjNow.filter (fun a => a.slot = 0)).length == 2 && (st_.ctx 0 0).wmin ≤ (st_.ctx 0 0).wmax) ((State.reset).modBu 0 (fun b => { b with adjNow := [⟨0, -300, 9, 5⟩, ⟨0, 1, 0, 0⟩] })) = true ∧
    -- no grant
    (fun (st_ : State) => (match st_.net.ctl with | [f] => (edgesBetween (buCol f.src) (buCol f.dest)).1 == [0] && st_.net.granted 0 0 true true == 0 | _ => false)) (withA (arg 7) { State.reset with net := { State.reset.net with ctl := [⟨7, 0, 6144, .rate 0 (-300) 0 0⟩], grants := [(3, 0)] } }) = true ∧
    -- adjustment
    (fun (st_ : State) => (match st_.net.ctl with | [f] => f.id == 7 && (edgesBetween (buCol f.src) (buCol f.dest)).1.isEmpty | _ => false)) (withA (arg 7) { State.reset with net := { State.reset.net with ctl := [⟨7, 0, 0, .rate 0 (-300) 0 0⟩] } }) = true ∧
    -- status
    (fun (st_ : State) => (match st_.net.ctl with | [f] => (edgesBetween (buCol f.src) (buCol f.dest)).1.isEmpty | _ => false)) (withA (arg 7) { State.reset with net := { State.reset.net with ctl := [⟨7, 0, 1, .status 5 3⟩] } }) = true ∧
    -- credit
    (fun (st_ : State) => (sendEntAt (st_.routes 0) 0).isSome) ((fun (s : State) => withA (arg 7) { s with net := { s.net with ctl := [⟨7, 0, 0, .credit 0 3⟩] } }) (queueState [] |>.modBu 0 (fun b => { b with credits := [(0, 2)] }))) = true ∧
    -- grant
    (fun (st_ : State) => st_.net.granted 0 63 false false + 8 ≤ 32 || st_.net.granted 0 63 false false == 32) (withA (arg 0 63) { State.reset with net := { State.reset.net with grants := [(0, 0)] } }) = true ∧
    -- boundary waiting
    (fun (st_ : State) => st_.net.granted 0 0 false false == 24 && st_.net.flits.countP (fun f => f.crossed && f.at_ == 95) == 1) ((fun (s : State) => withA (arg 0 0) { s with net := { s.net with grants := [(0, 24)], flits := s.net.flits.map (fun f => { f with crossed := true }) } }) (flitState 95 0)) = true ∧
    -- boundary drained
    (fun (st_ : State) => st_.net.granted 0 0 false false == 24 && st_.net.flits.countP (fun f => f.crossed && f.at_ == 95) == 0) ((fun (s : State) => withA (arg 0 0) { s with net := { s.net with grants := [(0, 24)] } }) (flitState 95 0)) = true :=
  ⟨by decide +kernel,
   by decide +kernel,
   by decide +kernel,
   by decide +kernel,
   by decide +kernel,
   by decide +kernel,
   by decide +kernel,
   by decide +kernel,
   by decide +kernel,
   by decide +kernel,
   by decide +kernel,
   by decide +kernel,
   by decide +kernel⟩

theorem test_TokenHops :
    -- hop
    (fun (st_ : State) => (match st_.net.flits with | [f] => canHop st_ f && mayHop st_ f && !tokenBad st_ false f 0 && f.at_ != f.dest | _ => false)) (flitState 1 0) = true ∧
    -- arrive
    (fun (st_ : State) => (match st_.net.flits with | [f] => canHop st_ f && mayHop st_ f && !tokenBad st_ false f 0 && f.at_ == f.dest && f.input.isNone | _ => false)) (flitState 0 0) = true ∧
    -- damaged
    (fun (st_ : State) => (match st_.net.flits with | [f] => mayHop st_ f && tokenBad st_ true f 0 && !(callRollback st_ 0 (st_.tagRound 0 0 0)).1 | _ => false)) (flitState 1 0 true) = true ∧
    -- older first
    (fun (st_ : State) => (match st_.net.flits with | [f, g] => canHop st_ f && canHop st_ g && g.age < f.age && g.at_ == f.at_ | _ => false)) ((fun (s : State) => { s with net := { s.net with flits := [⟨7, tok 9, 1, 0, 1, none, [], [], 7, false⟩, ⟨6, { tok 9 with route := 5 }, 1, 0, 3, none, [], [], 6, false⟩] } }) (flitState 1 0)) = true ∧
    -- edge
    (fun (st_ : State) => (match st_.net.flits with | [f] => canHop st_ f && mayHop st_ f && !tokenBad st_ false f 95 && (edgesBetween (buCol f.at_) (buCol 95)).1 == [0] | _ => false)) (flitState 6144 0) = true ∧
    -- no grant
    (fun (st_ : State) => st_.net.granted 0 0 false false == 0) ((fun (s : State) => { s with net := { s.net with grants := [(0, 0)] } }) (flitState 6144 0)) = true ∧
    -- poison ends
    (fun (st_ : State) => (match st_.net.flits with | [f] => mayHop st_ f && !(callRollback st_ 0 (st_.tagRound 0 0 0)).1 && f.at_ == f.dest && f.input.isNone | _ => false) && st_.my.arg.flag) (flitState 0 0 true) = true :=
  ⟨by decide +kernel,
   by decide +kernel,
   by decide +kernel,
   by decide +kernel,
   by decide +kernel,
   by decide +kernel,
   by decide +kernel⟩

theorem test_OperatorFirings :
    -- pass
    (fun (st_ : State) => (match st_.operEnt 0 0 with | some e => (match firing .passFiring e (st_.oper 0 0) with | some f => f.outs.all (fun x => 1 ≤ (st_.bu 0).room (outOf (st_.routes 0) x.1)) | none => false) | none => false)) (withA (arg 0 0) (operState 1 ⟨.loop, none, [tok 9], [], []⟩)) = true ∧
    -- waits
    (fun (st_ : State) => (match st_.operEnt 0 0 with | some e => (match firing .passFiring e (st_.oper 0 0) with | some f => f.outs.any (fun x => (st_.bu 0).room (outOf (st_.routes 0) x.1) == 0) | none => false) | none => false)) (withA (arg 0 0) (operState 1 ⟨.loop, none, [tok 9], [], []⟩ true)) = true ∧
    -- marker
    (fun (st_ : State) => (match st_.operEnt 0 0 with | some e => (firing .markerFiring e (st_.oper 0 0)).isSome | none => false)) (withA (arg 0 0) (operState 1 ⟨.loop, none, [mark 3], [], []⟩)) = true ∧
    -- frozen
    (fun (st_ : State) => (match st_.operEnt 0 0 with | some e => (firing .passFiring e (st_.oper 0 0)).isSome | none => false) && (st_.bu 0).frozen == [.frz]) ((withA (arg 0 0) (operState 1 ⟨.loop, none, [tok 9], [], []⟩)).modBu 0 (fun b => { b with frozen := [.frz] })) = true :=
  ⟨by decide +kernel,
   by decide +kernel,
   by decide +kernel,
   by decide +kernel⟩

theorem test_StreamRuns :
    -- begin
    (fun (st_ : State) => (match st_.strm 0 0 with | x => x.order == [3] && x.pend == 1 && x.run.isNone) && decide ((st_.bu 0).runs < 4) && (st_.bu 0).frozen.isEmpty) (strmState [1, 0, 0, 64] (fun x => { x with handle := 4099, pend := 1, order := [3] })) = true ∧
    -- end
    (fun (st_ : State) => (match (st_.strm 0 0).run with | some r => r.ended && r.todo.isEmpty && r.err.isNone | none => false) && !(st_.strmProg 0 0).mark && (st_.strmProg 0 0).pulse) (strmState [1 + 2 ^ 21, 0, 0, 64] (fun x => { x with handle := 4099, run := some { testRun with ended := true, flags := 4 } })) = true ∧
    -- fail
    (fun (st_ : State) => (match (st_.strm 0 0).run with | some r => r.err == some (Code.handle.num, 1, 2) | none => false)) (strmState [1, 0, 0, 64] (fun x => { x with handle := 4099, run := some { testRun with err := some (Code.handle.num, 1, 2) } })) = true ∧
    -- refill
    (fun (st_ : State) => decide ((st_.refills 0).countP (· < 0) < 64) && (match st_.dieWalk 0 1 0x10000 with | .ok _ => !st_.dying 1 0x10000 | .error _ => false) && st_.hJob (st_.jobOf 0) 4099 == 1) (strmState [1, 0, 0, 64] (fun x => { x with handle := 4099, run := some { testRun with refill := some (0x10000, 4099, 0) } })) = true ∧
    -- refill fails
    (fun (st_ : State) => (match st_.dieWalk 0 1 0x40000 with | .ok _ => false | .error c => c == .xlateMiss)) (strmState [1, 0, 0, 64] (fun x => { x with handle := 4099, run := some { testRun with refill := some (0x40000, 4099, 0) } })) = true ∧
    -- refill waits
    (fun (st_ : State) => !decide ((st_.refills 0).countP (· < 64) < 64)) ((fun (s : State) => (List.range 64).foldl (fun s i => s.modBu (2 + i / 16) (fun b => { b with strms := b.strms.set (Fin.ofNat 16 i) { b.strms[Fin.ofNat 16 i] with run := some { testRun with refill := some (0, 0, i) } } })) s) (strmState [1, 0, 0, 64] (fun x => { x with handle := 4099, run := some { testRun with refill := some (0x10000, 4099, 64) } }))) = true :=
  ⟨by decide +kernel,
   by decide +kernel,
   by decide +kernel,
   by decide +kernel,
   by decide +kernel,
   by decide +kernel⟩

theorem test_StreamRequests :
    -- line
    (fun (st_ : State) => st_.portTurn 0 0 && (match (st_.strm 0 0).run with | some r => r == testRun | none => false) && (st_.strmProg 0 0).mode == 1 && (st_.sv 0 0).w 3 == 64 && (match readBuffer st_ 0 0 4099 0 64 [] with | .ok bs _ => bs.length == 64 | _ => false) && (st_.sv 0 0).unit st_ == 64) (strmState [1, 0, 0, 64] (fun x => { x with handle := 4099, run := some testRun, trans := some ⟨1, 1, false, 0x60000, 0, 0, true, 4099⟩ })) = true ∧
    -- line refill
    (fun (st_ : State) => st_.portTurn 0 0 && (match readBuffer st_ 0 0 4099 0 64 [] with | .refill va _ => va == 0x10000 | _ => false)) (strmState [1, 0, 0, 64] (fun x => { x with handle := 4099, run := some testRun })) = true ∧
    -- line range
    (fun (st_ : State) => st_.portTurn 0 0 && (match readBuffer st_ 0 0 4099 4096 64 [] with | .err c a _ => c == .handleRange && a == 4096 | _ => false)) (strmState [1, 0, 4096, 64] (fun x => { x with handle := 4099, run := some testRun })) = true ∧
    -- give
    (fun (st_ : State) => (st_.sv 0 0).p.end_ == 0 && decide (0 < (st_.bu 0).room ((st_.sv 0 0).qo st_ 0))) (strmState [1, 0, 0, 64] (fun x => { x with handle := 4099, run := some { testRun with todo := [9], sbs := [0], ended := true } })) = true ∧
    -- give window
    (fun (st_ : State) => (st_.sv 0 0).p.end_ == 2 && inRange (st_.window 0 0) ((st_.sv 0 0).w 4) 64) (strmState [1 + 2 * 2 ^ 5, 0, 0, 64, 448] (fun x => { x with handle := 4099, run := some { testRun with todo := [9], sbs := [0], ended := true } })) = true ∧
    -- give window range
    (fun (st_ : State) => (st_.sv 0 0).p.end_ == 2 && !inRange (st_.window 0 0) ((st_.sv 0 0).w 4) 64) (strmState [1 + 2 * 2 ^ 5, 0, 0, 64, 512] (fun x => { x with handle := 4099, run := some { testRun with todo := [9], sbs := [0], ended := true } })) = true ∧
    -- take
    (fun (st_ : State) => (st_.sv 0 0).p.dir == 1 && (match (st_.sv 0 0).qi st_ with | some e => (st_.bu 0).queue e.entry == [tok 9] | none => false)) ((strmState [1 + 16, 0, 0, 64] (fun x => { x with handle := 4099, run := some testRun })).modBu 0 (fun b => { b with queues := [(1, [tok 9])] })) = true ∧
    -- take poison
    (fun (st_ : State) => (match (st_.sv 0 0).qi st_ with | some e => ((st_.bu 0).queue e.entry).map (·.kind) == [.poison] | none => false)) ((strmState [1 + 16, 0, 0, 64] (fun x => { x with handle := 4099, run := some testRun })).modBu 0 (fun b => { b with queues := [(1, [{ tok 0 with kind := .poison }])] })) = true ∧
    -- write
    (fun (st_ : State) => st_.portTurn 0 0 && (match writeBuffer st_ 0 0 4099 0 (st_.tagRound 0 0 0) false (List.replicate 64 7) with | .ok ids _ => ids.length == 1 | _ => false)) (strmState [1 + 16, 0, 0, 64] (fun x => { x with handle := 4099, run := some { testRun with got := List.replicate 64 7 }, trans := some ⟨1, 1, false, 0x60000, 0, 0, true, 4099⟩ })) = true ∧
    -- owner
    (fun (st_ : State) => bitOf (st_.strmWord 0 0 0 15) ((st_.bu 0).cycle % 64) && st_.wantsPort 0 0) ((strmState [1, 0, 0, 64, 0, 0, 0, 0, 0, 0, 0, 0, 0, 0, 0, 2 ^ 63] (fun x => { x with handle := 4099, run := some testRun })).modBu 0 (fun b => { b with cycle := 127 })) = true ∧
    -- port taken
    (fun (st_ : State) => !st_.portTurn 0 0) ((strmState [1, 0, 0, 64] (fun x => { x with handle := 4099, run := some testRun })).modBu 0 (fun b => { b with port := some b.cycle })) = true ∧
    -- ring
    (fun (st_ : State) => (st_.sv 0 0).p.end_ == 1 && decide ((st_.ringOf 0 1).2 < 1)) (strmState [1 + 2 ^ 5 + 2 ^ 7, 0, 0, 64] (fun x => { x with handle := 4099, run := some { testRun with todo := [9], sbs := [0], ended := true } })) = true ∧
    -- ring entry
    (fun (st_ : State) => (st_.sv 0 0).p.end_ == 1 && decide (1 ≤ (st_.ringOf 0 1).2) && !st_.ringHeld 0 1) ((fun (s : State) => { s with hub := { s.hub with images := s.hub.images.map (fun e => (e.1, { e.2 with frames := e.2.frames.map (fun d => if d.layout == 2 then { d with words := (List.range 64).map (fun i => if i = 0 then BitVec.ofNat 64 (1 + 8 * 2 ^ 16) else if i = 9 then BitVec.ofNat 64 (48 + 16 * 2 ^ 16) else 0) } else d) })) } }) (strmState [1 + 2 ^ 5 + 2 ^ 7, 0, 0, 64] (fun x => { x with handle := 4099, run := some { testRun with todo := [9], sbs := [5], ended := true } }))) = true :=
  ⟨by decide +kernel,
   by decide +kernel,
   by decide +kernel,
   by decide +kernel,
   by decide +kernel,
   by decide +kernel,
   by decide +kernel,
   by decide +kernel,
   by decide +kernel,
   by decide +kernel,
   by decide +kernel,
   by decide +kernel,
   by decide +kernel⟩

theorem test_DetachedResults :
    -- waits for full
    (fun (st_ : State) => served st_ && rowIs st_ .ldm) (reqState [{ rq .ldm (2 ^ 12 + 3) 0 0 0 with imm := false }] (jobState [(1, buf 1 1)])) = true ∧
    -- prefetch
    (fun (st_ : State) => served st_ && rowIs st_ .prf && decide ((rq .prf 0 0 0 0).org.bu < Config.bankUnits)) (reqState [rq .prf 0 0 0 0]) = true ∧
    -- filled
    (fun (st_ : State) => decide ((rq .cntRd 0 0 0 0).row.isVector = false) && (st_.ctx 0 0).st != .ending) (reqState [{ rq .cntRd 0 0 0 0 with stage := .replied 77, flags := 4 }] (withRegs (fun r => { r with g := r.g.set 1 ⟨0, .pending 7⟩ }) State.reset)) = true ∧
    -- early
    (fun (st_ : State) => true) (reqState [{ rq .cntRd 0 0 0 0 with stage := .replied 77, committed := false }]) = true ∧
    -- vector flag
    (fun (st_ : State) => (match st_.req 7 with | some q => trapOf st_ q == some 2 && q.row.isVector | none => false)) (reqState [{ rq .vsqrt 0 0 0 0 with stage := .replied 77, flags := 4, committed := false }] (withRegs (fun r => { r with fmask := 4 }) State.reset)) = true ∧
    -- failed
    (fun (st_ : State) => true) (reqState [{ rq .cntRd 0 0 0 0 with stage := .failed 5 6 7 }]) = true ∧
    -- failed posted
    (fun (st_ : State) => st_.hub.recs.isEmpty && (st_.ctx 0 0).st != .ending) (reqState [{ rq .cntRd 0 0 0 0 with stage := .failed 5 6 7, hold := [9] }] (withRegs (fun r => { r with g := r.g.set 1 ⟨0, .pending 7⟩ }) State.reset)) = true ∧
    -- read
    (fun (st_ : State) => served st_ && (match st_.req 7 with | some q => (match st_.hent q.org.job (st_.reqHandle q) with | .ok e => e.state == 2 && q.a + q.width ≤ e.size && st_.portTurn 0 q.stream && st_.walkerFree 0 q.stream && (match strmAccess (st_.usePort 0) 0 q.stream 1 (e.base + q.a) (st_.reqHandle q) false with | (.ok key, s1) => key == 0x60008 && !s1.ms.bad key q.width && s1.ms.readable q.party key q.width | _ => false) | .error _ => false) | none => false)) (onHandle 0 4099 (reqState [rq .ldm 8 0 0 0] (putNat 0x60008 8 (2 ^ 64 - 2) (jobState [(1, buf 1 2)])))) = true ∧
    -- read range
    (fun (st_ : State) => served st_ && (match st_.req 7 with | some q => (match st_.hent q.org.job (st_.reqHandle q) with | .ok e => e.state == 2 && e.size < q.a + q.width | .error _ => false) | none => false)) (onHandle 0 4099 (reqState [rq .ldm 4089 0 0 0] (jobState [(1, buf 1 2)]))) = true ∧
    -- read waits
    (fun (st_ : State) => served st_ && (match st_.hent 1 4099 with | .ok e => e.state < 2 | .error _ => false)) (onHandle 0 4099 (reqState [rq .ldm 8 0 0 0] (jobState [(1, buf 1 1)]))) = true ∧
    -- dead
    (fun (st_ : State) => (match st_.req 7 with | some q => q.dead | none => false)) (reqState [{ rq .cntRd 0 0 0 0 with stage := .replied 77, dead := true }]) = true ∧
    -- dead failure
    (fun (st_ : State) => (match st_.req 7 with | some q => q.dead | none => false)) (reqState [{ rq .cntRd 0 0 0 0 with stage := .failed 5 6 7, dead := true }]) = true ∧
    -- prefetch fills
    (fun (st_ : State) => served st_ && (match st_.req 7 with | some q => st_.portTurn 0 q.stream && st_.walkerFree 0 q.stream && (match st_.hent q.org.job (st_.reqHandle q) with | .ok e => (match st_.dieWalk 0 1 (e.base + q.a) with | .ok _ => !st_.dying 1 (e.base + q.a) | .error _ => false) | .error _ => false) | none => false)) (onHandle 0 4099 (reqState [rq .prf 8 0 0 0] (jobState [(1, buf 1 2)]))) = true ∧
    -- prefetch finds nothing
    (fun (st_ : State) => served st_ && (match st_.req 7 with | some q => st_.portTurn 0 q.stream && st_.walkerFree 0 q.stream && (match st_.dieWalk 0 1 0x40008 with | .ok _ => false | .error _ => true) | none => false)) (onHandle 0 4099 (reqState [rq .prf 8 0 0 0] (jobState [(1, { buf 1 2 with base := 0x40000 })]))) = true ∧
    -- no turn
    (fun (st_ : State) => served st_ && (match st_.req 7 with | some q => !st_.portTurn 0 q.stream && (match st_.hent 1 4099 with | .ok e => e.state == 2 | _ => false) | none => false)) ((onHandle 0 4099 (reqState [rq .ldm 8 0 0 0] (jobState [(1, buf 1 2)]))).modBu 0 (fun b => { b with port := some b.cycle })) = true :=
  ⟨by decide +kernel,
   by decide +kernel,
   by decide +kernel,
   by decide +kernel,
   by decide +kernel,
   by decide +kernel,
   by decide +kernel,
   by decide +kernel,
   by decide +kernel,
   by decide +kernel,
   by decide +kernel,
   by decide +kernel,
   by decide +kernel,
   by decide +kernel,
   by decide +kernel⟩

theorem test_HandleRequests :
    -- state
    (fun (st_ : State) => served st_ && entIs st_ (2 ^ 12 + 3) (fun e => e == buf 1 2 true 255 true)) (reqState [rq .hbState (2 ^ 12 + 3) 0 0 0] (jobState [(1, buf 1 2 true 255 true)])) = true ∧
    -- shadow
    (fun (st_ : State) => served st_ && entIs st_ (2 ^ 12 + 3) (fun e => e.shadow == 0x11000)) (reqState [rq .shRd (2 ^ 12 + 3) 0 0 0] (jobState [(1, buf 1 2 true)])) = true ∧
    -- wait due
    (fun (st_ : State) => served st_ && entIs st_ (2 ^ 12 + 3) (fun e => e.gen == (2 ^ 12 + 3) % 2 ^ 12 && e.state == 2)) (reqState [rq .hbWait (2 ^ 12 + 3) 0 0 2] (jobState [(1, buf 1 2)])) = true ∧
    -- wait
    (fun (st_ : State) => served st_ && entIs st_ (2 ^ 12 + 3) (fun e => e.state != 1)) (reqState [rq .hbWait (2 ^ 12 + 3) 0 0 1] (jobState [(1, buf 1 2)])) = true ∧
    -- set
    (fun (st_ : State) => served st_ && entIs st_ (2 ^ 12 + 3) (fun e => e.kind == 2 && e.writers == 0 && e.readers == 0) && ((takePlace st_ (1, 1) 7).hq (1, 1)).queue.head? == some 7) (reqState [rq .hbSet (2 ^ 12 + 3) 0 0 3] (jobState [(1, buf 2 0)])) = true ∧
    -- set waits
    (fun (st_ : State) => served st_ && entIs st_ (2 ^ 12 + 3) (fun e => e.kind == 2 && e.writers == 1)) (reqState [rq .hbSet (2 ^ 12 + 3) 0 0 3] (jobState [(1, buf 2 0 false 1)])) = true ∧
    -- publish
    (fun (st_ : State) => served st_ && entIs st_ (2 ^ 12 + 3) (fun e => e.kind == 1 && e.shadowed && e.writers == 0 && e.readers == 0 && !e.pub) && ((takePlace st_ (1, 1) 7).hq (1, 1)).queue.head? == some 7) (reqState [rq .hbPub (2 ^ 12 + 3) 0 0 0] (jobState [(1, buf 1 1 true)])) = true ∧
    -- publish kind
    (fun (st_ : State) => served st_ && entIs st_ (2 ^ 12 + 3) (fun e => e.kind == 1 && !e.shadowed) && ((takePlace st_ (1, 1) 7).hq (1, 1)).queue.head? == some 7) (reqState [rq .hbPub (2 ^ 12 + 3) 0 0 0] (jobState [(1, buf 1 1)])) = true ∧
    -- free kind
    (fun (st_ : State) => served st_ && entIs st_ (2 ^ 12 + 3) (fun e => e.kind == 3)) (reqState [rq .hbFree (2 ^ 12 + 3) 0 0 0] (jobState [(1, buf 3 1)])) = true ∧
    -- none
    (fun (st_ : State) => served st_ && (match st_.hent 1 (7 * 2 ^ 12 + 3) with | .error c => c == .handle | _ => false)) (reqState [rq .shChk (7 * 2 ^ 12 + 3) 0 0 0]) = true ∧
    -- allocate argument
    (fun (st_ : State) => served st_) (reqState [rq .hbAlloc 0 (2 ^ 48 + 1) (2 ^ 64) 0]) = true ∧
    -- answer
    (fun (st_ : State) => rowIs st_ .hbWait) (reqState [{ rq .hbWait (2 ^ 12 + 3) 9 1 0 with stage := .waiting }]) = true ∧
    -- entry
    (fun (st_ : State) => (match st_.entPlace 1 1 true with | .ok k => k == 0x50020 | _ => false) && !isRungHandle 4099) (jobState) = true ∧
    -- allocate
    (fun (st_ : State) => served st_ && (match st_.slotEnt 1 1, st_.slotEnt 1 2 with | .ok e, .ok f => e.kind != 0 && f.kind == 0 && f.gen == 4095 | _, _ => false) && (match mapGet 1 st_.hub.jobs with | some j => decide (2 < j.hslots) | none => false)) (reqState [rq .hbAlloc 0x10000 4096 0x11000 1] (jobState [(1, buf 1 2), (2, { buf 0 0 with gen := 4095 })])) = true ∧
    -- allocate full
    (fun (st_ : State) => served st_ && (match st_.slotEnt 1 1 with | .ok e => e.kind != 0 | _ => false) && (match mapGet 1 st_.hub.jobs with | some j => j.hslots == 2 | none => false)) (reqState [rq .hbAlloc 0x10000 4096 (2 ^ 64) 1] ((jobState [(1, buf 1 2)]).modHub (fun h => { h with jobs := [(1, { testJob with hslots := 2 })] }))) = true ∧
    -- free
    (fun (st_ : State) => served st_ && entIs st_ (2 ^ 12 + 4095) (fun e => e.kind == 2 && e.writers == 0 && e.readers == 0 && !e.pub) && ((takePlace st_ (1, 1) 7).hq (1, 1)).queue.head? == some 7) (reqState [rq .hbFree (2 ^ 12 + 4095) 0 0 0, { rq .hbWait (2 ^ 12 + 4095) 0 0 1 with id := 8, stage := .waiting, c := 0, ty := .i64 }] (jobState [(1, { buf 2 3 with gen := 4095 })])) = true :=
  ⟨by decide +kernel,
   by decide +kernel,
   by decide +kernel,
   by decide +kernel,
   by decide +kernel,
   by decide +kernel,
   by decide +kernel,
   by decide +kernel,
   by decide +kernel,
   by decide +kernel,
   by decide +kernel,
   by decide +kernel,
   by decide +kernel,
   by decide +kernel,
   by decide +kernel,
   by decide +kernel⟩

theorem test_StoresPerform :
    (fun (st_ : State) => (match st_.ms.pending with | [p] => mayPerform st_ p && p.ends.isNone | _ => false)) (withA (arg 7) { State.reset with ms := { State.reset.ms with pending := [⟨⟨7, 4096, [1, 0, 2], .host, [], []⟩, none, [], none, false, none⟩] } }) = true ∧
    -- waits
    (fun (st_ : State) => (match st_.ms.pending with | [_, p] => !mayPerform st_ p | _ => false)) (withA (arg 7) { State.reset with ms := { State.reset.ms with pending := [⟨⟨6, 4097, [1], .host, [], []⟩, none, [], none, false, none⟩, ⟨⟨7, 4096, [1, 0, 2], .host, [], []⟩, none, [6], none, false, none⟩] } }) = true ∧
    -- page
    (fun (st_ : State) => (match mapGet 7 st_.hub.pages with | some p => p.dying && !st_.agCovers p.owner p.va | none => false)) (withA (arg 7) ((State.reset : State).modHub (fun h => { h with pages := [(7, ⟨0, true, 1, 0x20000⟩)] }))) = true ∧
    -- to shadow
    (fun (st_ : State) => (match st_.ms.pending with | [p] => mayPerform st_ p && p.shadow == some (1, 3) | _ => false) && (mapGet 1 st_.hub.jobs).isSome) (withA (arg 7) ((fun (s : State) => { s with ms := { s.ms with pending := [⟨⟨7, 4096, [1], .host, [], []⟩, none, [], none, false, some (1, 3)⟩] } }) jobState)) = true :=
  ⟨by decide +kernel,
   by decide +kernel,
   by decide +kernel,
   by decide +kernel⟩

theorem test_AtomicAndMailboxResults :
    -- add
    (fun (st_ : State) => served st_ && (match st_.req 7 with | some q => (match requestHome st_ q true with | .ok (.bank a, _) => a == 572 | _ => false) | none => false)) (reqState [rq .atom 572 0 1 (8 + 512 * 0) .i32] (jobState [] (bankState 8 []))) = true ∧
    -- swap device
    (fun (st_ : State) => served st_ && (match st_.req 7 with | some q => (match requestHome st_ q true with | .ok (.dev _, _) => true | .error e => true | _ => false) | none => false)) (reqState [rq .cas 4096 0 5 512 .i32] (jobState [(1, buf 1 2)])) = true ∧
    -- compare and swap
    (fun (st_ : State) => served st_ && (match st_.req 7 with | some q => (match requestHome st_ q true with | .ok (.dev k, _) => k == 0x60004 | _ => false) | none => false)) (onHandle 0 4099 (reqState [rq .cas 4 9 5 512 .i32] (putNat 0x60004 4 9 (jobState [(1, buf 1 2)])))) = true ∧
    -- unreachable
    (fun (st_ : State) => served st_ && (match st_.req 7 with | some q => (match requestHome st_ q true with | .error (c, a) => c == .handleRange && a == 4093 | _ => false) | none => false)) (onHandle 0 4099 (reqState [rq .red 4093 9 5 512 .i32] (jobState [(1, buf 1 2)]))) = true ∧
    -- message
    (fun (st_ : State) => served st_ && (match st_.hentKind 1 4099 [1] with | .ok e => 64 ≤ e.size && (match enginePlaces st_ 1 e.base 20 true with | .ok ((k, 0, _) :: _) => k == 0x60000 && !st_.ms.bad k 24 && natOfBytes (lastBytes st_ k 20) == 4 * 2 ^ 128 && (match enginePlaces (takeLast st_ (rq .msg 4099 77 0 0).party k 20) 1 (e.base + 64) 64 true with | .ok l => l == [(0x60040, 0, 64)] | .error _ => false) | _ => false) | .error _ => false)) (reqState [rq .msg 4099 77 0 0] (putNat 0x60010 4 4 (jobState [(1, buf 1 2)]))) = true ∧
    -- message small
    (fun (st_ : State) => served st_ && (match st_.hentKind 1 4099 [1] with | .ok e => (match enginePlaces st_ 1 e.base 20 true with | .ok ((k, 0, _) :: _) => natOfBytes (lastBytes st_ k 20) == 0 | _ => false) | .error _ => false)) (reqState [rq .msg 4099 77 0 0] (jobState [(1, buf 1 2)])) = true ∧
    -- message full
    (fun (st_ : State) => served st_ && (match st_.hentKind 1 4099 [1] with | .ok e => (match enginePlaces st_ 1 e.base 20 true with | .ok ((k, 0, _) :: _) => natOfBytes (lastBytes st_ k 20) == 4 + 4 * 2 ^ 128 | _ => false) | .error _ => false)) (reqState [rq .msg 4099 77 0 0] (putNat 0x60000 8 4 (putNat 0x60010 4 4 (jobState [(1, buf 1 2)])))) = true ∧
    -- message head beyond tail
    (fun (st_ : State) => served st_ && (match st_.hentKind 1 4099 [1] with | .ok e => (match enginePlaces st_ 1 e.base 20 true with | .ok ((k, 0, _) :: _) => natOfBytes (lastBytes st_ k 20) == 9 * 2 ^ 64 + 4 * 2 ^ 128 | _ => false) | .error _ => false)) (reqState [rq .msg 4099 77 0 0] (putNat 0x60008 8 9 (putNat 0x60010 4 4 (jobState [(1, buf 1 2)])))) = true :=
  ⟨by decide +kernel,
   by decide +kernel,
   by decide +kernel,
   by decide +kernel,
   by decide +kernel,
   by decide +kernel,
   by decide +kernel,
   by decide +kernel⟩

theorem test_EngineRuns :
    -- wrong
    (fun (st_ : State) => served st_ && (match redEnts st_ 1 (redDesc (4099 + 2 ^ 32 * 4099 + 2 ^ 64 * 4099 + 2 ^ 96 * 4099)) with | .ok e => !e.out.shadowed | .error _ => false)) (reqState [rq .ceRed (4099 + 2 ^ 32 * 4099 + 2 ^ 64 * 4099 + 2 ^ 96 * 4099) 0 0 0] (jobState [(1, buf 1 2)])) = true ∧
    -- reduce
    (fun (st_ : State) => served st_ && (match st_.req 7 with | some q => (match redEnts st_ 1 (redDesc q.a) with | .ok e => e.out.shadowed && e.out.writers == 0 && !e.out.pub && e.idx.state == 2 && e.offs.state == 3 && (redDesc q.a).fits | .error _ => false) | none => false)) (reqState [rq .ceRed (4099 + 2 ^ 32 * (2 * 4096 + 3) + 2 ^ 64 * 4099 + 2 ^ 96 * (3 * 4096 + 3) + 2 ^ 128 + 2 ^ 160 * 2 + 2 ^ 176 * 12) 0 0 0] (putNat 0x60004 4 1 (putNat 0x60000 4 2 (jobState [(1, buf 1 2), (2, { buf 1 0 true with base := 0x12000, shadow := 0x13000 }), (3, { buf 1 3 with base := 0x10000 })])))) = true ∧
    -- reduce waits
    (fun (st_ : State) => served st_ && (match st_.req 7 with | some q => (match redEnts st_ 1 (redDesc q.a) with | .ok e => e.idx.state < 2 && e.out.shadowed | .error _ => false) | none => false)) (reqState [rq .ceRed (4099 + 2 ^ 32 * (2 * 4096 + 3) + 2 ^ 64 * 4099 + 2 ^ 96 * 4099 + 2 ^ 128 + 2 ^ 160 * 2 + 2 ^ 176 * 12) 0 0 0] (jobState [(1, buf 1 1), (2, buf 1 0 true)])) = true ∧
    -- bag
    (fun (st_ : State) => decide (0 < Config.engines)) (State.reset) = true ∧
    -- program bad
    (fun (st_ : State) => served st_ && (match progCheck (engineAcquire st_ (rq .ceProg 4099 4099 0 0)) (rq .ceProg 4099 4099 0 0) with | .error (c, _) => c == .ceProg | .ok _ => false)) (reqState [rq .ceProg 4099 4099 0 0] (jobState [(1, buf 1 2)])) = true ∧
    -- program
    (fun (st_ : State) => served st_ && (match progCheck (engineAcquire st_ (rq .ceProg 4099 (2 * 4096 + 3) 0 0)) (rq .ceProg 4099 (2 * 4096 + 3) 0 0) with | .ok (ws, es, s1) => decide (ws = [0x60000000, 0x70000000]) && es.map (fun e => e.2.size) == [2048] && (match eachOk (fun i s => match engineOf s 1 (0x11000 + 1024 * i) with | .error x => .error x | .ok c => .ok (c, s)) (List.range 2) s1 with | .ok (o, _) => o.length == 2 | .error _ => false) | .error _ => false)) (reqState [rq .ceProg 4099 (2 * 4096 + 3) 0 0] (putNat 0x60000 8 (0x60000000 + 2 ^ 32 * 0x70000000) (jobState [(1, { buf 1 2 with size := 8 }), (2, { buf 1 0 with base := 0x11000, size := 2048 })]))) = true ∧
    -- program step
    (fun (st_ : State) => (match st_.hub.progs with | [p] => p.req == 7 && (match p.parts with | [x] => x.engine == 3 && x.todo == [0, 1] && x.window.isNone | _ => false) | _ => false)) (withA (arg 7 3) ((reqState [{ rq .ceProg 4099 (2 * 4096 + 3) 0 0 with stage := .waiting }]).modHub (fun h => { h with progs := [⟨7, [0x60000000, 0x70000000], [], [⟨3, [0, 1], List.replicate 8 [], 0, 0, none⟩]⟩] }))) = true ∧
    -- program last
    (fun (st_ : State) => (match st_.hub.progs with | [p] => (match p.parts with | [x] => x.todo == [1] && x.window.isNone | _ => false) | _ => false)) (withA (arg 7 3) ((reqState [{ rq .ceProg 4099 (2 * 4096 + 3) 0 0 with stage := .waiting }]).modHub (fun h => { h with progs := [⟨7, [0x60000000, 0x70000000], [], [⟨3, [1], List.replicate 8 [], 0, 0, none⟩]⟩] }))) = true ∧
    -- program window
    (fun (st_ : State) => (match st_.hub.progs with | [p] => p.parts.all (·.window.isSome) | _ => false)) (withA (arg 7 3) ((reqState [{ rq .ceProg 4099 (2 * 4096 + 3) 0 0 with stage := .waiting }]).modHub (fun h => { h with progs := [⟨7, [0x60000000, 0x70000000], [], [⟨3, [1], List.replicate 8 [], 0, 0, some 5⟩]⟩] }))) = true ∧
    -- bag over engines
    (fun (st_ : State) => decide (1 < Config.engines)) (State.reset) = true ∧
    -- empty bag
    (fun (st_ : State) => decide (0 < Config.engines)) (State.reset) = true ∧
    -- madd
    (fun (st_ : State) => decide ((⟨[[0x40000000], [0x40400000], [0x3F800000], [], [], [], [], []], 0⟩ : Acc).xs.length = 8)) (State.reset) = true ∧
    -- clear
    (fun (st_ : State) => decide ((⟨[[5], [], [], [], [], [], [], []], 7⟩ : Acc).xs.length = 8)) (State.reset) = true ∧
    -- channel busy
    (fun (st_ : State) => st_.ms.pending.any (fun w => w.w.key < 2 ^ 60)) (withA (arg 7 3) { State.reset with ms := { State.reset.ms with pending := [⟨⟨7, 4096, [1], .host, [], []⟩, none, [], none, false, none⟩] } }) = true ∧
    -- window ends
    (fun (st_ : State) => decide (1000 * st_.hub.ceWin ≤ st_.out.clockMHz * ((st_.out.tick + 2 ^ 64 - 5) % 2 ^ 64)) && (match st_.hub.progs with | [p] => p.parts.map (·.window) == [some 5] | _ => false)) (withA (arg 7 3) (((reqState [{ rq .ceProg 4099 (2 * 4096 + 3) 0 0 with stage := .waiting }]).modHub (fun h => { h with ceWin := 1, progs := [⟨7, [0x60000000, 0x70000000], [], [⟨3, [1], List.replicate 8 [], 0, 0, some 5⟩]⟩] })).modOut (fun o => { o with tick := 1005, clockMHz := 1000 }))) = true ∧
    -- window lasts
    (fun (st_ : State) => !decide (1000 * st_.hub.ceWin ≤ st_.out.clockMHz * ((st_.out.tick + 2 ^ 64 - 4) % 2 ^ 64)) && (match st_.hub.progs with | [p] => p.parts.map (·.window) == [some 4] | _ => false)) (withA (arg 7 3) (((reqState [{ rq .ceProg 4099 (2 * 4096 + 3) 0 0 with stage := .waiting }]).modHub (fun h => { h with ceWin := 1001, progs := [⟨7, [0x60000000, 0x70000000], [], [⟨3, [1], List.replicate 8 [], 0, 0, some 4⟩]⟩] })).modOut (fun o => { o with tick := 5, clockMHz := 1000 }))) = true :=
  ⟨by decide +kernel,
   by decide +kernel,
   by decide +kernel,
   by decide +kernel,
   by decide +kernel,
   by decide +kernel,
   by decide +kernel,
   by decide +kernel,
   by decide +kernel,
   by decide +kernel,
   by decide +kernel,
   by decide +kernel,
   by decide +kernel,
   by decide +kernel,
   by decide +kernel,
   by decide +kernel⟩

theorem test_BarrierResults :
    -- init
    (fun (st_ : State) => served st_ && (match st_.req 7 with | some q => (match requestHome st_ q true with | .ok (.bank a, _) => a == 64 | _ => false) | none => false)) (reqState [rq .barInit 64 0 3 0] (jobState [] (bankState 8 []))) = true ∧
    -- arrive unset
    (fun (st_ : State) => served st_ && (match st_.req 7 with | some q => (match requestHome st_ q true with | .ok (h, s1) => (barOf (homeBytes s1 0 h 10)).expected == 0 | _ => false) | none => false)) (reqState [rq .barArrive 64 0 0 0] (jobState [] (bankState 8 []))) = true ∧
    -- arrive last
    (fun (st_ : State) => served st_ && (match st_.req 7 with | some q => (match requestHome st_ q true with | .ok (h, s1) => barOf (homeBytes s1 0 h 10) == ⟨1, 0, 65535⟩ | _ => false) | none => false)) (reqState [rq .barArrive 64 0 0 0] (jobState [] ((bankState 8 []).modBu 0 (fun b => { b with bank := Memory.writeBytes 64 [1, 0, 0, 0, 0, 0, 0, 0, 0xFF, 0xFF] b.bank })))) = true ∧
    -- drop
    (fun (st_ : State) => served st_ && (match st_.req 7 with | some q => (match requestHome st_ q true with | .ok (h, s1) => barOf (homeBytes s1 0 h 10) == ⟨2, 0, 1⟩ | _ => false) | none => false)) (reqState [rq .barDrop 64 0 0 0] (jobState [] ((bankState 8 []).modBu 0 (fun b => { b with bank := Memory.writeBytes 64 [2, 0, 0, 0, 0, 0, 0, 0, 1, 0] b.bank })))) = true ∧
    -- wait
    (fun (st_ : State) => served st_ && (match st_.req 7 with | some q => (match requestHome st_ q false with | .ok _ => true | _ => false) | none => false)) (reqState [rq .barWait 64 0 0 0] (jobState [] (bankState 8 []))) = true ∧
    -- answer
    (fun (st_ : State) => rowIs st_ .barWait && (barOf (homeBytes st_ 0 (homeOf 0 64) 10)).phase == 0) (reqState [{ rq .barWait 64 64 65535 0 with stage := .waiting }] (jobState [] (bankState 8 []))) = true ∧
    -- group
    (fun (st_ : State) => served st_ && st_.barHome (rq .barArrive 64 0 0 0) == st_.barHome { rq .barDrop 64 0 0 0 with id := 8, org := { testOrg with slot := 1 } } && (st_.barHome (rq .barArrive 64 0 0 0)).isSome && barGroup st_.my.arg == [7, 8]) (withA { arg 7 with bytes := bytesOfNat 8 8 } ((reqState [rq .barArrive 64 0 0 0, { rq .barDrop 64 0 0 0 with id := 8, org := { testOrg with slot := 1 } }] (jobState [] ((placedState [1 + 8 * 2 ^ 16, 1 + 8 * 2 ^ 16, 0, 0, 0, 0, 0, 0] [] []).modBu 0 (fun b => { b with bank := Memory.writeBytes 64 [2, 0, 0, 0, 0, 0, 0, 0, 0xFF, 0xFF] b.bank })))))) = true ∧
    -- settles
    (fun (st_ : State) => (match st_.req 7 with | some r => r.b == 64 && r.stage == .waiting && r.c == 65535 && (barOf (homeBytes st_ 0 (homeOf 0 64) 10)).phase == 0 | none => false)) ((reqState [{ rq .barWait 64 64 65535 0 with stage := .waiting }] (jobState [] (bankState 8 [])))) = true :=
  ⟨by decide +kernel,
   by decide +kernel,
   by decide +kernel,
   by decide +kernel,
   by decide +kernel,
   by decide +kernel,
   by decide +kernel,
   by decide +kernel⟩

theorem test_CounterResults :
    -- add
    (fun (st_ : State) => served st_ && st_.counterOf 1 3 == some 13) (reqState [rq .cntAdd 3 (2 ^ 32 + 2) 0 0]) = true ∧
    -- range
    (fun (st_ : State) => served st_ && st_.counterOf 1 4 == none) (reqState [rq .cntRd 4 0 0 0]) = true ∧
    -- read
    (fun (st_ : State) => served st_ && st_.counterOf 1 0 == some 10) (reqState [rq .cntRd 0 0 0 0]) = true ∧
    -- wait due
    (fun (st_ : State) => served st_ && st_.counterOf 1 0 == some 10) (reqState [rq .cntWait 0 (2 ^ 32 - 2 ^ 31 + 1) 0 0]) = true ∧
    -- wait
    (fun (st_ : State) => served st_ && st_.counterOf 1 0 == some 10) (reqState [rq .cntWait 0 (2 ^ 31) 0 0]) = true ∧
    -- count
    (fun (st_ : State) => !st_.outstanding 6 && st_.counterOf 1 0 == some 10) (reqState [{ rq .cntAdd 0 1 0 0 with begun := true, after := [6] }]) = true ∧
    -- answer
    (fun (st_ : State) => rowIs st_ .cntWait) (reqState [{ rq .cntWait 0 9 1 0 with stage := .waiting }]) = true ∧
    -- begun waits
    (fun (st_ : State) => (match st_.req 7 with | some q => q.begun && st_.ms.pending.any (fun p => p.w.party == q.party) | none => false)) ((reqState [{ rq .cntAdd 0 0 0 0 with begun := true }]) |> fun (s : State) => { s with ms := { s.ms with pending := [⟨⟨3, 4096, [1], (rq .cntAdd 0 0 0 0).party, [], []⟩, none, [], none, false, none⟩] } }) = true ∧
    -- begun
    (fun (st_ : State) => (match st_.req 7 with | some q => q.begun && q.after.isEmpty && st_.counterOf q.org.job q.a == some 13 | none => false) && st_.ms.pending.isEmpty) (reqState [{ rq .cntAdd 3 1 0 0 with begun := true }]) = true :=
  ⟨by decide +kernel,
   by decide +kernel,
   by decide +kernel,
   by decide +kernel,
   by decide +kernel,
   by decide +kernel,
   by decide +kernel,
   by decide +kernel,
   by decide +kernel⟩

theorem test_LadderRequests :
    -- no span
    (fun (st_ : State) => served st_ && st_.hub.parked.isEmpty && (match st_.spanNamed 5 with | .error c => c == .name | .ok _ => false)) (reqState [rq .probe 5 0 0 0] spanState) = true ∧
    -- probe
    (fun (st_ : State) => served st_ && spanOk st_ && ladderChecks st_ (rq .probe spanNm 0 0 0) testSpan == none && st_.span 1 == testSpan) (reqState [rq .probe spanNm 0 0 0] spanState) = true ∧
    -- pin
    (fun (st_ : State) => served st_ && st_.span 1 == testSpan && ladderChecks st_ (rq .spPin spanNm 0 0 0) testSpan == none) (reqState [rq .spPin spanNm 0 0 0] spanState) = true ∧
    -- pinned out
    (fun (st_ : State) => served st_ && (st_.span 1).pins == 65535 && ladderChecks st_ (rq .spPin spanNm 0 0 0) (st_.span 1) == none) (reqState [rq .spPin spanNm 0 0 0] (spanState { testSpan with pins := 65535 })) = true ∧
    -- unpinned
    (fun (st_ : State) => served st_ && (st_.span 1).pins == 0 && ladderChecks st_ (rq .spUnpin spanNm 0 0 0) (st_.span 1) == none) (reqState [rq .spUnpin spanNm 0 0 0] spanState) = true ∧
    -- owner
    (fun (st_ : State) => served st_ && ladderChecks st_ (rq .spFree spanNm 0 0 0) (st_.span 1) == some .ladderOwner) (reqState [rq .spFree spanNm 0 0 0] (spanState { testSpan with owner := 2 })) = true ∧
    -- drop absent
    (fun (st_ : State) => served st_ && !(st_.span 1).has (rq .drop spanNm 0 0 8).rung && ladderChecks st_ (rq .drop spanNm 0 0 8) (st_.span 1) == none) (reqState [rq .drop spanNm 0 0 8] spanState) = true ∧
    -- present
    (fun (st_ : State) => served st_ && (st_.span 1).has (rq .lift spanNm 0 0 0).rung && st_.rungState testSpan 0 != 1 && ladderChecks st_ (rq .lift spanNm 0 0 0) (st_.span 1) == none) (reqState [rq .lift spanNm 0 0 0] spanState) = true ∧
    -- retry waits
    (fun (st_ : State) => (st_.parkedOn (rq .probe spanNm 0 0 0).spanSlot).isEmpty) ((reqState [{ rq .probe spanNm 0 0 0 with stage := .waiting }] spanState)) = true ∧
    -- new fails
    (fun (st_ : State) => served st_ && (match serveNew (ladderAcquire st_ (rq .spNew 0 0 0 0)) (rq .spNew 0 0 0 0) with | .fail _ _ _ => true | _ => false)) (reqState [rq .spNew 0 0 0 0] spanState) = true ∧
    -- transform ends
    (fun (st_ : State) => (match st_.hub.builds with | [b] => b.id == 3 && b.launch.isNone | _ => false) && st_.hub.parked.isEmpty) (withA (arg 3) (spanState.modHub (fun h => { h with builds := [⟨3, 9, 1, 2, 1, 0, true, 1, none, 10, none⟩] }))) = true ∧
    -- far goes
    (fun (st_ : State) => served st_ && (match st_.req 7 with | some q => st_.farHome q == some 3 && st_.linkTo 3 == some 15 | none => false) && st_.out.window 31 == 1) ((reqState [rq .probe (spanNm + 3 * 2 ^ 52) 0 0 0] (spanState.modHub (fun h => { h with jobs := [(1, { testJob with caravan := [0, 3] })] }))).modOut (fun o => { o with routeTable := [(3, 15)], peerWindows := [(31, 1)] })) = true ∧
    -- far waits
    (fun (st_ : State) => (match st_.req 7 with | some q => st_.farHome q == some 3 && q.stage == .waiting | none => false) && !st_.my.arg.flag) ((reqState [{ rq .probe (spanNm + 3 * 2 ^ 52) 0 0 0 with stage := .waiting, begun := true }] (spanState.modHub (fun h => { h with jobs := [(1, { testJob with caravan := [0, 3] })] })))) = true ∧
    -- far answer
    (fun (st_ : State) => (match st_.req 7 with | some q => st_.farHome q == some 3 && q.stage == .waiting | none => false) && st_.my.arg.flag && st_.my.arg.m == 0) ((fun (s : State) => { s with my := { s.my with arg := { s.my.arg with flag := true, bytes := [9, 1] } } }) (reqState [{ rq .probe (spanNm + 3 * 2 ^ 52) 0 0 0 with stage := .waiting, begun := true }] (spanState.modHub (fun h => { h with jobs := [(1, { testJob with caravan := [0, 3] })] })))) = true ∧
    -- far fails
    (fun (st_ : State) => (match st_.req 7 with | some q => st_.farHome q == some 3 && q.stage == .waiting | none => false) && st_.my.arg.flag && st_.my.arg.m == 5) ((fun (s : State) => { s with my := { s.my with arg := { s.my.arg with flag := true, m := 5, cmd := ⟨0, 0, 0, 77, 0, 0, 0, 0, 0⟩ } } }) (reqState [{ rq .probe (spanNm + 3 * 2 ^ 52) 0 0 0 with stage := .waiting, begun := true }] (spanState.modHub (fun h => { h with jobs := [(1, { testJob with caravan := [0, 3] })] })))) = true :=
  ⟨by decide +kernel,
   by decide +kernel,
   by decide +kernel,
   by decide +kernel,
   by decide +kernel,
   by decide +kernel,
   by decide +kernel,
   by decide +kernel,
   by decide +kernel,
   by decide +kernel,
   by decide +kernel,
   by decide +kernel,
   by decide +kernel,
   by decide +kernel,
   by decide +kernel⟩

theorem test_LaunchesArriveAndStart :
    -- misaligned
    (fun (st_ : State) => served st_ && decide ((st_.hub.launches.filter (fun e => e.2.st == .queued && e.2.build.isNone)).length < 4096)) (reqState [rq .glLaunch 1 0 0 0]) = true ∧
    -- rejected
    (fun (st_ : State) => served st_ && (match mapGet 1 st_.hub.jobs, st_.peekVa 1 0x10000 128 with | some j, some bs => (match checkLaunch st_ j (launchRec (natOfBytes bs) false) false with | .error c => c == .launchImage | .ok _ => false) | _, _ => false)) (reqState [rq .glLaunch 0x10000 0 0 0]) = true ∧
    -- taken
    (fun (st_ : State) => served st_ && (match mapGet 1 st_.hub.jobs, st_.peekVa 1 0x10000 128 with | some j, some bs => (match checkLaunch st_ j (launchRec (natOfBytes bs) false) false with | .error _ => false | .ok _ => true) | _, _ => false)) (reqState [rq .glLaunch 0x10000 0 0 0] (putNat 0x60000 8 (4 * 2 ^ 16) (jobState [] ((placedState [] [] []).modHub (fun h => { h with pools := [(0, 0)] }))))) = true ∧
    -- start
    (fun (st_ : State) => (match st_.region 0, st_.launch 5 with | some r, some l => !st_.out.locked && r.running.isNone && r.queue == [5] && st_.phaseDue l && decide (l.tick ≤ st_.out.tick) && r.place.isSome && (st_.regionBus r).contains 0 && (st_.block 0 0 0).isSome | _, _ => false)) (withA (arg 0) ((jobState [] (placedState [] [] [0x0000303800060000])).modHub (fun h => { h with launches := [(5, { testLaunch with st := .queued, seed := 2 ^ 64 - 1, binds := [⟨0, 0, 0, 1, 0, 3, 9⟩] })] }) |>.modRegion 0 (fun r => { r with queue := [5] }))) = true ∧
    -- early
    (fun (st_ : State) => (match st_.region 0, st_.launch 5 with | some r, some l => r.queue == [5] && decide (st_.out.tick < l.tick) | _, _ => false)) (withA (arg 0) ((jobState [] (placedState [] [] [])).modHub (fun h => { h with launches := [(5, { testLaunch with st := .queued, tick := 1 })] }) |>.modRegion 0 (fun r => { r with queue := [5] }))) = true ∧
    -- queued
    (fun (st_ : State) => served st_ && (match st_.regionFor 0 with | some g => g.id == 0 && g.queue == [9] | none => false)) (reqState [rq .glLaunch 0x10000 0 0 0] (putNat 0x60000 8 (4 * 2 ^ 16) (jobState [] ((placedState [] [] []).modHub (fun h => { h with pools := [(0, 0)] })))) |>.modRegion 0 (fun r => { r with queue := [9] })) = true ∧
    -- full
    (fun (st_ : State) => served st_ && decide (4096 ≤ (st_.hub.launches.filter (fun e => e.2.st == .queued && e.2.build.isNone)).length)) (reqState [rq .glLaunch 0x10000 0 0 0] (jobState.modHub (fun h => { h with launches := (List.range 4096).map (fun i => (i + 1, { testLaunch with st := .queued })) }))) = true ∧
    -- locked
    (fun (st_ : State) => st_.out.locked && (match st_.region 0 with | some r => r.running.isNone && r.queue == [5] | none => false)) ((withA (arg 0) ((jobState [] (placedState [] [] [])).modHub (fun h => { h with launches := [(5, { testLaunch with st := .queued })] }) |>.modRegion 0 (fun r => { r with queue := [5] }))).modOut (fun o => { o with locked := true })) = true :=
  ⟨by decide +kernel,
   by decide +kernel,
   by decide +kernel,
   by decide +kernel,
   by decide +kernel,
   by decide +kernel,
   by decide +kernel,
   by decide +kernel⟩

theorem test_LaunchesCompleteAndRegionsMove :
    -- done
    (fun (st_ : State) => (match st_.launch 5 with | some l => launchReady st_ l && !l.dual | none => false)) ((withA (arg 5) (regionState (fun r => { r with commits := 1 }) { testLaunch with cnts := [0xFFFF, 2, 0xFFFF] })).modCtx 0 0 (fun c => { c with st := .idle })) = true ∧
    -- not done
    (fun (st_ : State) => (match st_.launch 5 with | some l => !launchReady st_ l | none => false)) (withA (arg 5) regionState) = true ∧
    -- nothing
    (fun (st_ : State) => !st_.out.locked && (st_.underPreempt 0).isNone && nextAct st_ 0 == .none) (withA (arg 0) regionState) = true ∧
    -- place
    (fun (st_ : State) => !st_.out.locked && (st_.underPreempt 0).isNone && (match nextAct st_ 0 with | .place 0 p => p.evict.isEmpty | _ => false)) (withA (arg 0) ((regionState (fun r => { r with place := none, running := none, queue := [5], started := false }) { testLaunch with st := .queued } ((jobState [] (placedState [] [] [])).modHub (fun h => { h with pools := [(0, 0)] }))).modBu 0 (fun _ => Bu.reset) |>.modRegion 0 (fun r => { r with running := none }))) = true ∧
    -- quantum
    (fun (st_ : State) => (match st_.launch 5, st_.region 0 with | some l, some r => l.quantum == 1 && 1000 * l.quantum ≤ r.quantumUsed && !launchReady st_ l && st_.hub.regions.all (fun e => !st_.waits e.2) | _, _ => false)) (withA (arg 0) (regionState (fun r => { r with quantumUsed := 1000 }) { testLaunch with quantum := 1 })) = true ∧
    -- quantum not passed
    (fun (st_ : State) => (match st_.launch 5, st_.region 0 with | some l, some r => l.quantum == 1 && decide (r.quantumUsed < 1000 * l.quantum) | _, _ => false)) (withA (arg 0) (regionState (fun r => { r with quantumUsed := 999 }) { testLaunch with quantum := 1 })) = true ∧
    -- locked
    (fun (st_ : State) => st_.out.locked) ((withA (arg 0) regionState).modOut (fun o => { o with locked := true })) = true ∧
    -- quantum completes
    (fun (st_ : State) => (match st_.launch 5, st_.region 0 with | some l, some r => l.quantum == 1 && 1000 * l.quantum ≤ r.quantumUsed && launchReady st_ l && l.region == r.id | _, _ => false)) ((withA (arg 0) (regionState (fun r => { r with quantumUsed := 1000, commits := 1 }) { testLaunch with quantum := 1 })).modCtx 0 0 (fun c => { c with st := .idle })) = true ∧
    -- quantum yields
    (fun (st_ : State) => (match st_.launch 5, st_.region 0, st_.region 1 with | some l, some r, some w => l.quantum == 1 && 1000 * l.quantum ≤ r.quantumUsed && !launchReady st_ l && st_.waits w && decide (l.prio ≤ st_.prioOf w) && !st_.isXform r && !st_.isXform w && st_.preemptable r && (planFor (st_.leavePool r.pool st_.retiredGranules) w (st_.groupIds [r])).isSome | _, _, _ => false)) (withA (arg 0) ((regionState (fun r => { r with quantumUsed := 1000 }) { testLaunch with quantum := 1 }).modHub (fun h => { h with jobs := [(1, { testJob with savesz := 2 ^ 40 })], pools := [(0, 0)], launches := h.launches ++ [(6, { testLaunch with id := 6, region := 1, st := .queued })], regions := h.regions ++ [(1, { probeRegion with id := 1, place := none, queue := [6], waitSince := some 0, started := false })] }))) = true ∧
    -- quantum held
    (fun (st_ : State) => (match st_.launch 5, st_.region 0, st_.region 1 with | some l, some r, some w => l.quantum == 1 && 1000 * l.quantum ≤ r.quantumUsed && !launchReady st_ l && st_.waits w && decide (l.prio ≤ st_.prioOf w) && !st_.preemptable r && (planFor (st_.leavePool r.pool st_.retiredGranules) w (st_.groupIds [r])).isSome | _, _, _ => false)) (withA (arg 0) ((regionState (fun r => { r with quantumUsed := 1000 }) { testLaunch with quantum := 1 }).modHub (fun h => { h with pools := [(0, 0)], launches := h.launches ++ [(6, { testLaunch with id := 6, region := 1, st := .queued })], regions := h.regions ++ [(1, { probeRegion with id := 1, place := none, queue := [6], waitSince := some 0, started := false })] }))) = true ∧
    -- retired leave
    (fun (st_ : State) => !st_.out.locked && (st_.underPreempt 0).isNone && (match nextAct st_ 0 with | .leave gs => gs == [0] | _ => false)) (withA (arg 0) ((regionState (fun r => { r with place := none, running := none, queue := [5], started := false }) { testLaunch with st := .queued } ((jobState [] (placedState [] [] [])).modHub (fun h => { h with pools := [(0, 0), (1, 0)] }))).modBu 0 (fun _ => Bu.reset) |>.modRegion 0 (fun r => { r with running := none }) |>.modOut (fun o => { o with health := { o.health with modes := [(0, 7)] } }))) = true :=
  ⟨by decide +kernel,
   by decide +kernel,
   by decide +kernel,
   by decide +kernel,
   by decide +kernel,
   by decide +kernel,
   by decide +kernel,
   by decide +kernel,
   by decide +kernel,
   by decide +kernel,
   by decide +kernel⟩

theorem test_RecordDelivery :
    -- reply
    (fun (st_ : State) => st_.peekVa 1 0x10000 1 == some [0] && (match writeVa st_ 1 .host 0x10000 ({ testRec .overflow with level := 1 } : FaultRec).bytes with | .ok _ => true | .error _ => false)) (pubRec ⟨7, testRec .overflow, 1, testOrg, 0x10000, 0⟩ jobState) = true ∧
    -- graph
    (fun (st_ : State) => (match st_.region 0 with | some r => !r.graphDone && decide (r.gq.length < 16) | none => false)) (pubRec ⟨7, testRec .overflow, 2, testOrg, 0, 0⟩ regionState) = true ∧
    -- phase
    (fun (st_ : State) => (mapGet 1 st_.hub.jobs).isSome && (st_.phaseQueue 1 0).isEmpty) (pubRec ⟨7, testRec .overflow, 3, testOrg, 0, 0⟩ jobState) = true ∧
    -- job
    (fun (st_ : State) => (mapGet 1 st_.hub.jobs).isSome) (pubRec ⟨7, testRec .overflow, 4, testOrg, 0, 0⟩ jobState) = true ∧
    -- handler
    (fun (st_ : State) => replyWord st_ testOrg % 4 == 1 && handlerTakes st_ testOrg) (pubRec ⟨7, testRec .overflow, 0, testOrg, 0, 0⟩ ((placedState [] [] []).modHub (fun h => { h with images := [(0, ⟨1, 1, 1, 1, [], [⟨0, 0, 0, 0, false, 0, false, []⟩, ⟨0, 0, 0, 0, true, 0, false, []⟩], []⟩)] }) |>.modCtx 0 0 (fun c => { c with launch := some 5 }) |>.modBu 0 (fun b => { b with reply := b.reply.set 0 1 }))) = true ∧
    -- queue
    (fun (st_ : State) => (match st_.peekVa 1 0x10800 24 with | some bs => natOfBytes bs == 2 * 2 ^ 128 | none => false)) (putNat 0x60810 4 2 jobState) = true ∧
    -- queue full
    (fun (st_ : State) => (match st_.peekVa 1 0x10800 24 with | some bs => natOfBytes bs == 2 + 2 * 2 ^ 128 | none => false)) (putNat 0x60800 8 2 (putNat 0x60810 4 2 jobState)) = true :=
  ⟨by decide +kernel,
   by decide +kernel,
   by decide +kernel,
   by decide +kernel,
   by decide +kernel,
   by decide +kernel,
   by decide +kernel⟩

theorem test_RoundsCommit :
    (fun (st_ : State) => (match st_.region 0 with | some r => !r.expired && roundDue st_ r && !r.dual | none => false)) ((regionState).modCtx 0 0 (fun c => { c with regs := { c.regs with round := 1 } })) = true ∧
    -- not due
    (fun (st_ : State) => (match st_.region 0 with | some r => !roundDue st_ r | none => false)) (regionState) = true ∧
    -- voting
    (fun (st_ : State) => (match st_.region 0 with | some r => !r.expired && roundDue st_ r && r.dual && r.voting | none => false)) ((regionState (fun r => { r with dual := true, voting := true })).modCtx 0 0 (fun c => { c with regs := { c.regs with round := 1 } })) = true ∧
    -- first vote
    (fun (st_ : State) => (match st_.region 0 with | some r => !r.expired && roundDue st_ r && r.dual && r.primary && !r.voting && (match st_.twinOf r with | some x => x.id == 1 && x.vote.isNone | none => false) | none => false)) ((regionState (fun r => { r with dual := true, twins := [1] })).modCtx 0 0 (fun c => { c with regs := { c.regs with round := 1 } }) |>.modHub (fun h => { h with regions := h.regions ++ [(1, { probeRegion with id := 1, primary := false, twins := [0], place := none })] })) = true ∧
    -- no third
    (fun (st_ : State) => (match st_.region 0 with | some r => (st_.twinOf r).isNone | none => false)) (regionState) = true ∧
    -- third agrees
    (fun (st_ : State) => (match st_.region 0 with | some r => (match st_.twinOf r, st_.thirdOf r with | some _, some x => x.vote == r.vote && r.vote.isSome && x.running.isSome && x.place.isSome | _, _ => false) && (st_.image r.image).isSome | none => false)) ((regionState (fun r => { r with dual := true, twins := [1], vote := some 9 })).modHub (fun h => { h with regions := h.regions ++ [(1, { probeRegion with id := 1, primary := false, twins := [0], place := some ⟨0, 1, 0⟩ }), (2, { probeRegion with id := 2, primary := false, voting := true, twins := [0], place := some ⟨0, 2, 0⟩, running := some 5, vote := some 9 })] })) = true ∧
    -- expired
    (fun (st_ : State) => (match st_.region 0 with | some r => roundDue st_ r && !r.dual && r.primary && r.expired && (r.running.bind st_.launch).isSome | none => false)) ((regionState (fun r => { r with expired := true })).modCtx 0 0 (fun c => { c with regs := { c.regs with round := 1 } })) = true :=
  ⟨by decide +kernel,
   by decide +kernel,
   by decide +kernel,
   by decide +kernel,
   by decide +kernel,
   by decide +kernel,
   by decide +kernel⟩

theorem test_RollbacksFreezesAndBanks :
    -- none
    (fun (st_ : State) => (match st_.region 0 with | some r => !r.wantRollback | none => false)) (regionState) = true ∧
    -- freezes
    (fun (st_ : State) => (match st_.region 0 with | some r => r.wantRollback && r.place.isSome && (st_.regionBus r).any (fun n => !(st_.bu n).frozen.contains .rollback) | none => false)) (regionState (fun r => { r with wantRollback := true })) = true ∧
    -- rolls back
    (fun (st_ : State) => (match st_.region 0 with | some r => r.wantRollback && (st_.regionBus r).all (fun n => (st_.bu n).frozen == [.rollback] && (st_.bu n).node.started.isEmpty) | none => false)) ((regionAll (fun b => { b with frozen := [.rollback], queues := [(1, [tok 1])], ctxs := b.ctxs.map (fun c => { c with ckpts := [⟨4095, Regs.start, true⟩] }) }) (regionState (fun r => { r with wantRollback := true })))) = true ∧
    -- wave
    (fun (st_ : State) => (st_.bu 0).waves == [.frz] && !commitReady st_ 0 0) ((withA (arg 0) (placedState [] [] [0x3000000FF0000000])).modBu 0 (fun b => { b with waves := [.frz] }) |>.modCtx 0 0 (fun c => { c with blk := { Blk.idle with running := true, effs := [(0, 0, .flags 1)] } })) = true ∧
    -- hang
    (fun (st_ : State) => (match st_.region 0 with | some r => hangStuck st_ r && r.hang == 10 && r.idle == 10 && r.map == 0 && (st_.regionBus r).length == 16 && (match r.running.bind st_.launch with | some l => !launchReady st_ l | none => true) && (st_.image r.image).isSome | none => false)) ((regionState (fun r => { r with hang := 10, idle := 10 })).modBu 0 (fun b => { b with queues := [(1, [tok 1])] })) = true ∧
    -- hang early
    (fun (st_ : State) => (match st_.region 0 with | some r => decide (r.idle < r.hang) | none => false)) (regionState (fun r => { r with hang := 10, idle := 9 })) = true ∧
    -- retention
    (fun (st_ : State) => (st_.bu 24575).region.isNone && decide (24575 < Config.bankUnits)) (withA (arg 24575) State.reset) = true ∧
    -- retention placed
    (fun (st_ : State) => (st_.bu 0).region.isSome) (withA (arg 0) (placedState [] [] [])) = true ∧
    -- retention exit
    (fun (st_ : State) => (st_.bu 3).retention && st_.my.arg.flag) (withA { arg 3 2 with flag := true, cmd := ⟨0, 0, 0, 1023, 0, 0, 0, 0, 0⟩ } ((State.reset : State).modBu 3 (fun b => { b with retention := true, sec := 0xFFFFFFFE }))) = true ∧
    -- migration
    (fun (st_ : State) => st_.hub.watermark == some (Config.deviceBytes - 1024) && !st_.my.arg.flag) (withA (arg 0) ((State.reset : State).modHub (fun h => { h with watermark := some (Config.deviceBytes - 1024) }))) = true ∧
    -- commit first
    (fun (st_ : State) => commitReady st_ 0 0) ((withA (arg 0) (doneState [] 6)).modBu 0 (fun b => { b with waves := [.frz] })) = true ∧
    -- frozen already
    (fun (st_ : State) => (List.range 4).all (fun k => !commitReady st_ 0 k) && (st_.bu 0).frozen == [.monitor]) ((withA (arg 0) (placedState [] [] [0x3000000FF0000000])).modBu 0 (fun b => { b with waves := [.frz], frozen := [.monitor] })) = true ∧
    -- shortage
    (fun (st_ : State) => st_.my.arg.flag) (withA { arg 0 with flag := true } State.reset) = true ∧
    -- drop
    (fun (st_ : State) => st_.hub.watermark == none && !st_.my.arg.flag) (withA (arg 0) State.reset) = true ∧
    -- dual freezes
    (fun (st_ : State) => (match st_.region 0 with | some r => r.wantRollback && r.dual && r.place.isSome && (st_.groupOf r).length == 2 | none => false)) ((regionState (fun r => { r with wantRollback := true, dual := true, twins := [1] })).modHub (fun h => { h with regions := h.regions ++ [(1, { probeRegion with id := 1, primary := false, dual := true, twins := [0], place := some ⟨0, 1, 0⟩ })] })) = true :=
  ⟨by decide +kernel,
   by decide +kernel,
   by decide +kernel,
   by decide +kernel,
   by decide +kernel,
   by decide +kernel,
   by decide +kernel,
   by decide +kernel,
   by decide +kernel,
   by decide +kernel,
   by decide +kernel,
   by decide +kernel,
   by decide +kernel,
   by decide +kernel,
   by decide +kernel⟩

theorem test_OutsideWorld :
    -- host write
    (fun (st_ : State) => decide (2 ^ 60 ≤ st_.my.arg.n ∧ st_.my.arg.n + st_.my.arg.bytes.length ≤ 2 ^ 61)) (withA { arg (2 ^ 61 - 1) with bytes := [7] } State.reset) = true ∧
    -- device write
    (fun (st_ : State) => decide (st_.my.arg.n + st_.my.arg.bytes.length ≤ Config.deviceBytes) && !st_.out.linkFailed) (withA { arg 62 with bytes := [7, 8, 9] } State.reset) = true ∧
    -- write beyond
    (fun (st_ : State) => decide (Config.deviceBytes < st_.my.arg.n + st_.my.arg.bytes.length ∧ st_.my.arg.n < 2 ^ 60)) (withA { arg Config.deviceBytes with bytes := [7] } State.reset) = true ∧
    -- link down
    (fun (st_ : State) => st_.out.linkFailed) (withA { arg 0 with bytes := [7] } ((State.reset : State).modOut (fun o => { o with linkFailed := true }))) = true ∧
    -- device read
    (fun (st_ : State) => decide (st_.my.arg.n + st_.my.arg.m ≤ Config.deviceBytes) && !st_.out.linkFailed) (withA (arg 8 2) (putNat 8 2 0x1234 State.reset)) = true ∧
    -- peer
    (fun (st_ : State) => st_.out.moduleId.isSome && (mapGet 5 st_.out.routeTable).isSome && st_.out.window 3 == 1) (withA { arg 5 64 with flag := true, bytes := [7], cmd := ⟨0, 0, 0, 3, 1, 0, 0, 0, 0⟩ } ((State.reset : State).modOut (fun o => { o with moduleId := some 1, routeTable := [(5, 3)], peerWindows := [(3, 1)] }))) = true ∧
    -- peer none
    (fun (st_ : State) => st_.out.moduleId.isNone) (withA (arg 5) State.reset) = true ∧
    -- peer grant
    (fun (st_ : State) => decide (st_.out.window 15 + 8 ≤ 32)) (withA (arg 15) ((State.reset : State).modOut (fun o => { o with peerWindows := [(15, 24)] }))) = true ∧
    -- training
    (fun (st_ : State) => st_.my.arg.n == 8) (withA (arg 8) State.reset) = true ∧
    -- training other
    (fun (st_ : State) => st_.my.arg.n != 8 && st_.my.arg.n != 16 && st_.my.arg.n != 32) (withA (arg 4) State.reset) = true ∧
    -- register
    (fun (st_ : State) => st_.my.arg.n == 8 && !st_.out.linkFailed) (withA { arg 8 with cmd := ⟨0, 0, 0, 130, 0, 0, 0, 0, 0⟩ } State.reset) = true ∧
    -- clock message
    (fun (st_ : State) => !st_.out.timeRoot && st_.my.arg.flag) (withA { arg (2 ^ 64) with flag := true } State.reset) = true ∧
    -- tick
    (fun (st_ : State) => st_.out.tick == 2 ^ 64 - 1) ((State.reset : State).modOut (fun o => { o with tick := 2 ^ 64 - 1 })) = true ∧
    -- alarm
    (fun (st_ : State) => st_.out.alarmAct[3] == .erase) (withA (arg 3) ((State.reset : State).modOut (fun o => { o with alarmAct := o.alarmAct.set 3 .erase }))) = true ∧
    -- call
    (fun (st_ : State) => served st_ && rowIs st_ .fwcallTick) (reqState [rq .fwcallTick 0 0 0 0] (jobState [] ((State.reset : State).modOut (fun o => { o with tick := 77 })))) = true ∧
    -- call bell
    (fun (st_ : State) => served st_ && rowIs st_ .fwcallBell && bellInOrder st_ (rq .fwcallBell 15 0 0 0)) (reqState [rq .fwcallBell 15 0 0 0]) = true ∧
    -- own write read
    (fun (st_ : State) => !st_.out.linkFailed && st_.ms.pending.any (fun p => p.w.party == .host && decide (p.w.key < 66 ∧ 62 < p.w.key + p.w.bytes.length))) (withA (arg 62 4) { State.reset with ms := { State.reset.ms with pending := [⟨⟨7, 64, [1], .host, [], []⟩, none, [], none, false, none⟩] } }) = true ∧
    -- own write beside
    (fun (st_ : State) => !st_.out.linkFailed && st_.ms.pending.all (fun p => !decide (p.w.key < 64))) (withA (arg 62 2) { State.reset with ms := { State.reset.ms with pending := [⟨⟨7, 64, [1], .host, [], []⟩, none, [], none, false, none⟩] } }) = true ∧
    -- bell
    (fun (st_ : State) => st_.ms.pending.length == 2) ((fun (s : State) => { s with ms := { s.ms with pending := [⟨⟨7, 64, [1], .host, [], []⟩, none, [], none, false, none⟩, ⟨⟨8, 128, [1], .node 0, [], []⟩, none, [], none, false, none⟩] } }) ((cmdState [0]).modOut (fun o => { o with fwTail := 0 }))) = true ∧
    -- hbell down
    (fun (st_ : State) => st_.out.linkFailed) (withA { arg 0 with cmd := ⟨0, 0, 0, 1, 0, 0, 0, 0, 0⟩ } ((State.reset : State).modOut (fun o => { o with linkFailed := true, hbell := 1 }))) = true ∧
    -- alarm in a command
    (fun (st_ : State) => st_.out.alarmAct[3] == .log && st_.out.cmdBegun) (withA (arg 3) ((State.reset : State).modOut (fun o => { o with cmdBegun := true }))) = true ∧
    -- clock lost
    (fun (st_ : State) => !st_.out.timeRoot && !st_.my.arg.flag && !st_.out.unsync) (withA (arg 5) ((State.reset : State).modOut (fun o => { o with synced := true, ready := true }))) = true ∧
    -- window 31
    (fun (st_ : State) => decide (st_.out.window 31 + 8 ≤ 32)) (withA (arg 31) ((State.reset : State).modOut (fun o => { o with peerWindows := [(31, 0)] }))) = true ∧
    -- window 32
    (fun (st_ : State) => decide (32 ≤ st_.my.arg.n)) (withA (arg 32) State.reset) = true :=
  ⟨by decide +kernel,
   by decide +kernel,
   by decide +kernel,
   by decide +kernel,
   by decide +kernel,
   by decide +kernel,
   by decide +kernel,
   by decide +kernel,
   by decide +kernel,
   by decide +kernel,
   by decide +kernel,
   by decide +kernel,
   by decide +kernel,
   by decide +kernel,
   by decide +kernel,
   by decide +kernel,
   by decide +kernel,
   by decide +kernel,
   by decide +kernel,
   by decide +kernel,
   by decide +kernel,
   by decide +kernel,
   by decide +kernel,
   by decide +kernel⟩

theorem test_JobCommands :
    -- denied
    (fun (st_ : State) => st_.my.arg.cmd.job == 0) (withA (cmdArg 0 0 0 0) jobState) = true ∧
    -- arm fails
    (fun (st_ : State) => st_.my.arg.cmd.job != 0 && (match (armAt st_ 1 0x60000).1 with | .error _ => true | .ok _ => false)) (withA (cmdArg 1 0x60000 0 0) jobState) = true ∧
    -- release none
    (fun (st_ : State) => (st_.image 5).isNone) (withA (cmdArg 1 0 5 0) jobState) = true ∧
    -- release
    (fun (st_ : State) => (match st_.image 3 with | some im => im.job == 1 && (st_.launchesUnder 3).isEmpty && st_.hub.xforms.isEmpty | none => false)) (withA (cmdArg 1 0 3 0) (jobState.modHub (fun h => { h with images := [(3, ⟨1, 1, 1, 1, [], [], []⟩)] }))) = true ∧
    -- launch no job
    (fun (st_ : State) => st_.my.arg.cmd.a0 == 0 && (mapGet 2 st_.hub.jobs).isNone) (withA (cmdArg 2 0 0x60000 0) jobState) = true ∧
    -- launch rejected
    (fun (st_ : State) => (match mapGet 1 st_.hub.jobs with | some j => (match (submitLaunch st_ j (st_.devNat 0x60000 128) false false).1 with | .error _ => true | .ok _ => false) | none => false)) (withA (cmdArg 1 0 0x60000 0) jobState) = true ∧
    -- cancel
    (fun (st_ : State) => (mapGet 1 st_.hub.jobs).isSome && (match cancelWork st_ 1 3 0 none with | .ok (n, _) => n == 0 | .error _ => false)) (withA (cmdArg 1 3 0 0) jobState) = true ∧
    -- cancel argument
    (fun (st_ : State) => (mapGet 1 st_.hub.jobs).isSome && (match cancelWork st_ 1 5 0 none with | .ok _ => false | .error e => e == .cancelArg)) (withA (cmdArg 1 5 0 0) jobState) = true ∧
    -- query counter
    (fun (st_ : State) => st_.counterOf 1 3 == some 13 && (mapGetD 13 st_.hub.cntRels []).isEmpty) (withA (cmdArg 1 0 3 0) (jobState.modHub (fun h => { h with counters := [(13, (9, 0))] }))) = true ∧
    -- query counter none
    (fun (st_ : State) => st_.counterOf 1 4 == none) (withA (cmdArg 1 0 4 0) jobState) = true ∧
    -- query phase
    (fun (st_ : State) => (st_.phaseQueue 1 0).length == 1) (withA (cmdArg 1 2 0 0) (jobState.modHub (fun h => { h with phaseQueues := [(1, 0, [testRec .overflow])] }))) = true ∧
    -- gang modules
    (fun (st_ : State) => decide (4096 < st_.my.arg.cmd.a2.toNat)) (withA (cmdArg 1 0 0 4097) jobState) = true ∧
    -- other record
    (fun (st_ : State) => decide (st_.queued < 4096) && st_.my.arg.cmd.a0 != 0 && st_.devNat 0x60000 2 == 2) (withA (cmdArg 1 0x60000 0x60040 0) (putNat 0x60000 2 2 jobState)) = true ∧
    -- record broken
    (fun (st_ : State) => decide (st_.queued < 4096) && st_.my.arg.cmd.a0 != 0 && st_.devNat 0x60000 2 == 2 && (startJob st_ 2 (st_.devNat 0x60000 128)).isNone) (withA (cmdArg 2 0x60000 0x60040 0) (putNat 0x60000 2 2 jobState)) = true ∧
    -- launch misaligned
    (fun (st_ : State) => decide (st_.queued < 4096) && st_.my.arg.cmd.a1.toNat % 64 != 0 && (mapGet 1 st_.hub.jobs).isSome) (withA (cmdArg 1 0 0x60020 0) jobState) = true ∧
    -- launch full
    (fun (st_ : State) => decide (4096 ≤ st_.queued)) (withA (cmdArg 1 0 0x60000 0) (jobState.modHub (fun h => { h with launches := (List.range 4096).map (fun i => (i + 1, { testLaunch with st := .queued })) }))) = true ∧
    -- release waits
    (fun (st_ : State) => (match st_.image 3 with | some im => im.job == 1 && !(st_.launchesUnder 3).isEmpty && st_.hub.xforms.isEmpty | none => false)) (withA (cmdArg 1 0 3 0) (regionState id testLaunch (jobState.modHub (fun h => { h with images := [(3, ⟨1, 1, 1, 1, [], [], []⟩)], regions := [(0, { probeRegion with image := 3 })] }))) |> withA (cmdArg 1 0 3 0)) = true ∧
    -- gang other module
    (fun (st_ : State) => st_.out.moduleId == some 5 && !(st_.moduleList 0x60100 1).contains 5) (withA (cmdArg 1 0x60000 0x60100 1) ((putNat 0x60100 2 9 jobState).modOut (fun o => { o with moduleId := some 5 }))) = true ∧
    -- gang late
    (fun (st_ : State) => st_.out.moduleId == some 5 && (st_.moduleList 0x60100 1).contains 5 && (match mapGet 1 st_.hub.jobs with | some j => (match checkLaunch st_ j (launchRec (st_.devNat 0x60000 128) true) false with | .ok l => decide (l.tick < st_.out.tick + 2000) | .error _ => false) | none => false)) (withA (cmdArg 1 0x60000 0x60100 1) ((putNat 0x60100 2 5 (putNat 0x60000 8 (4 * 2 ^ 16) (jobState [] ((placedState [] [] []).modHub (fun h => { h with pools := [(0, 0)] }))))).modOut (fun o => { o with moduleId := some 5 }))) = true :=
  ⟨by decide +kernel,
   by decide +kernel,
   by decide +kernel,
   by decide +kernel,
   by decide +kernel,
   by decide +kernel,
   by decide +kernel,
   by decide +kernel,
   by decide +kernel,
   by decide +kernel,
   by decide +kernel,
   by decide +kernel,
   by decide +kernel,
   by decide +kernel,
   by decide +kernel,
   by decide +kernel,
   by decide +kernel,
   by decide +kernel,
   by decide +kernel⟩

theorem test_FirmwareSettings :
    -- map
    (fun (st_ : State) => st_.my.arg.cmd.job != 0 && st_.devNat 0x60000 8 == 0x90000 && st_.devNat 0x60008 8 == 77) (withA (cmdArg 1 0x60000 1 0) (putNat 0x60008 8 77 (putNat 0x60000 8 0x90000 jobState))) = true ∧
    -- map pairs
    (fun (st_ : State) => decide (256 < st_.my.arg.cmd.a1.toNat)) (withA (cmdArg 1 0x60000 257 0) jobState) = true ∧
    -- class
    (fun (st_ : State) => decide (256 ≤ st_.my.arg.cmd.a0.toNat)) (withA (cmdArg 1 256 0x60000 0) jobState) = true ∧
    -- class bound
    (fun (st_ : State) => !classBad (st_.devNat 0x60000 32)) (withA (cmdArg 1 255 0x60000 0) (putNat 0x60010 8 (1 + 12 * 2 ^ 8 + 2 ^ 16 + 2 ^ 32 + 2 ^ 40 + 2 ^ 48) jobState)) = true ∧
    -- transform
    (fun (st_ : State) => !transformBad (st_.devNat 0x60000 32) && decide (1 < Config.transforms)) (withA (cmdArg 1 1 0x60000 0) jobState) = true ∧
    -- denied
    (fun (st_ : State) => st_.my.arg.cmd.job != 0) (withA (cmdArg 1 0 0 0) jobState) = true ∧
    -- reset
    (fun (st_ : State) => st_.my.arg.cmd.job == 0) (withA (cmdArg 0 0 0 0) jobState) = true ∧
    -- module
    (fun (st_ : State) => st_.my.arg.cmd.job == 0) (withA (cmdArg 0 0 4095 0) jobState) = true ∧
    -- pool
    (fun (st_ : State) => bitOf (st_.devNat 0x60000 192) 1 && !bitOf (st_.devNat 0x60000 192) 0) (withA (cmdArg 0 1 15 0x60000) (putNat 0x60000 1 2 jobState)) = true ∧
    -- pool number
    (fun (st_ : State) => decide (16 ≤ st_.my.arg.cmd.a1.toNat)) (withA (cmdArg 0 1 16 0x60000) jobState) = true ∧
    -- spans
    (fun (st_ : State) => decide (1 ≤ st_.my.arg.cmd.a2.toNat ∧ st_.my.arg.cmd.a2.toNat ≤ 2 ^ 24)) (withA (cmdArg 0 0 0x70000 (2 ^ 24)) jobState) = true ∧
    -- spans size
    (fun (st_ : State) => decide (2 ^ 24 < st_.my.arg.cmd.a2.toNat)) (withA (cmdArg 0 0 0x70000 (2 ^ 24 + 1)) jobState) = true ∧
    -- window
    (fun (st_ : State) => decide (1 ≤ st_.my.arg.cmd.a1.toNat ∧ st_.my.arg.cmd.a1.toNat ≤ 65535)) (withA (cmdArg 0 0 65535 0) jobState) = true ∧
    -- window 0
    (fun (st_ : State) => st_.my.arg.cmd.a1.toNat == 0) (withA (cmdArg 0 0 0 0) jobState) = true ∧
    -- clear mode
    (fun (st_ : State) => decide (st_.my.arg.cmd.a1.toNat < 2 ^ 17 ∧ st_.my.arg.cmd.a1.toNat / 2 ^ 2 % 2 ^ 7 < Config.cols)) (withA (cmdArg 0 0 (2 ^ 17 - 1 - 2 ^ 9 + 2 ^ 9 - (127 - 95) * 4) 0) jobState) = true ∧
    -- budget
    (fun (st_ : State) => (mapGet 1 st_.hub.jobs).isSome) (withA (cmdArg 0 0 1 (2 ^ 64 - 1001)) jobState) = true ∧
    -- alarm
    (fun (st_ : State) => st_.my.arg.cmd.a1.toNat == 3 && st_.my.arg.cmd.a2.toNat == 1) (withA (cmdArg 0 0 3 1) jobState) = true ∧
    -- time
    (fun (st_ : State) => st_.my.arg.cmd.a1.toNat % 2 == 1) (withA (cmdArg 0 0 1 0) jobState) = true ∧
    -- map drops
    (fun (st_ : State) => decide (st_.my.arg.cmd.a1.toNat ≤ 256) && st_.my.arg.cmd.job == 1) (withA { (cmdArg 1 0x60000 0 0x10000) with cmd := { (cmdArg 1 0x60000 0 0x10000).cmd with a3 := 1 } } (jobState.modHub (fun h => { h with walkCaches := [(0, [⟨1, 0x40000, 16, 1, 1⟩, ⟨1, 0x40008, 16, 2, 1⟩])] }))) = true ∧
    -- reset routes
    (fun (st_ : State) => st_.my.arg.cmd.job == 0) (withA (cmdArg 0 0 0 0) (jobState.modOut (fun o => { o with synced := true, moduleId := some 3 }))) = true :=
  ⟨by decide +kernel,
   by decide +kernel,
   by decide +kernel,
   by decide +kernel,
   by decide +kernel,
   by decide +kernel,
   by decide +kernel,
   by decide +kernel,
   by decide +kernel,
   by decide +kernel,
   by decide +kernel,
   by decide +kernel,
   by decide +kernel,
   by decide +kernel,
   by decide +kernel,
   by decide +kernel,
   by decide +kernel,
   by decide +kernel,
   by decide +kernel,
   by decide +kernel⟩

/-- An operation and its word, a command with every argument set, and an entry whose reserved field is not 0. -/
theorem test_EncodingRoundTrip :
    (Instr.add (w3 (G 3) (G 3) (QI 0) Z .i64 0)).wf = true ∧ encode (.add (w3 (G 3) (G 3) (QI 0) Z .i64 0)) = some 0x0000303800060000 ∧
    decodeWord 0xF400000000000001 = .ok (.thaw (w3 Z Z Z Z .i8 1)) ∧
    decodeCmd 1 ⟨0xFF, 0xFFFF, 2 ^ 64 - 1, 2 ^ 64 - 1, 2, 3, 4, 5, 2 ^ 64 - 1⟩ = .ok .armRelease ∧
    (2 ^ 63 + 1) / 2 ^ 32 % 2 ^ 32 ≠ 0 := by decide +kernel

/-- A sound state with a word to execute, from which a step goes on. -/
theorem test_StepKeepsSound :
    Sound (issued 0 [0x0104004FF0000001] (placedState [] [] [0x0104004FF0000001])) ∧
    goesOn (step (issued 0 [0x0104004FF0000001] (placedState [] [] [0x0104004FF0000001]))) = true := by
  refine ⟨⟨⟨?_, ?_, ?_, ?_⟩, ⟨?_, ?_, ?_, ?_, ?_, ?_, ?_⟩⟩, ?_⟩
  all_goals decide +kernel

end Sys2Proof.Tests
end

section
/-!
SUPPORT. The bits of numbers, of their fields and of their sign extensions, and of what the bit-field operations compute (R77, R80).
-/
namespace Sys2Proof

/-! ### Bits of a number -/

theorem bitOf_eq_testBit (n k : Nat) : bitOf n k = n.testBit k := by
  rw [Nat.testBit_eq_decide_div_mod_eq]
  rfl

theorem bitOf_mod (n w k : Nat) : bitOf (n % 2 ^ w) k = (decide (k < w) && bitOf n k) := by
  simp only [bitOf_eq_testBit, Nat.testBit_mod_two_pow]

theorem bitOf_mod_of_lt (n : Nat) {w k : Nat} (h : k < w) : bitOf (n % 2 ^ w) k = bitOf n k := by
  rw [bitOf_mod, decide_eq_true h, Bool.true_and]

theorem bitOf_bitsOf (n lo len k : Nat) : bitOf (bitsOf n lo len) k = (decide (k < len) && bitOf n (lo + k)) := by
  unfold bitsOf
  rw [bitOf_mod]
  simp only [bitOf_eq_testBit, Nat.testBit_div_two_pow, Nat.add_comm]

theorem bitsOf_lt (n lo len : Nat) : bitsOf n lo len < 2 ^ len := Nat.mod_lt _ (Nat.two_pow_pos len)

/-- A field that stands in the low w bits does not see the bits above. -/
theorem bitsOf_mod (n : Nat) {w lo len : Nat} (h : lo + len ≤ w) : bitsOf (n % 2 ^ w) lo len = bitsOf n lo len := by
  refine Nat.eq_of_testBit_eq fun k => ?_
  simp only [← bitOf_eq_testBit, bitOf_bitsOf]
  by_cases hk : k < len
  · rw [bitOf_mod_of_lt n (by omega)]
  · simp [hk]

/-! ### Sign extension -/

theorem signedOf_eq_toInt {w : Nat} (n : Nat) (hw : 0 < w) : signedOf w n = (BitVec.ofNat w n).toInt := by
  obtain ⟨m, rfl⟩ : ∃ m, w = m + 1 := ⟨w - 1, by omega⟩
  simp only [signedOf, BitVec.toInt_eq_toNat_cond, BitVec.toNat_ofNat, Nat.add_sub_cancel, Nat.pow_succ]
  split <;> split <;> omega

theorem wrapNat_lt (w : Nat) (i : Int) : wrapNat w i < 2 ^ w := by
  rw [wrapNat, ← BitVec.toNat_ofInt]
  exact BitVec.isLt _

/-- A number read as signed of w bits repeats its bit w - 1 above. -/
theorem bitOf_wrapNat_signedOf (n : Nat) {v w k : Nat} (hw : 0 < w) (hk : k < v) :
    bitOf (wrapNat v (signedOf w n)) k = bitOf n (min k (w - 1)) := by
  have hx : wrapNat v (signedOf w n) = ((BitVec.ofNat w n).signExtend v).toNat := by
    rw [signedOf_eq_toInt n hw, wrapNat, ← BitVec.toNat_ofInt]
    rfl
  rw [hx, bitOf_eq_testBit, BitVec.testBit_toNat, BitVec.getLsbD_signExtend, BitVec.msb_eq_getLsbD_last]
  simp only [hk, decide_true, Bool.true_and, BitVec.getLsbD_ofNat, ← bitOf_eq_testBit]
  split
  · next hlow => rw [Nat.min_eq_left (by omega), decide_eq_true hlow, Bool.true_and]
  · next hhigh => rw [Nat.min_eq_right (by omega), decide_eq_true (by omega), Bool.true_and]

namespace Machine
open Sys2Proof.Rules

/-! ### The bit-field operations (R80) -/

theorem lenOr64_pos (n : Nat) : 0 < lenOr64 n := by
  unfold lenOr64
  split <;> omega

theorem lenOr64_le (b : Nat) : lenOr64 (bitsOf b 8 6) ≤ 64 := by
  have := bitsOf_lt b 8 6
  unfold lenOr64
  split <;> omega

/-- `bfx` takes its field from the low 64 bits of b. -/
theorem bitExtract_mod (signExt : Bool) (a b : Nat) : bitExtract signExt a (b % 2 ^ 64) = bitExtract signExt a b := by
  unfold bitExtract
  rw [bitsOf_mod b (by decide), bitsOf_mod b (by decide)]

/-- `bfi` takes its field from the low 64 bits of b. -/
theorem bitInsert_mod (a b c : Nat) : bitInsert a (b % 2 ^ 64) c = bitInsert a b c := by
  unfold bitInsert
  rw [bitsOf_mod b (by decide), bitsOf_mod b (by decide)]

/-- The operand of `bfx` with 64 copies of its sign above it. -/
theorem add_signBits_eq_wrapNat {a : Nat} (ha : a < 2 ^ 64) :
    a + (if bitOf a 63 then (2 ^ 64 - 1) * 2 ^ 64 else 0) = wrapNat 128 (signedOf 64 a) := by
  simp only [bitOf, signedOf, wrapNat, beq_iff_eq, Nat.mod_eq_of_lt ha]
  split <;> split <;> omega

theorem bitOf_bitExtract_unsigned (a b k : Nat) (hk : k < 64) :
    bitOf (wrapNat 64 (bitExtract false (a % 2 ^ 64) b)) k =
      (decide (k < lenOr64 (bitsOf b 8 6)) && decide (bitsOf b 0 6 + k < 64) && bitOf a (bitsOf b 0 6 + k)) := by
  have hwrap (n : Nat) : wrapNat 64 (n : Int) = n % 2 ^ 64 := by unfold wrapNat; omega
  simp only [bitExtract, Bool.false_and, Bool.false_eq_true, if_false, Nat.add_zero]
  rw [hwrap, bitOf_mod_of_lt _ hk, bitOf_bitsOf, bitOf_mod, Bool.and_assoc]

theorem bitOf_bitExtract_signed (a b k : Nat) (hk : k < 64) :
    bitOf (wrapNat 64 (bitExtract true (a % 2 ^ 64) b)) k =
      bitOf a (min (bitsOf b 0 6 + min k (lenOr64 (bitsOf b 8 6) - 1)) 63) := by
  have hpos : bitsOf b 0 6 < 64 := bitsOf_lt b 0 6
  have hlen := lenOr64_le b
  have hlen0 := lenOr64_pos (bitsOf b 8 6)
  simp only [bitExtract, Bool.true_and, if_true]
  rw [add_signBits_eq_wrapNat (Nat.mod_lt _ (by positivity)), bitOf_wrapNat_signedOf _ hlen0 hk, bitOf_bitsOf,
    decide_eq_true (by omega), Bool.true_and, bitOf_wrapNat_signedOf _ (by decide) (by omega), bitOf_mod_of_lt _ (by omega)]

/-- A number as the bits below a field, the field, and the bits above it. -/
theorem eq_field_parts (c pos n : Nat) : c = 2 ^ pos * (2 ^ n * (c / 2 ^ pos / 2 ^ n) + bitsOf c pos n) + c % 2 ^ pos := by
  unfold bitsOf
  rw [Nat.div_add_mod, Nat.div_add_mod]

/-- `bfi` changes the field alone. -/
theorem bitInsert_eq_parts (a c : Nat) {b pos n : Nat} (hpos : bitsOf b 0 6 = pos) (hn : min (lenOr64 (bitsOf b 8 6)) (64 - pos) = n) :
    bitInsert a b c = 2 ^ pos * (2 ^ n * (c / 2 ^ pos / 2 ^ n) + bitsOf a 0 n) + c % 2 ^ pos := by
  have hc := eq_field_parts c pos n
  simp only [bitInsert, hpos, hn]
  rw [Nat.mul_add, Nat.mul_comm (2 ^ pos) (bitsOf _ _ _)] at hc ⊢
  omega

theorem bitOf_bitInsert (a b c k : Nat) :
    bitOf (bitInsert a b c) k =
      (if bitsOf b 0 6 ≤ k ∧ k < min (bitsOf b 0 6 + lenOr64 (bitsOf b 8 6)) 64 then bitOf a (k - bitsOf b 0 6) else bitOf c k) := by
  have hpos : bitsOf b 0 6 < 64 := bitsOf_lt b 0 6
  generalize hn : min (lenOr64 (bitsOf b 8 6)) (64 - bitsOf b 0 6) = n
  rw [bitInsert_eq_parts a c rfl hn]
  simp only [bitOf_eq_testBit, Nat.testBit_two_pow_mul_add _ (Nat.mod_lt c (Nat.two_pow_pos _)),
    Nat.testBit_two_pow_mul_add _ (bitsOf_lt a 0 n)]
  by_cases hlow : k < bitsOf b 0 6
  · rw [if_pos hlow, if_neg (by omega), Nat.testBit_mod_two_pow, decide_eq_true hlow, Bool.true_and]
  by_cases hin : k - bitsOf b 0 6 < n
  · rw [if_neg hlow, if_pos hin, if_pos (by omega), ← bitOf_eq_testBit, bitOf_bitsOf, decide_eq_true hin, Bool.true_and,
      Nat.zero_add, bitOf_eq_testBit]
  · rw [if_neg hlow, if_neg hin, if_neg (by omega), Nat.testBit_div_two_pow, Nat.testBit_div_two_pow]
    congr 1
    omega

theorem bitInsert_lt {a b c : Nat} (hc : c < 2 ^ 64) : bitInsert a b c < 2 ^ 64 := by
  refine Nat.lt_pow_two_of_testBit _ fun k hk => ?_
  rw [← bitOf_eq_testBit, bitOf_bitInsert, if_neg (by omega), bitOf_eq_testBit]
  exact Nat.testBit_lt_two_pow (hc.trans_le (Nat.pow_le_pow_right (by decide) hk))

end Machine
end Sys2Proof
end

section
/-!
SUPPORT. What an instruction of a row runs, and what a flag trap and the firing of a control operation come to.
-/
namespace Sys2Proof.Machine
open Sys2Proof.Rules

/-- An instruction is made of its row and its fields. -/
theorem mk_of_row {i : Instr} {r : Row} {o : Op} (hr : i.row = some r) (ho : i.op? = some o) : r.mk o = some i := by
  cases i <;> cases hr <;> cases ho <;> rfl

/-- A scalar operation that executes and raises a flag that traps ends with FLAG (R88). -/
theorem runScalar_traps {r : Row} {o : Op} {s : State} {x : Srcs} {ready : View → Bool} {body : View → Srcs → Except Stop Res} {res : Res}
    {k : Nat} (h : Fires r o s x) (hr : ready (mkView s r o) = true) (hb : body (mkView s r o) x = .ok res)
    (hk : flagTrap (mkView s r o).c.regs.fmask res.flags = some k) :
    runScalar r o s ready body = stopOp (mkView s r o) (.fault ⟨.flag, 0, k⟩) := by
  obtain ⟨⟨hc, bits, hp, hs⟩, h1⟩ := h
  rw [readSrcs_sel hs] at h1
  unfold seen at *
  unfold runScalar
  dsimp only
  rw [hp]
  dsimp only
  rw [if_neg (by omega), hc, hr, hs]
  simp only [Bool.and_self, Bool.not_true, Bool.false_eq_true, if_false]
  rw [hb]
  dsimp only
  rw [hk]

/-- A control operation that fires stops as its body says. -/
theorem runControl_stops {r : Row} {o : Op} {s : State} {x : Srcs} {bits : Nat} {fire : View → Srcs → Except Stop Blk} {e : Stop}
    (hp : readPred (mkView s r o).c (mkView s r o).o.pred = .ok bits) (hsel : selBits bits (mkView s r o).o.psense % 2 = 1)
    (hs : readSrcs (mkView s r o) (selBits bits (mkView s r o).o.psense) = .ok x)
    (hc : condHolds (mkView s r o).o x.a = true) (hf : fire (mkView s r o) x = .error e) :
    runControl r o s fire = stopOp (mkView s r o) e := by
  unfold runControl
  dsimp only
  rw [hp]
  dsimp only
  rw [if_neg (by omega), hs]
  dsimp only
  rw [if_pos hc, hf]

/-- The steps of `rep` leave an immediate as it is (R75). -/
theorem imm28_mkView (s : State) (r : Row) (o : Op) : (mkView s r o).o.imm28 = o.imm28 := by
  obtain ⟨pred, psense, dst, a, tail⟩ := o
  simp only [mkView, stepOp]
  split
  · rfl
  · cases tail <;> rfl

/-- The condition of a control operation with an immediate holds as R73 says. -/
theorem condHolds_of_imm {o : Op} {n : BitVec 28} {a : Nat} (hn : o.imm28 = some n)
    (h : bitsOf n.toNat 16 2 = 0 ∨ (bitsOf n.toNat 16 2 = 1 ∧ a % 2 = 1) ∨ (1 < bitsOf n.toNat 16 2 ∧ a % 2 = 0)) :
    condHolds o a = true := by
  have hf : condField o = bitsOf n.toNat 16 2 := by unfold condField; rw [hn]
  unfold condHolds
  rw [hf]
  obtain h0 | ⟨h1, ha⟩ | ⟨h1, ha⟩ := h
  · rw [h0]; rfl
  · rw [h1, ha]; rfl
  · split
    · rfl
    · omega
    · rw [ha]; rfl

/-! ### A block that aborts stays idle while its fault is taken (R66, R85, R86) -/

/-- A slot changed leaves another slot as it is, or is the one that is read. -/
theorem State.ctx_modCtx_cases (s : State) (n j k : Nat) (f : Ctx → Ctx) :
    (s.modCtx n j f).ctx n k = f (s.ctx n k) ∨ (s.modCtx n j f).ctx n k = s.ctx n k := by
  by_cases h : (Fin.ofNat 5 j) = (Fin.ofNat 5 k)
  · have same (t : State) : t.ctx n k = t.ctx n j := by simp only [State.ctx, Bu.ctx, h]
    left
    rw [same, State.ctx_modCtx, same s]
  · right
    have hv : (Fin.ofNat 5 j).val ≠ (Fin.ofNat 5 k).val := fun e => h (Fin.ext e)
    simp only [State.ctx, State.modCtx, State.bu_modBu, Bu.modCtx, Bu.ctx, Bu.setCtx, Fin.getElem_fin]
    exact Vector.getElem_set_ne _ _ hv

/-- The block of a slot is that of a context that runs none. -/
def BlkIdle (s : State) (n k : Nat) : Prop := (s.ctx n k).blk = Blk.idle

theorem BlkIdle.modCtx {s : State} {n k : Nat} (h : BlkIdle s n k) (j : Nat) {f : Ctx → Ctx}
    (hf : (f (s.ctx n k)).blk = (s.ctx n k).blk ∨ (f (s.ctx n k)).blk = Blk.idle) : BlkIdle (s.modCtx n j f) n k := by
  unfold BlkIdle at *
  rcases s.ctx_modCtx_cases n j k f with e | e
  · rw [e]
    exact hf.elim (fun g => g.trans h) id
  · rw [e, h]

theorem BlkIdle.abortBlock {s : State} {n k : Nat} (h : BlkIdle s n k) (j : Nat) : BlkIdle (s.abortBlock n j) n k :=
  h.modCtx j (.inr rfl)

/-- The block that aborts is idle (R66). -/
theorem blkIdle_abortBlock (s : State) (n k : Nat) : BlkIdle (s.abortBlock n k) n k := by
  simp [BlkIdle, State.abortBlock]

theorem BlkIdle.endInstance {s : State} {n k : Nat} (h : BlkIdle s n k) (j : Nat) : BlkIdle (s.endInstance n j) n k := by
  unfold State.endInstance
  split
  · exact h
  · refine BlkIdle.modCtx ?_ j (.inl rfl)
    exact iteInduction (motive := fun t => BlkIdle t n k) (fun _ => h) (fun _ => h)

theorem BlkIdle.stopCtx {s : State} {n k : Nat} (h : BlkIdle s n k) (j : Nat) : BlkIdle (s.stopCtx n j) n k :=
  ((h.abortBlock j).endInstance j).modCtx j (.inl rfl)

/-- A context that stops runs no block (R55). -/
theorem blkIdle_stopCtx (s : State) (n k : Nat) : BlkIdle (s.stopCtx n k) n k :=
  ((blkIdle_abortBlock s n k).endInstance k).modCtx k (.inl rfl)

theorem BlkIdle.post {s : State} {n k : Nat} (h : BlkIdle s n k) (r : FaultRec) (stage : Nat) (o : Origin) :
    BlkIdle (s.post r stage o) n k := h

theorem BlkIdle.modBu {s : State} {n k : Nat} (h : BlkIdle s n k) {f : Bu → Bu} (hf : (f (s.bu n)).ctxs = (s.bu n).ctxs) :
    BlkIdle (s.modBu n f) n k := by
  unfold BlkIdle at *
  rw [← h]
  simp only [State.ctx, State.bu_modBu, Bu.ctx, hf]

theorem blkIdle_faultCtx (s : State) (n k : Nat) (r : FaultRec) (o : Origin) : BlkIdle (s.faultCtx n k r o) n k := by
  unfold State.faultCtx
  split
  · exact ((blkIdle_abortBlock s n k).modCtx k (.inl rfl)).modBu rfl
  · exact blkIdle_stopCtx _ n k

theorem blkIdle_faultH (s : State) (n : Nat) (f : Flt) (o : Origin) : BlkIdle (s.faultH n f o) n 4 := by
  have h := ((blkIdle_abortBlock s n 4).modCtx 4 (f := fun c => { c with st := .idle }) (.inl rfl)).post
    (mkRec s { o with slot := 4 } .hfault false 0 f.code.num) 1 o
  unfold State.faultH
  dsimp only
  split
  · exact h
  · next run _ =>
    have h' := (h.modBu (f := fun b => { b with hrun := none }) rfl).post run.record 1
    split
    · exact h' _
    · exact (h' _).stopCtx run.slot

/-- The block of a slot that takes a fault aborts (R66, R85, R86). -/
theorem blkIdle_raise (s : State) (n k block op elem : Nat) (f : Flt) : BlkIdle (s.raise n k block op elem f) n k := by
  unfold State.raise
  dsimp only
  split
  · next h => rw [h]; exact blkIdle_faultH _ n f _
  · exact blkIdle_faultCtx _ n k _ _

end Sys2Proof.Machine
end

section
/-!
CERTIFICATE. Division, the bit-field operations and the trap operations do as R79, R80 and R87 say.
-/
namespace Sys2Proof.Machine
open Sys2Proof.Rules

/-- Quotient, remainder and flags of the model are those of R79. -/
theorem divide_eq_quotient (signed : Bool) (w A B : Nat) : divide signed w A B = quotient signed w A B := by
  unfold divide quotient
  by_cases hB : B = 0
  · simp [hB, divFlags]
  cases signed
  · have hrem : ((A % B : Nat) : Int) = (A : Int) - (B : Int) * ((A / B : Nat) : Int) := by
      rw [eq_sub_iff_add_eq]
      exact_mod_cast Nat.mod_add_div A B
    rw [hrem]
    simp [hB]
  · simp [hB]

/-- The rows of R79 are scalar operations with the result of their row. -/
theorem exec_of_division {i : Instr} {r : Row} {o : Op} {w A B : Nat} {y : Int × Nat} (s : State) (hr : i.row = some r)
    (ho : i.op? = some o) (hd : division r w A B = some y) :
    ∃ f, exec i s = .next (runScalar r o s always (scalarBody f)) ∧ f w A B = y := by
  have hi := mk_of_row hr ho
  unfold division at hd
  simp only [← divide_eq_quotient] at hd
  split at hd <;> cases hd <;> cases hi
  · exact ⟨fun w a b => ((divide true w a b).1, (divide true w a b).2.2), rfl, rfl⟩
  · exact ⟨fun w a b => ((divide false w a b).1, (divide false w a b).2.2), rfl, rfl⟩
  · exact ⟨fun w a b => ((divide true w a b).2.1, (divide true w a b).2.2), rfl, rfl⟩
  · exact ⟨fun w a b => ((divide false w a b).2.1, (divide false w a b).2.2), rfl, rfl⟩

theorem scalarBody_eq {f : Nat → Nat → Nat → Int × Nat} {v : View} {x : Srcs} {d : Int} {fl : Nat}
    (h : f v.o.ty.bits (x.a % 2 ^ v.o.ty.bits) (v.bOrImm x % 2 ^ v.o.ty.bits) = (d, fl)) :
    scalarBody f v x = .ok (valueRes (extend64 v.o.ty d) fl) := by
  unfold scalarBody
  dsimp only
  rw [h]
  rfl

/-- Settles O4: each row of R79 is a scalar operation on `divide`, whose flags are quiet or trap. -/
theorem divisionResults : Obligations.DivisionResults := by
  intro i r o s x d fl hr ho hfires hd
  obtain ⟨f, hexec, hf⟩ := exec_of_division s hr ho hd
  have hbody := scalarBody_eq hf
  constructor
  · intro hq
    rw [hexec, runScalar_fires hfires rfl hbody hq]
  · intro k hk
    rw [hexec, runScalar_traps hfires rfl hbody hk]

theorem exec_bfx {o : Op} {s : State} {x : Srcs} (h : Fires .bfx o s x) :
    exec (.bfx o) s = .next (finishOp (seen s .bfx o) x (valueRes
      (wrapNat 64 (bitExtract ((seen s .bfx o).o.ty == .i64) (x.a % 2 ^ 64) ((seen s .bfx o).bOrImm x))) 0)) := by
  rw [← bitExtract_mod]
  exact congrArg Host.Outcome.next (runScalar_fires h rfl rfl quiet_zero)

theorem exec_bfi {o : Op} {s : State} {x : Srcs} (h : Fires .bfi o s x) :
    exec (.bfi o) s = .next (finishOp (seen s .bfi o) x (valueRes (bitInsert (x.a % 2 ^ 64) x.b (x.c % 2 ^ 64)) 0)) := by
  rw [← bitInsert_mod]
  exact congrArg Host.Outcome.next (runScalar_fires h rfl rfl quiet_zero)

/-- Settles O5: the bits of `bitExtract`, signed for i64 and unsigned otherwise, and of `bitInsert`. -/
theorem fieldResults : Obligations.FieldResults := by
  intro o s x
  constructor
  · intro hfires b pos len
    refine ⟨_, wrapNat_lt 64 _, exec_bfx hfires, fun k hk => ?_⟩
    by_cases hty : (seen s .bfx o).o.ty = .i64
    · rw [if_pos hty, beq_iff_eq.2 hty]
      exact bitOf_bitExtract_signed x.a b k hk
    · rw [if_neg hty, beq_eq_false_iff_ne.2 hty]
      exact bitOf_bitExtract_unsigned x.a b k hk
  · intro hfires pos len
    refine ⟨_, bitInsert_lt (Nat.mod_lt _ (by decide)), exec_bfi hfires, fun k hk => ?_⟩
    have hbit := bitOf_bitInsert (x.a % 2 ^ 64) x.b (x.c % 2 ^ 64) k
    rwa [bitOf_mod_of_lt _ hk, bitOf_mod_of_lt _ (by omega)] at hbit

/-- `trap` and `brk` are control operations whose firing raises the fault of the row. -/
theorem exec_trap_or_brk {i : Instr} {r : Row} {o : Op} (s : State) (hr : i.row = some r) (ho : i.op? = some o) (h : r = .trap ∨ r = .brk) :
    exec i s = .next (runControl r o s
      (fun v x => .error (.fault ⟨if r = .trap then .trap else .brk, 0, controlTarget v x⟩))) := by
  have hi := mk_of_row hr ho
  rcases h with rfl | rfl <;> cases hi <;> rfl

theorem controlTarget_of_imm {v : View} {n : BitVec 28} (x : Srcs) (h : v.o.imm28 = some n) : controlTarget v x = n.toNat % 2 ^ 16 := by
  unfold controlTarget
  rw [h]

/-- Settles O26: a trap that fires stops with its fault, and a fault that is taken leaves its slot without a block. -/
theorem trapResults : Obligations.TrapResults := by
  intro i r o s bits x hr ho htrap hp hsel hs n hn hcond
  have himm : (seen s r o).o.imm28 = some n := (imm28_mkView s r o).trans hn
  refine ⟨_, ?_, rfl, fun _ => ?_⟩
  · rw [exec_trap_or_brk s hr ho htrap]
    refine congrArg Host.Outcome.next (runControl_stops hp hsel hs (condHolds_of_imm himm hcond) ?_)
    rw [controlTarget_of_imm x himm]
  · rw [stopOp_fault]
    exact blkIdle_raise _ _ _ _ _ _ _

end Sys2Proof.Machine
end
